-- ==== Sys2Proof/Word.lean ====
section
/-!
DEFINITION. The plainest types of the model: bytes, words and sparse tables. A table is a list of (key, value) pairs with
strictly rising keys in which no entry holds the value that an unlisted key stands for, so equal tables are equal data.
-/

namespace Sys2Proof

/-- One byte (R5). -/
abbrev Byte := BitVec 8

/-- A 32-bit word. -/
abbrev W32 := BitVec 32

/-- A 64-bit word. -/
abbrev W64 := BitVec 64

/-- A sparse table: (key, value) pairs, keys strictly rising, no entry equal to the table's default. -/
abbrev Tab (α : Type) := List (Nat × α)

/-- Memory as cells: (address, byte) pairs, addresses strictly rising, no listed byte 0 (R583: memory is cleared to 0). -/
abbrev Mem := List (Nat × BitVec 8)

end Sys2Proof
end

