-- ==== Sys2Proof/Syntax.lean ====
section
/-!
DEFINITION. The commands and events of the block: one constructor per row of spec/opcode_table.json, with the row's operands.
A row of a command in flight names its queue and index; a row of an engine operation names the core and the 64-bit slot word
(the OP field of the row stands for the slot's own); a packet is its header bits and its payload.
-/

namespace Sys2Proof

/-- A Caind packet: header bits 255:0 of R365 and the payload bytes. -/
structure Pkt where
  hdr : BitVec 256
  data : List (BitVec 8)
  deriving DecidableEq, Repr

/-- A Halter packet: header bits 127:0 of R439 and the payload bytes. -/
structure HostPkt where
  hdr : BitVec 128
  data : List (BitVec 8)
  deriving DecidableEq, Repr

/-- Who writes a register, posts to a mailbox or takes a lock (R343, R344, R551). -/
inductive Poster where
  | host
  | cpx (core : Fin 4)
  | frontEnd (q : Fin 264) (i : BitVec 32)
  | curator
  deriving DecidableEq, Repr

/-- The path a management frame arrives by (R450). -/
inductive FramePath where
  | i3c
  | host (addr : BitVec 46)
  | mgmt (p : Fin 16) (hdr : BitVec 256)
  deriving DecidableEq, Repr

/-- A link: a Caind port, or the Halter link (R363, R437). -/
inductive Link where
  | caind (p : Fin 16)
  | halter
  deriving DecidableEq, Repr

/-- How a training attempt of a Caind port ends (R357, R358, R364): the step that failed (0: none), and what the partner reports: module or
switch, plane, node, BYPASS, port number, lanes locked, ingress buffer per channel in 32-B units. -/
structure PortPeer where
  fail : BitVec 3
  module : Bool
  plane : BitVec 4
  node : BitVec 18
  bypass : Bool
  port : BitVec 4
  lanes : BitVec 8
  credits : List (BitVec 16)
  deriving DecidableEq, Repr

/-- A frame as it arrives on a link (R363, R380): sequence number, FEC and link CRC good, symbols corrected, the sequence number
that the partner expects next, and the credits it returns per channel. -/
structure FrameIn where
  seq : BitVec 16
  fecOk : Bool
  crcOk : Bool
  symbols : BitVec 16
  ack : BitVec 16
  credits : List (BitVec 16)
  deriving DecidableEq, Repr

/-- An instruction of the TAP at the test header (R569). -/
inductive TapInstr where
  | bypass | idcode | sample | extest | clamp | highz
  deriving DecidableEq, Repr, Inhabited

/-- A channel of an LPDDR5X package (R320). -/
structure LpCh where
  shu : Fin 16
  ch : Fin 8
  deriving DecidableEq, Repr

/-- The commands and events. -/
inductive Instr where
  /-- CMDQ_TAIL (R241). A write of CMDQ_TAIL posts commands, is checked against HEAD and DONE, and rings the queue's doorbell. -/
  | cmdqTail (q : Fin 264) (tail : BitVec 32)
  /-- DB_TAIL (R351). A write of a doorbell in the mailbox region acts as a CMDQ_TAIL write, and a fabric write is accepted only from the job bound to the queue. -/
  | dbTail (q : Fin 264) (v : BitVec 64) (wide : Bool)
  /-- DESC_READ (R251). The front-end reads a posted descriptor and checks its CRC, entries and header, failing the command as the check gives. -/
  | descRead (q : Fin 264)
  /-- WAIT_MET (R263). A registered wait's counter reaches TARGET, and the front-end sees the wait as met 12 FCLK cycles later. -/
  | waitMet (q : Fin 264) (k : Fin 4)
  /-- WAIT_EXPIRED (R264). A wait's timer runs out while the wait is unmet; the queue enters WAIT_EXPIRED, the wait record is published and FE_WAIT is raised. -/
  | waitExpired (q : Fin 264) (k : Fin 4)
  /-- ISSUE (R271). Issue arbitration grants a ready head command at LC or BE level, charging a kernel its engine time. -/
  | issue
  /-- HELD_START (R75). A command held for a conflicting ROUTE, slot, window, collective slot or busy cores starts once the conflict ends. -/
  | heldStart (q : Fin 264) (i : BitVec 32)
  /-- COMMAND_COMPLETE (R244). A command's work ends, its status is fixed, its signals are performed in entry order and its completion record is written. -/
  | commandComplete (q : Fin 264) (i : BitVec 32)
  /-- ACCT_WINDOW (R273). An accounting window ends and every queue's CMDQ_USED starts again at zero. -/
  | acctWindow
  /-- KERNEL (R256). A KERNEL command is checked, charged, predicated, resolved and waits for its core or gang. -/
  | kernel (q : Fin 264) (i : BitVec 32)
  /-- KERNEL_LOAD (R197). Once its core is free and tiles locked, the kernel's list, queue table and activation tables are loaded and bundle 0 issues. -/
  | kernelLoad (q : Fin 264) (i : BitVec 32)
  /-- KERNEL_PRELOAD (R197). The next launch's bundle words are loaded early into the free instruction-memory bank. -/
  | kernelPreload (n : Fin 512)
  /-- KERNEL_END (R222). At cycle C the sequencer checks the kernel against its declared count and reports completion or a LONG, SHORT or TAIL fault. -/
  | kernelEnd (n : Fin 512)
  /-- BUNDLE (R202). The sequencer issues a bundle under its predication, repeat and block control. -/
  | bundle (n : Fin 512)
  /-- STEP (R124). An MT STEP performs one block step on every DPU of the shape, capturing accumulators at END. -/
  | stepOp (n : Fin 512) (slot : BitVec 64)
  /-- VE_ADD (R214). The VE adds two entries lane-wise. -/
  | veAdd (n : Fin 512) (slot : BitVec 64)
  /-- VE_SUB (R214). The VE subtracts two entries lane-wise. -/
  | veSub (n : Fin 512) (slot : BitVec 64)
  /-- VE_MUL (R214). The VE multiplies two entries lane-wise. -/
  | veMul (n : Fin 512) (slot : BitVec 64)
  /-- VE_FMA (R214). The VE forms A × B + C with one rounding. -/
  | veFma (n : Fin 512) (slot : BitVec 64)
  /-- VE_MIN (R214). The VE takes the lane-wise minimum. -/
  | veMin (n : Fin 512) (slot : BitVec 64)
  /-- VE_MAX (R214). The VE takes the lane-wise maximum. -/
  | veMax (n : Fin 512) (slot : BitVec 64)
  /-- VE_CMPLT (R214). The VE compares A < B lane-wise. -/
  | veCmplt (n : Fin 512) (slot : BitVec 64)
  /-- VE_SELECT (R214). The VE selects A or B by C lane-wise. -/
  | veSelect (n : Fin 512) (slot : BitVec 64)
  /-- VE_MOV (R214). The VE copies an entry. -/
  | veMov (n : Fin 512) (slot : BitVec 64)
  /-- VE_ACT (R152). The VE applies an activation table to an entry. -/
  | veAct (n : Fin 512) (slot : BitVec 64)
  /-- VE_RSUM (R150). The VE sums one entry to one value. -/
  | veRsum (n : Fin 512) (slot : BitVec 64)
  /-- VE_RMAX (R150). The VE reduces one entry to its maximum. -/
  | veRmax (n : Fin 512) (slot : BitVec 64)
  /-- VE_RMIN (R150). The VE reduces one entry to its minimum. -/
  | veRmin (n : Fin 512) (slot : BitVec 64)
  /-- VE_ARGMAX (R150). The VE returns the lowest lane holding the largest value. -/
  | veArgmax (n : Fin 512) (slot : BitVec 64)
  /-- VE_LSUM (R214). The VE sums entries lane-wise over the bundle's issues. -/
  | veLsum (n : Fin 512) (slot : BitVec 64)
  /-- VE_WIDEN (R131). The VE widens BF16, FP8 or MX elements to FP32. -/
  | veWiden (n : Fin 512) (slot : BitVec 64)
  /-- VE_NARROW (R134). The VE narrows FP32 to BF16 or FP8 under RND and OVF. -/
  | veNarrow (n : Fin 512) (slot : BitVec 64)
  /-- VE_PACK (R135). The VE packs FP32 values into two MX blocks with scales. -/
  | vePack (n : Fin 512) (slot : BitVec 64)
  /-- SPSTEP (R167). The SIU packs matched elements of S and H, deals the packs to the DPUs and merges partials. -/
  | spstep (n : Fin 512) (slot : BitVec 64)
  /-- PROBE (R175). The SIU looks up each key of list A in list B. -/
  | probe (n : Fin 512) (slot : BitVec 64)
  /-- JOIN (R176). The SIU merges two sorted key lists into records. -/
  | joinOp (n : Fin 512) (slot : BitVec 64)
  /-- MASK (R179). The SIU selects the N largest scores of each group into a bitmap. -/
  | maskOp (n : Fin 512) (slot : BitVec 64)
  /-- LDE_LINEAR (R216). The LDE loads a linear range of an operand into a queue. -/
  | ldeLinear (n : Fin 512) (slot : BitVec 64)
  /-- LDE_STRIDED (R216). The LDE loads strided rows into a queue. -/
  | ldeStrided (n : Fin 512) (slot : BitVec 64)
  /-- LDE_INDEXED (R217). The LDE gathers indexed rows into a queue, with zero rows for gated words. -/
  | ldeIndexed (n : Fin 512) (slot : BitVec 64)
  /-- LDE_RUNS (R217). The LDE gathers runs of rows and pads with zero rows to the count. -/
  | ldeRuns (n : Fin 512) (slot : BitVec 64)
  /-- STE_LINEAR (R216). The STE stores a linear range from a queue. -/
  | steLinear (n : Fin 512) (slot : BitVec 64)
  /-- STE_STRIDED (R216). The STE stores strided rows from a queue. -/
  | steStrided (n : Fin 512) (slot : BitVec 64)
  /-- STE_INDEXED (R217). The STE scatters rows to indexed positions, skipping gated words. -/
  | steIndexed (n : Fin 512) (slot : BitVec 64)
  /-- PORT_TRANSFER (R218). An LDE or STE transfer takes its port cycles on the slice when the port is free. -/
  | portTransfer (n : Fin 512)
  /-- SCU_NOP (R210). The SCU does nothing. -/
  | scuNop (n : Fin 512) (slot : BitVec 64)
  /-- SCU_SET (R210). The SCU sets a counter to IMM. -/
  | scuSet (n : Fin 512) (slot : BitVec 64)
  /-- SCU_ADD (R210). The SCU adds to a counter modulo 2^32. -/
  | scuAdd (n : Fin 512) (slot : BitVec 64)
  /-- SCU_SUB (R210). The SCU subtracts from a counter modulo 2^32. -/
  | scuSub (n : Fin 512) (slot : BitVec 64)
  /-- LDP (R210). The SCU loads half of a kernel parameter into a counter. -/
  | ldp (n : Fin 512) (slot : BitVec 64)
  /-- ARM (R210). The SCU arms a comparator to re-evaluate a comparison every cycle. -/
  | arm (n : Fin 512) (slot : BitVec 64)
  /-- SETK (R210). The SCU sets a comparator to a constant. -/
  | setk (n : Fin 512) (slot : BitVec 64)
  /-- DBG_RESUME (R228). CORE_DBG_CMD RESUME unfreezes a stopped core, reporting a held fault. -/
  | dbgResume (n : Fin 512)
  /-- DBG_STEP (R229). CORE_DBG_CMD STEP runs a frozen core through its next issue interval. -/
  | dbgStep (n : Fin 512)
  /-- DBG_HALT (R227). CORE_DBG_CMD HALT stops the core at the next cycle boundary. -/
  | dbgHalt (n : Fin 512)
  /-- VIT_MARK (R238). A write of VIT_MARK writes a MARK record to the Vitrine buffer. -/
  | vitMark (c : Fin 64) (v : BitVec 32)
  /-- VIT_CLEAR (R238). VIT_CTRL CLEAR empties the Vitrine buffer and sets VIT_WPTR to 0. -/
  | vitClear (c : Fin 64)
  /-- VIT_RD_IDX (R234). A write of VIT_RD_IDX copies one whole record into VIT_RD_DATA. -/
  | vitRdIdx (c : Fin 64) (i : Fin 16384)
  /-- ROUTE (R42). A ROUTE command checks its domain and clusters, takes list buffers and starts its RTEs. -/
  | route (q : Fin 264) (i : BitVec 32)
  /-- DOMAIN_LOAD (R37). A DOMAIN_LOAD checks a domain descriptor, computes its destination order and loads a slot. -/
  | domainLoad (q : Fin 264) (i : BitVec 32)
  /-- ROUTE_BIAS (R39). A ROUTE_BIAS replaces the bias values of a loaded domain after checks. -/
  | routeBias (q : Fin 264) (i : BitVec 32)
  /-- LANE_DRAIN (R46). An RTE pops a lane entry or reads logits and scores a completed token row. -/
  | laneDrain (c : Fin 64)
  /-- LQ_TIMEOUT (R48). No lane entry arrives within LOGIT_TIMEOUT and the ROUTE fails with WAIT_EXPIRED. -/
  | lqTimeout (c : Fin 64)
  /-- CHARGE_GRANT (R56). An RTE receives its slot's charge grant, charges its share in token order, passes the grant and runs its sort tail. -/
  | chargeGrant (c : Fin 64)
  /-- DISPATCH (R88). A DISPATCH checks its lists, arms its return window and starts its Drovers. -/
  | dispatch (q : Fin 264) (i : BitVec 32)
  /-- RETURN (R103). A RETURN checks pen headers and returns result rows and arrival records to sources. -/
  | retrn (q : Fin 264) (i : BitVec 32)
  /-- CANCEL (R109). A CANCEL advances a window's epoch, aborts its commands, makes it IDLE and releases its buffers. -/
  | cancel (q : Fin 264) (i : BitVec 32)
  /-- COMBINE (R112). A COMBINE checks its window and starts combining in ORDERED or ARRIVAL mode. -/
  | combine (q : Fin 264) (i : BitVec 32)
  /-- DROVER_ISSUE (R92). A Drover issues a packet of a block once its rows are known and a tag is free. -/
  | droverIssue (c : Fin 64)
  /-- COMBINE_TOKEN (R113). A Drover combines a ready token over its ranks in fixed rank order. -/
  | combineToken (w : Fin 64)
  /-- ARRIVAL_APPLY (R115). In ARRIVAL mode a Drover adds an accepted arrival's rows into the output rows. -/
  | arrivalApply (w : Fin 64)
  /-- RET_TIMEOUT (R116). No arrival record is accepted within RET_TIMEOUT and the COMBINE fails with WAIT_EXPIRED. -/
  | retTimeout (w : Fin 64)
  /-- COPY (R257). A COPY moves bytes over the NoC or as fabric packets. -/
  | copy (q : Fin 264) (i : BitVec 32)
  /-- COUNTER_NOP (R258). A COUNTER NOP honours its waits and performs its signals only. -/
  | counterNop (q : Fin 264) (i : BitVec 32)
  /-- SET_RANGE (R258). A COUNTER SET_RANGE sets a range of counters to VALUE. -/
  | setRange (q : Fin 264) (i : BitVec 32)
  /-- READ_RANGE (R258). A COUNTER READ_RANGE writes a range of counter values to memory. -/
  | readRange (q : Fin 264) (i : BitVec 32)
  /-- CNT_SET (R260). A write of CNT_VALUE sets a sync counter. -/
  | cntSet (k : Fin 65536) (v : BitVec 32)
  /-- CNT_ADD (R261). A write of CNT_ADD adds to a sync counter modulo 2^32, recording wraps. -/
  | cntAdd (k : Fin 65536) (v : BitVec 32)
  /-- CMDQ_ENABLE (R282). CMDQ_CTRL ENABLE checks rings and admission and enables the queue. -/
  | cmdqEnable (q : Fin 264)
  /-- CMDQ_DISABLE (R282). CMDQ_CTRL DISABLE stops issue from the queue. -/
  | cmdqDisable (q : Fin 264)
  /-- CMDQ_RESUME (R282). CMDQ_CTRL RESUME takes the queue out of FAILED. -/
  | cmdqResume (q : Fin 264)
  /-- ABORT_HEAD (R266). CMDQ_CTRL ABORT_HEAD completes the head command with WAIT_EXPIRED or ABORTED. -/
  | abortHead (q : Fin 264)
  /-- ABORT_ALL (R266). CMDQ_CTRL ABORT_ALL aborts every posted and in-flight command and fails the queue. -/
  | abortAll (q : Fin 264)
  /-- CMDQ_CFG (R276). A write of CMDQ_CFG is checked for admission and for fields locked while enabled. -/
  | cmdqCfg (q : Fin 264) (v : BitVec 64)
  /-- FE_ADMIT (R276). A write of FE_ADMIT is refused if the admitted sum would exceed CAPACITY. -/
  | feAdmit (v : BitVec 32)
  /-- FE_SCHED (R276). A write of FE_SCHED is refused if the admitted sum would exceed CAPACITY. -/
  | feSched (v : BitVec 32)
  /-- SWAP_CHECK (R269). At a kernel boundary or a context becoming runnable, the CPX swaps a context in or out. -/
  | swapCheck
  /-- SWAP_DONE (R270). A context swap completes and its queues are bound. -/
  | swapDone
  /-- CTX_CREATE (R286). A CPX request creates a context and swaps it in if a slot is free. -/
  | ctxCreate (addr : BitVec 46)
  /-- CTX_DESTROY (R286). A CPX request removes a context and its keys. -/
  | ctxDestroy (addr : BitVec 46)
  /-- CTX_SWAP_OUT (R286). A CPX request swaps a blocked context out. -/
  | ctxSwapOut (addr : BitVec 46)
  /-- CTX_SWAP_IN (R286). A CPX request swaps a context into a free slot. -/
  | ctxSwapIn (addr : BitVec 46)
  /-- CTX_QUERY (R586). A CPX request writes a context's state into the request block. -/
  | ctxQuery (addr : BitVec 46)
  /-- TILE_PIN (R286). A CPX request makes a range of tiles PINNED where they are. -/
  | tilePin (addr : BitVec 46)
  /-- TILE_UNPIN (R286). A CPX request makes a range of PINNED tiles RESIDENT. -/
  | tileUnpin (addr : BitVec 46)
  /-- MOVE_IN (R308). A TILE_MOVE MOVE_IN moves tiles to their slots. -/
  | moveIn (q : Fin 264) (i : BitVec 32)
  /-- MOVE_OUT (R308). A TILE_MOVE MOVE_OUT moves tiles home to LPDDR5X. -/
  | moveOut (q : Fin 264) (i : BitVec 32)
  /-- PIN (R308). A TILE_MOVE PIN makes tiles PINNED where they are. -/
  | pin (q : Fin 264) (i : BitVec 32)
  /-- UNPIN (R308). A TILE_MOVE UNPIN makes PINNED tiles RESIDENT. -/
  | unpin (q : Fin 264) (i : BitVec 32)
  /-- CLEAR_POISON (R308). A TILE_MOVE CLEAR_POISON zeroes POISONED tiles and makes them RESIDENT. -/
  | clearPoison (q : Fin 264) (i : BitVec 32)
  /-- SET_ENC (R308). A TILE_MOVE SET_ENC sets ENC and KGEN of tiles homed in LPDDR5X. -/
  | setEnc (q : Fin 264) (i : BitVec 32)
  /-- TT_BIND (R311). A TILE_MOVE TT_BIND checks and binds the context's Timetable. -/
  | ttBind (q : Fin 264) (i : BitVec 32)
  /-- TT_UNBIND (R308). A TILE_MOVE TT_UNBIND stops every Shunter's Timetable walk. -/
  | ttUnbind (q : Fin 264) (i : BitVec 32)
  /-- DEMAND_BIND (R314). A TILE_MOVE DEMAND_BIND checks and binds a demand map to a domain. -/
  | demandBind (q : Fin 264) (i : BitVec 32)
  /-- DEMAND_UNBIND (R308). A TILE_MOVE DEMAND_UNBIND removes a demand map binding. -/
  | demandUnbind (q : Fin 264) (i : BitVec 32)
  /-- TT_ENTRY (R312). A Timetable entry becomes eligible against STEP_CTR and its TIMETABLE moves are requested. -/
  | ttEntry (s : Fin 16) (x : BitVec 8)
  /-- NOTICE_WRITE (R315). The home unit parses a demand notice write and latches and requests DEMAND moves. -/
  | noticeWrite (job : BitVec 16) (node : BitVec 18) (addr : BitVec 46) (data : List (BitVec 8))
  /-- MOVE_CLAIM (R304). A Shunter claims the next waiting move by class when it can run to its end. -/
  | moveClaim (s : Fin 16)
  /-- MOVE_COMPLETE (R302). A tile move completes, updating its entry and slot and releasing held accesses. -/
  | moveComplete (s : Fin 16) (tile : Fin 25165824)
  /-- SCRUB (R319). The patrol scrub reads the next ECC group and writes back corrected words. -/
  | scrub (s : Fin 16)
  /-- LP_REFRESH (R320). A controller performs per-bank refresh at the MR4-derived rate. -/
  | lpRefresh (s : Fin 16)
  /-- LP_RETRAIN (R320). Every 4 ms the controller re-trains WCK2DQ oscillator timing. -/
  | lpRetrain (s : Fin 16)
  /-- LP_POWER_DOWN (R320). Channel p, idle for 256 FCLK cycles, enters power-down. -/
  | lpPowerDown (p : LpCh)
  /-- LP_DEEP_SLEEP (R511). After 1 s of self-refresh in STANDBY the packages enter deep sleep. -/
  | lpDeepSleep (s : Fin 16)
  /-- BPM_CTRL (R329). A write of BPM_CTRL.ENABLE checks the cell table tiles or refuses a disable. -/
  | bpmCtrl (c : Fin 64) (v : BitVec 32)
  /-- BPM_POOL_CFG (R330). A write of BPM_POOLp_CFG enabling a pool checks it and starts building its free list. -/
  | bpmPoolCfg (c : Fin 64) (p : Fin 32) (v : BitVec 64)
  /-- POOL_BUILD_DONE (R330). A pool's free list is complete and allocations from it proceed. -/
  | poolBuildDone (c : Fin 64) (p : Fin 32)
  /-- BUF_RETAIN (R334). A write of a handle to BUF_RETAIN retains the buffer. -/
  | bufRetain (who : Poster) (h : BitVec 32)
  /-- BUF_RELEASE (R334). A write of a handle to BUF_RELEASE releases the buffer, freeing it at zero. -/
  | bufRelease (who : Poster) (h : BitVec 32)
  /-- POST (R350). A MAILBOX POST posts a pointer and tag locally or as an ordered fabric post. -/
  | post (q : Fin 264) (i : BitVec 32)
  /-- TAKE (R350). A MAILBOX TAKE takes a local mailbox as lock holder 6 and writes its words to memory. -/
  | take (q : Fin 264) (i : BitVec 32)
  /-- ALLOC (R350). A MAILBOX ALLOC allocates a buffer and writes its handle. -/
  | alloc (q : Fin 264) (i : BitVec 32)
  /-- RETAIN (R350). A MAILBOX RETAIN retains a handle locally or on a remote node. -/
  | retain (q : Fin 264) (i : BitVec 32)
  /-- RELEASE (R350). A MAILBOX RELEASE releases a handle locally or on a remote node. -/
  | release (q : Fin 264) (i : BitVec 32)
  /-- MBX_POST (R344). A 16-B post write to a core or cluster mailbox stores, overwrites or is refused, and notifies under MBX_CFG. -/
  | mbxPost (who : Poster) (b : Fin 3072) (post : BitVec 128)
  /-- MBX_LOCK (R344). A read of MBX_LOCK returns OWNER and makes the reader owner when it was 0. -/
  | mbxLock (who : Poster) (b : Fin 3072)
  /-- MBX_TAKE (R345). MBX_CTRL TAKE empties a mailbox for its owner or on a matching SEQ. -/
  | mbxTake (who : Poster) (b : Fin 3072) (seq : BitVec 16)
  /-- MBX_RELEASE (R344). MBX_CTRL RELEASE clears the lock of a core mailbox for its owner. -/
  | mbxRelease (who : Poster) (b : Fin 3072)
  /-- MBX_BREAK (R344). MBX_CTRL BREAK clears the lock of a core mailbox. -/
  | mbxBreak (who : Poster) (b : Fin 3072)
  /-- MBX_CFG (R352). A write of MBX_CFGi is refused when CTR_EN names a counter outside its context's range. -/
  | mbxCfg (c : Fin 64) (i : Fin 48) (v : BitVec 32)
  /-- CAIND_WRITE (R370). A WRITE packet is checked, admitted, decrypted, written at its home, counted and acknowledged. -/
  | caindWrite (p : Fin 16) (pkt : Pkt)
  /-- CAIND_RETURN (R108). A RETURN packet is accepted against an armed window's epoch or dropped, and an arrival record lowers pending counts. -/
  | caindReturn (p : Fin 16) (pkt : Pkt)
  /-- CAIND_POST (R343). A POST packet is checked for its sender and posted to a mailbox. -/
  | caindPost (p : Fin 16) (pkt : Pkt)
  /-- CAIND_READ (R373). A READ packet is served with READ_DATA or refused by an ACK entry. -/
  | caindRead (p : Fin 16) (pkt : Pkt)
  /-- CAIND_READ_DATA (R373). A READ_DATA packet is written at the tag's recorded address and frees the tag. -/
  | caindReadData (p : Fin 16) (pkt : Pkt)
  /-- CAIND_ACK (R377). An ACK packet's entries complete transactions with their status and free their tags. -/
  | caindAck (p : Fin 16) (pkt : Pkt)
  /-- CAIND_COLL (R414). A COLL packet lands data or a control entry of a collective and advances its reductions and chunks. -/
  | caindColl (p : Fin 16) (pkt : Pkt)
  /-- CAIND_NOTICE (R389). A path NOTICE marks or clears reachability and ends transactions on lost planes. -/
  | caindNotice (p : Fin 16) (pkt : Pkt)
  /-- FORWARD (R384). A packet on VC2 is forwarded between the bypass and switch ports under the turn rules. -/
  | forward (p : Fin 16) (pkt : Pkt)
  /-- ACK_FLUSH (R372). A pair's acknowledgement entries are sent as an ACK at 64 entries or 32 FCLK cycles. -/
  | ackFlush (node : BitVec 18)
  /-- TXN_TIMEOUT (R378). An outstanding tag exceeds the transaction timeout and completes with PATH_LOST. -/
  | txnTimeout (t : Fin 16384)
  /-- FRAME (R363). A link frame is received, checked and link-acknowledged, or discarded with a replay request. -/
  | frame (l : Link) (f : FrameIn)
  /-- REPLAY (R363). A sender resends unacknowledged frames from the requested frame, taking the port DOWN after 8 failures. -/
  | replay (l : Link) (ack : BitVec 16)
  /-- CPT_ENABLE (R364). A write of CPT_CTRL.ENABLE starts port training or disables the port. -/
  | cptEnable (p : Fin 16) (v : BitVec 32)
  /-- CPT_RETRAIN (R396). CPT_CTRL RETRAIN makes a port leave FAILED or UP and train again. -/
  | cptRetrain (p : Fin 16)
  /-- PORT_TRAINED (R364). A port's training attempt ends, entering UP or going DOWN or FAILED. -/
  | portTrained (p : Fin 16) (peer : PortPeer)
  /-- PORT_DOWN (R388). A port leaves UP; queued packets are resprayed and unacknowledged ones complete PATH_LOST. -/
  | portDown (p : Fin 16) (lanes : BitVec 8)
  /-- ADMIT (R386). CFB_ADM_CMD ADMIT admits a job generation. -/
  | admitJob (job : BitVec 12) (gen : BitVec 4)
  /-- DRAIN (R386). CFB_ADM_CMD DRAIN moves an admitted job to DRAINING. -/
  | drain (job : BitVec 12)
  /-- REMOVE (R386). CFB_ADM_CMD REMOVE frees a draining job and aborts its tags. -/
  | remove (job : BitVec 12)
  /-- ALL_REDUCE (R409). A collective reduces every member's source into every member's destination. -/
  | allReduce (q : Fin 264) (i : BitVec 32)
  /-- REDUCE_SCATTER (R409). A collective reduces and gives each member its block. -/
  | reduceScatter (q : Fin 264) (i : BitVec 32)
  /-- ALL_GATHER (R411). A collective gathers every member's source into every destination. -/
  | allGather (q : Fin 264) (i : BitVec 32)
  /-- ALL_TO_ALL (R411). A collective exchanges slots between every pair of members. -/
  | allToAll (q : Fin 264) (i : BitVec 32)
  /-- BROADCAST (R411). A collective copies ROOT's source to every member through relays. -/
  | broadcast (q : Fin 264) (i : BitVec 32)
  /-- MLOAD (R405). A collective MLOAD checks and binds a membership table to a slot. -/
  | mload (q : Fin 264) (i : BitVec 32)
  /-- COLL_SEND (R415). A collective engine sends a data packet of a chunk once its grant covers it. -/
  | collSend (s : Fin 64)
  /-- COLL_TIMEOUT (R430). A collective accepts nothing for its TIMEOUT and fails with WAIT_EXPIRED. -/
  | collTimeout (s : Fin 64)
  /-- HALTER_WRITE (R440). A host WRITE packet is performed at its home in arrival order. -/
  | halterWrite (pkt : HostPkt)
  /-- HALTER_READ (R441). A host READ packet is served with READ_DATA. -/
  | halterRead (pkt : HostPkt)
  /-- HALTER_MALFORMED (R441). A host packet with a reserved TYPE, bad length or address, or a host READ_DATA or IRQ is dropped. -/
  | halterMalformed (pkt : HostPkt)
  /-- HLT_ENABLE (R460). A write of HLT_CTRL.ENABLE enables or disables the Halter link. -/
  | hltEnable (on : Bool)
  /-- HLT_RETRAIN (R460). HLT_CTRL RETRAIN makes the Halter link train again. -/
  | hltRetrain
  /-- HALTER_TRAINED (R438). A Halter training attempt ends, entering UP and sending held interrupts, or failing. -/
  | halterTrained (fail : BitVec 2) (ha8 : Bool) (version : BitVec 16) (htags : BitVec 11) (lanes : BitVec 8)
  /-- HALTER_DOWN (R438). The Halter link loses a lane or fails replays and goes DOWN. -/
  | halterDown (lanes : BitVec 8)
  /-- IRQ_PEND_CLEAR (R556). A w1c write of IRQ_PENDj clears pending vectors and IRQ_BLKSRC. -/
  | irqPendClear (j : Fin 8) (v : BitVec 64)
  /-- IRQ_HOST (R556). A write of IRQ_HOSTj enabling a pending vector delivers it to the host. -/
  | irqHost (j : Fin 8) (v : BitVec 64)
  /-- IRQ_CPX (R556). A write of IRQ_CPXj enabling a pending vector delivers it to the CPX. -/
  | irqCpx (j : Fin 8) (v : BitVec 64)
  /-- RESET_L (R443). RESET_L held low for 1 µs requests a MODULE reset. -/
  | resetL
  /-- TBP_IN (R445). A rising edge of TBP_IN captures the timebase and corrects its rate or is ignored as spurious. -/
  | tbpIn
  /-- TBP_OUT (R445). The timebase reaches a multiple of TBS_PERIOD and TBP_OUT pulses. -/
  | tbpOut
  /-- HOLDOVER (R445). Two periods pass without an accepted pulse and the timebase enters holdover. -/
  | holdover
  /-- TBS_SET (R444). A write of TBS_SET loads the timebase when allowed and cancels an armed snapshot. -/
  | tbsSet (v : BitVec 64)
  /-- INV_ARM (R454). INV_CTRL ARM arms an Inventory snapshot at INV_AT. -/
  | invArm
  /-- INV_CANCEL (R454). INV_CTRL CANCEL cancels an armed snapshot unless within 2 µs. -/
  | invCancel
  /-- INVENTORY_SNAPSHOT (R455). At tick T every block copies its counters into its shadows and INV_DONE is raised. -/
  | inventorySnapshot
  /-- SENSOR_SAMPLE (R446). The Curator samples a sensor and changes its status at a threshold crossing. -/
  | sensorSample (i : Fin 334) (v : Option (BitVec 32))
  /-- LEDGER_WRITE (R449). The Curator writes a buffered record to the Ledger, erasing a sector when needed. -/
  | ledgerWrite
  /-- I3C_READ (R450). An I3C read transfer returns the response frame or BUSY. -/
  | i3cRead
  /-- ENTDAA (R451). The I3C target takes a dynamic address by ENTDAA. -/
  | entdaa (a : BitVec 7)
  /-- SETDASA (R451). The I3C target takes a dynamic address from its static address. -/
  | setdasa (a : BitVec 7)
  /-- RSTDAA (R451). The I3C target resets its dynamic address. -/
  | rstdaa
  /-- ENEC (R451). The I3C target enables in-band interrupts. -/
  | enec (events : BitVec 8)
  /-- DISEC (R451). The I3C target disables in-band interrupts. -/
  | disec (events : BitVec 8)
  /-- GETPID (R451). The I3C target returns its provisioned ID. -/
  | getpid
  /-- GETBCR (R451). The I3C target returns its bus characteristics register. -/
  | getbcr
  /-- GETDCR (R451). The I3C target returns its device characteristics register. -/
  | getdcr
  /-- GETSTATUS (R451). The I3C target returns its status. -/
  | getstatus
  /-- GETMWL (R451). The I3C target returns its maximum write length. -/
  | getmwl
  /-- GETMRL (R451). The I3C target returns its maximum read length. -/
  | getmrl
  /-- IBI (R451). The I3C target raises an in-band interrupt when ATTN_L falls. -/
  | ibi
  /-- IDENTIFY (R452). Frame IDENTIFY returns the order number, stepping, serial, node and versions. -/
  | identify (path : FramePath) (args : List (BitVec 8)) (crc : BitVec 32)
  /-- HEALTH (R453). Frame HEALTH returns the health record. -/
  | health (path : FramePath) (args : List (BitVec 8)) (crc : BitVec 32)
  /-- SENSOR (R452). Frame SENSOR returns sensor values and statuses. -/
  | sensor (path : FramePath) (args : List (BitVec 8)) (crc : BitVec 32)
  /-- LEDGER (R452). Frame LEDGER returns Ledger records from a SEQ. -/
  | ledger (path : FramePath) (args : List (BitVec 8)) (crc : BitVec 32)
  /-- REG_READ (R452). Frame REG_READ reads a register-page address. -/
  | regRead (path : FramePath) (args : List (BitVec 8)) (crc : BitVec 32)
  /-- REG_WRITE (R452). Frame REG_WRITE writes a register-page address. -/
  | regWrite (path : FramePath) (args : List (BitVec 8)) (crc : BitVec 32)
  /-- SNAPSHOT (R454). Frame SNAPSHOT arms an Inventory snapshot. -/
  | snapshot (path : FramePath) (args : List (BitVec 8)) (crc : BitVec 32)
  /-- TIME (R452). Frame TIME returns the timebase and optionally writes TBS_SET. -/
  | time (path : FramePath) (args : List (BitVec 8)) (crc : BitVec 32)
  /-- FW_STAGE (R458). Frame FW_STAGE writes image data at the staging address or recovery buffer. -/
  | fwStage (path : FramePath) (args : List (BitVec 8)) (crc : BitVec 32)
  /-- FW_START (R458). Frame FW_START verifies, erases, programs and checks a firmware component, or a recovery piece. -/
  | fwStart (path : FramePath) (args : List (BitVec 8)) (crc : BitVec 32)
  /-- FW_STATUS (R452). Frame FW_STATUS returns the update state and progress. -/
  | fwStatus (path : FramePath) (args : List (BitVec 8)) (crc : BitVec 32)
  /-- RESET (R452). Frame RESET requests a MODULE or DIE_WARM reset with its key. -/
  | resetFrame (path : FramePath) (args : List (BitVec 8)) (crc : BitVec 32)
  /-- ATTEST (R475). A security request makes an ML-KEM key pair and writes a signed Provenance report. -/
  | attest (addr : BitVec 46)
  /-- PUBKEY (R473). A security request writes the identity and firmware public keys. -/
  | pubkey (addr : BitVec 46)
  /-- KEY_INSTALL (R477). A security request decapsulates and installs an envelope's key. -/
  | keyInstall (addr : BitVec 46)
  /-- SET_CURRENT (R483). A security request makes a key generation current. -/
  | setCurrent (addr : BitVec 46)
  /-- RETIRE (R484). A security request erases a key generation not in use. -/
  | retire (addr : BitVec 46)
  /-- REKEY (R485). A security request re-encrypts or marks ENC tiles under the current generation. -/
  | rekey (addr : BitVec 46)
  /-- ERASE (R473). A security request erases every key of a context. -/
  | erase (addr : BitVec 46)
  /-- AUX12_ON (R494). AUX12 is applied from OFF and the part takes a COLD reset. -/
  | aux12On
  /-- AUX12_LOSS (R497). AUX12 falls below 10.0 V and the part turns OFF. -/
  | aux12Loss
  /-- MAIN_UV (R496). MAIN48 stays below 38 V for 5 µs and the main rails shut down. -/
  | mainUv
  /-- AUTO_RESTART (R496). MAIN48 stays in range 100 ms after a loss and the part boots from the MODULE entry. -/
  | autoRestart
  /-- DROOP (R500). VCORE falls 25 mV below setpoint and ACLK halves for 512 ns. -/
  | droop (ns : BitVec 32)
  /-- PHASE_ADD (R498). A rise in VCORE current adds phase groups within 1 µs. -/
  | phaseAdd
  /-- PHASE_SHED (R498). Current stays below the lower count's threshold for 100 µs and a phase group is shed. -/
  | phaseShed
  /-- DVFS_STEP (R502). Every 25 µs the power controller chooses and steps toward a target operating point. -/
  | dvfsStep
  /-- THERM_STEP (R505). Each millisecond THERM_CAP moves one point under WARN sites. -/
  | thermStep
  /-- THERMAL_TRIP (R506). A site reaches 108 °C and the main rails turn off. -/
  | thermalTrip (site : Fin 64)
  /-- GATE (R508). A cluster whose request bit is set and that is idle is gated. -/
  | gate (c : Fin 64)
  /-- WAKE (R509). A gated cluster's wake starts, LC-level first, at most 8 per µs. -/
  | wake (c : Fin 64)
  /-- WAKE_READY (R509). A woken cluster becomes ready 2 µs after its wake starts. -/
  | wakeReady (c : Fin 64)
  /-- ACLK_IDLE (R510). All clusters gated for 100 µs with AUTO_IDLE stop the ACLK PLLs. -/
  | aclkIdle
  /-- ACTIVE (R512). PWR_STATE_REQ ACTIVE leaves STANDBY or boots from AUX. -/
  | active
  /-- STANDBY (R512). PWR_STATE_REQ STANDBY gates clusters and puts LPDDR5X into self-refresh. -/
  | standby
  /-- AUX (R512). PWR_STATE_REQ AUX shuts down the main rails. -/
  | aux
  /-- COLD_RESET (R514). PWR_RESET COLD clears all state and boots. -/
  | coldReset
  /-- MODULE_RESET (R514). A MODULE reset powers down the main rails and boots from the MODULE entry. -/
  | moduleReset
  /-- DIE_WARM_RESET (R515). A DIE_WARM reset resolves slots, clears die state and boots from the DIE_WARM entry. -/
  | dieWarmReset
  /-- CLUSTER_RESET (R516). PWR_RESET CLUSTER resets one cluster, aborting its work. -/
  | clusterReset (c : Fin 64)
  /-- CORE_RESET (R516). PWR_RESET CORE resets one core, aborting its kernel. -/
  | coreReset (n : Fin 512)
  /-- CORE_FENCE (R529). An uncorrectable core-level error fences the core and evacuates its slots. -/
  | coreFence (n : Fin 512) (page : BitVec 16) (b : Fin 16)
  /-- CLUSTER_FENCE (R532). An uncorrectable cluster-level error fences the cluster and its cores. -/
  | clusterFence (c : Fin 64) (page : BitVec 16) (b : Fin 16)
  /-- FENCE_CORE (R534). FLT_FENCE_REQ CORE fences a core by software request. -/
  | fenceCore (n : Fin 512)
  /-- FENCE_CLUSTER (R534). FLT_FENCE_REQ CLUSTER fences a cluster by software request. -/
  | fenceCluster (c : Fin 64)
  /-- FENCE_FUSE (R533). A fence fuse is blown and read back within 2 ms of a fence. -/
  | fenceFuse (cl : Bool) (u : Fin 512) (okA okB : Bool)
  /-- DIE_ERROR (R536). A die-level error stops issue, sets FAULT and starts the hold before DIE_WARM. -/
  | dieError (page : BitVec 16) (b : Fin 16)
  /-- DIE_HOLD_EXPIRY (R536). The FLT_DIE hold ends and a DIE_WARM reset with cause DIE_ERROR begins. -/
  | dieHoldExpiry
  /-- FLT_WDT_KICK (R537). A CPX control core kicks its watchdog. -/
  | fltWdtKick (k : Fin 4)
  /-- WDT (R537). A watched control core misses its period and a die-level error follows. -/
  | wdt (k : Fin 4)
  /-- ERR_INJ (R539). A write of ERR_INJ arms a fault to be placed in the next word written to its target. -/
  | errInj (page : BitVec 16) (v : BitVec 32)
  /-- REGISTER_WRITE (R12). A write to a register with no behaviour of its own stores its fields under their access codes. -/
  | registerWrite (who : Poster) (page : BitVec 16) (off : Fin 4096) (wide : Bool) (v : BitVec 64)
  /-- CPX_REQUEST_DONE (R286). A CPX request's Time ends, its RESULT and DONE are written and CPX_FW_STAT.BUSY clears. -/
  | cpxRequestDone
  /-- SEC_REQUEST_DONE (R473). A security-block request finishes its Time, writes RESULT and DONE and clears SEC_STAT.BUSY. -/
  | secRequestDone
  /-- FW_UPDATE_DONE (R458). A firmware update's erase, programming and read-back end, and FW_STATUS becomes done or failed with CUR_ATTN.FW set. -/
  | fwUpdateDone
  /-- BOOT_COMPLETE (R518). Boot step 10 ends, the CPX firmware starts, FE_CTRL.ENABLE is set and READY rises. -/
  | bootComplete
  /-- RESET_L_RELEASE (R443). RESET_L rises and the MODULE reset held since its low is released. -/
  | resetLRelease
  /-- TAP_INSTRUCTION (R570). An IEEE 1149.1 instruction is loaded at the test header, EXTEST, CLAMP or HIGHZ marking the boot not completed and stopping issue. -/
  | tapInstruction (t : TapInstr)
  /-- MAIN48_APPLIED (R494). MAIN48 comes into range while AUX12 is present, without a preceding main-rail loss. -/
  | main48Applied
  /-- CMDQ_BASE (R281). A write of CMDQ_BASE or CMDQ_CPL_BASE is stored, or left unchanged with FE_ERR_STAT.BAD_WRITE while the queue is enabled. -/
  | cmdqBase (q : Fin 264) (cpl : Bool) (v : BitVec 64)
  /-- CFB_NODE (R359). A write of CFB_CTRL, CFB_NODE or CFB_PEER is refused field by field while any port is not DISABLED. -/
  | cfbNode (v : BitVec 32)
  /-- BPM_TABLE (R354). A write of BPM_TABLE that would change a field while the BPM is enabled is refused with BAD_WRITE. -/
  | bpmTable (c : Fin 64) (v : BitVec 64)
  /-- RESET_DONE (R516). A CLUSTER or CORE reset ends after 1 µs or 4 µs, and the commands held for its target proceed. -/
  | resetDone (cl : Bool) (u : Fin 512)
  deriving DecidableEq, Repr

end Sys2Proof
end

