-- ==== Sys2Proof/Decode.lean ====
section
/-!
DEFINITION. The words of the commands: spec/opcode_table.json gives none of its rows a bit, since the block takes commands and
fetches no instruction, so no word spells a command.
-/

namespace Sys2Proof

/-- The command that a word of the opcode table spells: none of the table's rows has an encoding. -/
def decodeTableWord (nbits w : Nat) : Option Instr :=
  match nbits, w with
  | _, _ => none

end Sys2Proof
end

