-- ==== Sys2Proof/Config.lean ====
section
/-!
DEFINITION. What a module of the part fixes for itself, and the free values: constants without a body, of which nothing can
be proved. Each is named in the assumption log.
-/

namespace Sys2Proof

/-- A free value of the spec (log 3), read at the place in the run that the state's plain counter gives. -/
opaque Config.free : Nat → BitVec 64

/-- DIE_SERIAL.SERIAL, from FACTORY (R553). -/
opaque Config.dieSerial : BitVec 64

/-- DIE_ROM.VERSION, fixed by the design (R553). -/
opaque Config.romVersion : BitVec 32

/-- A byte of the flash as manufacture left it (R456). -/
opaque Config.flash0 : Nat → BitVec 8

/-- SEVERITY of a Ledger record by its kind and code, below 4 (R448 gives the codes and no rule for them). -/
opaque Config.severity : Nat → Nat → Nat

/-- WARN threshold of a sensor, from the CONFIG image (R446). -/
opaque Config.sensorWarn : Nat → Int

/-- CRIT threshold of a sensor, from the CONFIG image (R446). -/
opaque Config.sensorCrit : Nat → Int

/-- Provisioned ID, BCR and DCR of the I3C target (R451; MIPI I3C Basic fixes only their form). -/
opaque Config.i3cPid : List (BitVec 8)
/-- BCR (R451). -/
opaque Config.i3cBcr : BitVec 8
/-- DCR (R451). -/
opaque Config.i3cDcr : BitVec 8

/-- AES-256-XTS of IEEE 1619 over one 32 KiB data unit: key, tweak, plaintext (R317, R479). -/
opaque Config.xtsEnc : BitVec 512 → Nat → List (BitVec 8) → List (BitVec 8)
/-- Its inverse (R317, R479). -/
opaque Config.xtsDec : BitVec 512 → Nat → List (BitVec 8) → List (BitVec 8)
/-- AES-256-CTR: 32-byte key, 128-bit initial counter block, data (R477, R481). -/
opaque Config.aesCtr : List (BitVec 8) → BitVec 128 → List (BitVec 8) → List (BitVec 8)
/-- KMAC256 of NIST SP 800-185: key, data, output bytes, customisation string as ASCII codes (R477, R481). -/
opaque Config.kmac : List (BitVec 8) → List (BitVec 8) → Nat → List (BitVec 8) → List (BitVec 8)
/-- SHAKE256 to 64 bytes (R457, R463). -/
opaque Config.shake512 : List (BitVec 8) → List (BitVec 8)
/-- The seven SEC-DED (39,32) check bits of a data word (R318, R523). -/
opaque Config.secded : BitVec 32 → BitVec 7
/-- Channel, modulo 8, of a package that an ECC group lies on (R318, R320). -/
opaque Config.lpChannel : Nat → Nat
/-- XMSS-SHAKE256_20_256 verification under the firmware public key: message, signature (R457, R465). -/
opaque Config.xmssVerify : List (BitVec 8) → List (BitVec 8) → Bool
/-- XMSS signature of the identity key at an index, 2,820 bytes (R468, R475). -/
opaque Config.xmssSign : Nat → List (BitVec 8) → List (BitVec 8)
/-- The n-th ML-KEM-1024 encapsulation key drawn, 1,568 bytes (R473, R474). -/
opaque Config.kemKey : Nat → List (BitVec 8)
/-- ML-KEM-1024 decapsulation under the n-th key pair, 32 bytes (R477). -/
opaque Config.kemDecaps : Nat → List (BitVec 8) → List (BitVec 8)
/-- The identity public key and the firmware public key of FACTORY, 68 bytes each (R464, R473). -/
opaque Config.identityKey : List (BitVec 8)
/-- Firmware public key (R464). -/
opaque Config.firmwareKey : List (BitVec 8)
/-- Whether FACTORY passes its CRC at the n-th boot (R464). -/
opaque Config.factoryCrc : Nat → Bool
/-- SHAKE256 to 32 bytes, 256 bits (R463). -/
opaque Config.shake256 : List (BitVec 8) → List (BitVec 8)
/-- The root hash that the ROM holds: 32 bytes, a constant of the ROM mask (R463). -/
opaque Config.rootHash : List (BitVec 8)
/-- Group score that arithmetic on NaN gives: of the two bias-added scores it sums (R28, R53; log 108). -/
opaque Config.nanGroup : BitVec 32 → BitVec 32 → BitVec 32
/-- Weight that arithmetic on NaN gives: of the score or quotient and ROUTE_SCALE (R28, R59; log 108). -/
opaque Config.nanWeight : BitVec 32 → BitVec 32 → BitVec 32
/-- MGMT packets beyond one that the management store holds (R383). -/
opaque Config.mgmtStore : Nat
/-- Whether the entropy source passes its health test at the n-th draw (R474). -/
opaque Config.entropyOk : Nat → Bool

end Sys2Proof
end

