-- ==== Sys2Proof/Machine/Bits.lean ====
section
/-!
DEFINITION. Plain helpers: bit fields, little-endian bytes (R4, R5), CRC-32 (R580, R581), sparse tables and memories.
-/

namespace Sys2Proof.Machine

/-- Bits hi:lo of a value (R4). -/
def bits (v hi lo : Nat) : Nat := (v >>> lo) % 2 ^ (hi + 1 - lo)

/-- Bit i of a value as a truth value. -/
def bit (v i : Nat) : Bool := v.testBit i

/-- Bits hi:lo of a value replaced by x. -/
def setBits (v hi lo x : Nat) : Nat :=
  let w := hi + 1 - lo
  (v - (bits v hi lo) <<< lo) + (x % 2 ^ w) <<< lo

/-- 0 or 1. -/
def b2n (b : Bool) : Nat := if b then 1 else 0

/-- A number as a signed value of the given width (two's complement). -/
def toSigned (w v : Nat) : Int := if v % 2 ^ w < 2 ^ (w - 1) then (v % 2 ^ w : Nat) else (v % 2 ^ w : Nat) - (2 ^ w : Nat)

/-- A signed value as the bits of the given width. -/
def ofSigned (w : Nat) (v : Int) : Nat := (v % (2 ^ w : Nat)).toNat

/-- The low n bytes of a value, lowest first (R5). -/
def toBytes : Nat → Nat → List (BitVec 8)
  | 0, _ => []
  | n + 1, v => BitVec.ofNat 8 v :: toBytes n (v / 256)

/-- The value that little-endian bytes hold (R5). -/
def ofBytes : List (BitVec 8) → Nat
  | [] => 0
  | b :: bs => b.toNat + 256 * ofBytes bs

/-- Division rounded up; 0 for a zero divisor. -/
def ceilDiv (a b : Nat) : Nat := if b = 0 then 0 else (a + b - 1) / b

/-- One bit of the reflected CRC-32 (R580). -/
def crcBit (c : Nat) : Nat := if c % 2 = 1 then (c / 2) ^^^ 0xEDB88320 else c / 2

/-- Eight bits of it. -/
def crcByte (c : Nat) (b : BitVec 8) : Nat :=
  crcBit (crcBit (crcBit (crcBit (crcBit (crcBit (crcBit (crcBit (c ^^^ b.toNat))))))))

/-- CRC-32 of IEEE 802.3 over a stream of bytes (R580, R581). -/
def crc32 (bs : List (BitVec 8)) : Nat := (bs.foldl crcByte 0xFFFFFFFF) ^^^ 0xFFFFFFFF

/-- CRC-32 over a structure of n bytes whose own 32-bit field at byte k is taken as zero (R581). -/
def crcZero (n k v : Nat) : Nat := crc32 ((toBytes n v).take k ++ [0, 0, 0, 0] ++ (toBytes n v).drop (k + 4))

/-! ## Sparse tables -/

/-- The value at a key; unlisted keys hold the default. -/
def Tab.get {α : Type} (d : α) : Tab α → Nat → α
  | [], _ => d
  | (k, v) :: t, n => if k = n then v else Tab.get d t n

/-- Remove a key. -/
def Tab.del {α : Type} : Tab α → Nat → Tab α
  | [], _ => []
  | (k, v) :: t, n => if k = n then Tab.del t n else (k, v) :: Tab.del t n

/-- List a key with a value. -/
def Tab.ins {α : Type} : Tab α → Nat → α → Tab α
  | [], n, x => [(n, x)]
  | (k, v) :: t, n, x =>
    if k = n then (n, x) :: t else if k < n then (k, v) :: Tab.ins t n x else (n, x) :: (k, v) :: t

/-- Store a value at a key and keep the table's form: a default value is not listed. -/
def Tab.put {α : Type} [DecidableEq α] (d : α) (t : Tab α) (n : Nat) (x : α) : Tab α :=
  if x = d then Tab.del t n else Tab.ins t n x

/-- Keys strictly rising. -/
def Tab.rising {α : Type} : Tab α → Bool
  | [] => true
  | [_] => true
  | (a, _) :: (b, y) :: t => decide (a < b) && Tab.rising ((b, y) :: t)

/-! ## Memories -/

/-- One byte; an unlisted address reads 0 (R583). -/
def Mem.read (m : Mem) (a : Nat) : BitVec 8 := Tab.get 0 m a

/-- One byte written; 0 is not listed. -/
def Mem.write (m : Mem) (a : Nat) (b : BitVec 8) : Mem := Tab.put 0 m a b

/-- n bytes from a. -/
def Mem.readN (m : Mem) (a : Nat) : Nat → List (BitVec 8)
  | 0 => []
  | n + 1 => Mem.read m a :: Mem.readN m (a + 1) n

/-- Bytes written from a. -/
def Mem.writeL (m : Mem) (a : Nat) : List (BitVec 8) → Mem
  | [] => m
  | b :: bs => Mem.writeL (Mem.write m a b) (a + 1) bs

/-- The cells of [a, a + n), moved to start at b. -/
def Mem.slice (m : Mem) (a n b : Nat) : Mem :=
  (m.filter (fun p => decide (a ≤ p.1) && decide (p.1 < a + n))).map (fun p => (p.1 - a + b, p.2))

/-- Everything outside [a, a + n). -/
def Mem.clear (m : Mem) (a n : Nat) : Mem := m.filter (fun p => !(decide (a ≤ p.1) && decide (p.1 < a + n)))

/-- Replace [b, b + n) by the cells of [a, a + n) of another memory. -/
def Mem.copyFrom (m : Mem) (b : Nat) (src : Mem) (a n : Nat) : Mem :=
  let keep := Mem.clear m b n
  keep.filter (fun p => decide (p.1 < b)) ++ Mem.slice src a n b ++ keep.filter (fun p => decide (b ≤ p.1))

/-- The canonical form: addresses strictly rising, no zero byte listed. -/
def Mem.wf (m : Mem) : Bool := Tab.rising m && m.all (fun p => decide (p.2 ≠ 0))

end Sys2Proof.Machine
end

