-- ==== Sys2Proof/Machine/RegMap.lean ====
section
/-!
DEFINITION. The register map (R548, R549 and the field maps of every chapter): which offsets of a page hold a register, its
width, its fields that a write reaches, their reset values and the values they may hold. Read-only fields are listed only
where their reset value is not 0. Generated from the field maps of spec/.
-/

namespace Sys2Proof.Machine

/-- Access codes of a register field (R12). -/
inductive Acc where
  | ro | rw | w1c | w1s | wo | rc
  deriving DecidableEq, Repr

/-- A field: bits hi:lo, access, reset value, and the ranges of values that are no reserved encoding ([] = all). -/
structure Fld where
  hi : Nat
  lo : Nat
  acc : Acc
  reset : Nat
  ok : List (Nat × Nat)
  deriving DecidableEq, Repr

/-- `count` registers of `width` bits from offset `off`, `stride` bytes apart. -/
structure RegD where
  off : Nat
  stride : Nat
  count : Nat
  width : Nat
  flds : List Fld
  deriving DecidableEq, Repr

/-- Registers of class 0x01 beyond the common header (R553). -/
def regs01 : List RegD := [
  ⟨0x200, 0, 1, 32, [⟨31, 16, .ro, 19283, []⟩, ⟨15, 0, .ro, 18760, []⟩]⟩, -- DIE_PART
  ⟨0x204, 0, 1, 32, [⟨15, 8, .ro, 65, []⟩, ⟨7, 0, .ro, 1, []⟩]⟩, -- DIE_STEPPING
  ⟨0x208, 0, 1, 64, []⟩, -- DIE_SERIAL
  ⟨0x210, 0, 1, 64, [⟨63, 54, .ro, 512, []⟩, ⟨53, 47, .ro, 64, []⟩, ⟨46, 30, .ro, 65536, []⟩, ⟨29, 15, .ro, 16384, []⟩, ⟨14, 0, .ro, 16384, []⟩]⟩, -- DIE_CAP0
  ⟨0x218, 0, 1, 64, [⟨63, 47, .ro, 65536, []⟩, ⟨46, 38, .ro, 264, []⟩, ⟨37, 33, .ro, 16, []⟩, ⟨32, 28, .ro, 16, []⟩, ⟨27, 16, .ro, 3300, []⟩, ⟨15, 4, .ro, 1650, []⟩]⟩, -- DIE_CAP1
  ⟨0x220, 0, 1, 64, [⟨63, 39, .ro, 25165824, []⟩, ⟨38, 31, .ro, 16, []⟩, ⟨30, 16, .ro, 10667, []⟩, ⟨4, 4, .ro, 1, []⟩, ⟨3, 3, .ro, 1, []⟩, ⟨2, 2, .ro, 1, []⟩, ⟨1, 1, .ro, 1, []⟩, ⟨0, 0, .ro, 1, []⟩]⟩, -- DIE_CAP2
  ⟨0x228, 0, 1, 32, []⟩] -- DIE_ROM

/-- Registers of class 0x02 beyond the common header (R557). -/
def regs02 : List RegD := [
  ⟨0x200, 8, 8, 64, [⟨63, 0, .w1c, 0, []⟩]⟩, -- IRQ_PENDj
  ⟨0x240, 8, 8, 64, [⟨63, 0, .rw, 0, []⟩]⟩, -- IRQ_HOSTj
  ⟨0x280, 8, 8, 64, [⟨63, 0, .rw, 0, []⟩]⟩, -- IRQ_CPXj
  ⟨0x2C0, 0, 1, 64, []⟩, -- IRQ_LAST
  ⟨0x2C8, 0, 1, 32, []⟩] -- IRQ_BLKSRC

/-- Registers of class 0x03 beyond the common header (R278). -/
def regs03 : List RegD := [
  ⟨0x8, 0, 1, 32, [⟨0, 0, .rw, 0, []⟩]⟩, -- FE_CTRL
  ⟨0xC, 0, 1, 32, []⟩, -- FE_STAT
  ⟨0x200, 0, 1, 32, [⟨4, 0, .rw, 10, [(0, 20)]⟩]⟩, -- FE_ACCT
  ⟨0x204, 0, 1, 32, [⟨31, 0, .rw, 0, []⟩]⟩, -- FE_ADMIT
  ⟨0x208, 0, 1, 32, []⟩, -- FE_LC_SUM
  ⟨0x20C, 0, 1, 32, [⟨15, 8, .rw, 0, []⟩, ⟨4, 0, .rw, 31, []⟩]⟩, -- FE_SCHED
  ⟨0x210, 0, 1, 32, []⟩, -- FE_WREC0
  ⟨0x218, 0, 1, 64, []⟩, -- FE_WREC1
  ⟨0x220, 0, 1, 64, []⟩, -- FE_SLOTS_LO
  ⟨0x228, 0, 1, 64, []⟩, -- FE_SLOTS_HI
  ⟨0x230, 0, 1, 32, []⟩] -- FE_SLOTS_V

/-- Registers of class 0x04 beyond the common header (R281). -/
def regs04 : List RegD := [
  ⟨0x200, 64, 32, 64, [⟨45, 0, .rw, 0, []⟩]⟩, -- CMDQ_BASE
  ⟨0x208, 64, 32, 64, [⟨45, 0, .rw, 0, []⟩]⟩, -- CMDQ_CPL_BASE
  ⟨0x210, 64, 32, 64, [⟨63, 56, .rw, 0, []⟩, ⟨55, 54, .rw, 0, [(0, 2)]⟩, ⟨53, 49, .rw, 0, [(0, 16)]⟩, ⟨48, 41, .rw, 0, []⟩, ⟨25, 0, .rw, 0, []⟩]⟩, -- CMDQ_CFG
  ⟨0x218, 64, 32, 32, [⟨31, 0, .rw, 0, []⟩]⟩, -- CMDQ_TAIL
  ⟨0x21C, 64, 32, 32, []⟩, -- CMDQ_HEAD
  ⟨0x220, 64, 32, 32, []⟩, -- CMDQ_DONE
  ⟨0x224, 64, 32, 32, []⟩, -- CMDQ_STATE
  ⟨0x228, 64, 32, 32, [⟨3, 0, .wo, 0, [(0, 5)]⟩]⟩, -- CMDQ_CTRL
  ⟨0x22C, 64, 32, 32, []⟩, -- CMDQ_USED
  ⟨0x230, 64, 32, 32, []⟩, -- CMDQ_WREC0
  ⟨0x238, 64, 32, 64, []⟩] -- CMDQ_WREC1

/-- Registers of class 0x05 beyond the common header (R284). -/
def regs05 : List RegD := [
  ⟨0x200, 0, 1, 32, []⟩, -- CPX_FW_VER
  ⟨0x204, 0, 1, 32, []⟩, -- CPX_FW_STAT
  ⟨0x208, 0, 1, 64, [⟨45, 0, .wo, 0, []⟩]⟩] -- CPX_REQ

/-- Registers of class 0x06 beyond the common header (R81). -/
def regs06 : List RegD := [
  ⟨0x200, 16, 4, 64, []⟩, -- RQS_SLOT_DESC
  ⟨0x208, 16, 4, 32, []⟩, -- RQS_SLOT_CTX
  ⟨0x240, 0, 1, 32, []⟩, -- RQS_GRANT
  ⟨0x248, 0, 1, 32, [⟨15, 14, .rw, 0, []⟩, ⟨13, 0, .rw, 0, []⟩]⟩, -- RQS_Q_IDX
  ⟨0x24C, 0, 1, 32, []⟩] -- RQS_Q_DATA

/-- Registers of class 0x07 beyond the common header (R122). -/
def regs07 : List RegD := [
  ⟨0x200, 32, 64, 64, []⟩, -- DWT_WIN_STAT
  ⟨0x208, 32, 64, 64, []⟩, -- DWT_WIN_CMD
  ⟨0x210, 32, 64, 64, []⟩, -- DWT_WIN_RET
  ⟨0x218, 32, 64, 64, []⟩] -- DWT_WIN_ARR

/-- Registers of class 0x08 beyond the common header (R323). -/
def regs08 : List RegD := [
  ⟨0x8, 0, 1, 32, [⟨0, 0, .rw, 1, []⟩]⟩, -- HOM_CTRL
  ⟨0xC, 0, 1, 32, []⟩, -- HOM_STAT
  ⟨0x200, 0, 1, 32, [⟨24, 0, .rw, 0, []⟩]⟩, -- HOM_TILE_IDX
  ⟨0x208, 0, 1, 64, []⟩, -- HOM_TILE_DATA
  ⟨0x210, 0, 1, 32, [⟨15, 0, .rw, 0, []⟩]⟩, -- HOM_SLOT_IDX
  ⟨0x218, 0, 1, 64, []⟩, -- HOM_SLOT_DATA
  ⟨0x240, 8, 16, 64, []⟩, -- HOM_DBINDb
  ⟨0x2C0, 8, 16, 64, []⟩] -- HOM_TTs

/-- Registers of class 0x09 beyond the common header (R326). -/
def regs09 : List RegD := [
  ⟨0x8, 0, 1, 32, [⟨0, 0, .rw, 1, []⟩]⟩, -- SHU_CTRL
  ⟨0xC, 0, 1, 32, []⟩, -- SHU_STAT
  ⟨0x200, 0, 1, 64, []⟩, -- SHU_MOVE_STAT
  ⟨0x208, 0, 1, 64, []⟩, -- SHU_LAST
  ⟨0x210, 0, 1, 32, [⟨4, 0, .rw, 4, [(0, 10)]⟩]⟩, -- SHU_SCRUB
  ⟨0x218, 0, 1, 32, []⟩, -- SHU_SCRUB_POS
  ⟨0x220, 0, 1, 64, []⟩] -- SHU_ECC_LAST

/-- Registers of class 0x0A beyond the common header (R393). -/
def regs0A : List RegD := [
  ⟨0x8, 0, 1, 32, [⟨2, 2, .rw, 0, []⟩, ⟨1, 1, .rw, 0, []⟩, ⟨0, 0, .rw, 0, []⟩]⟩, -- CFB_CTRL
  ⟨0xC, 0, 1, 32, []⟩, -- CFB_STAT
  ⟨0x200, 0, 1, 32, [⟨31, 31, .rw, 0, []⟩, ⟨17, 0, .rw, 0, []⟩]⟩, -- CFB_NODE
  ⟨0x204, 0, 1, 32, [⟨17, 0, .rw, 0, []⟩]⟩, -- CFB_PEER
  ⟨0x208, 0, 1, 32, [⟨4, 0, .rw, 10, []⟩]⟩, -- CFB_TXN
  ⟨0x20C, 0, 1, 32, []⟩, -- CFB_TAGS
  ⟨0x210, 0, 1, 32, [⟨11, 0, .rw, 0, []⟩]⟩, -- CFB_ADM_IDX
  ⟨0x214, 0, 1, 32, []⟩, -- CFB_ADM_DATA
  ⟨0x218, 0, 1, 32, [⟨27, 16, .wo, 0, []⟩, ⟨15, 12, .wo, 0, []⟩, ⟨1, 0, .wo, 0, []⟩]⟩, -- CFB_ADM_CMD
  ⟨0x220, 0, 1, 32, [⟨17, 0, .rw, 0, []⟩]⟩, -- CFB_REACH_IDX
  ⟨0x224, 0, 1, 32, []⟩, -- CFB_REACH_DATA
  ⟨0x228, 0, 1, 64, []⟩] -- CFB_LASTDROP

/-- Registers of class 0x0B beyond the common header (R396). -/
def regs0B : List RegD := [
  ⟨0x8, 0, 1, 32, [⟨1, 1, .wo, 0, []⟩, ⟨0, 0, .rw, 0, []⟩]⟩, -- CPT_CTRL
  ⟨0xC, 0, 1, 32, []⟩, -- CPT_STAT
  ⟨0x200, 0, 1, 32, []⟩, -- CPT_LINK
  ⟨0x208, 8, 5, 64, []⟩, -- CPT_CREDv
  ⟨0x230, 0, 1, 32, []⟩] -- CPT_TRAIN

/-- Registers of class 0x0C beyond the common header (R434). -/
def regs0C : List RegD := [
  ⟨0x8, 0, 1, 32, [⟨0, 0, .rw, 1, []⟩]⟩, -- COL_CTRL
  ⟨0xC, 0, 1, 32, []⟩, -- COL_STAT
  ⟨0x200, 16, 8, 64, []⟩, -- COL_MSLOTm_A
  ⟨0x208, 16, 8, 64, []⟩, -- COL_MSLOTm_B
  ⟨0x300, 16, 64, 64, []⟩, -- COL_SLOTs_A
  ⟨0x308, 16, 64, 64, []⟩] -- COL_SLOTs_B

/-- Registers of class 0x0D beyond the common header (R460). -/
def regs0D : List RegD := [
  ⟨0x8, 0, 1, 32, [⟨1, 1, .wo, 0, []⟩, ⟨0, 0, .rw, 1, []⟩]⟩, -- HLT_CTRL
  ⟨0xC, 0, 1, 32, []⟩, -- HLT_STAT
  ⟨0x200, 0, 1, 32, []⟩, -- HLT_PARTNER
  ⟨0x208, 0, 1, 32, []⟩] -- HLT_TRAIN

/-- Registers of class 0x0E beyond the common header (R461). -/
def regs0E : List RegD := [
  ⟨0x8, 0, 1, 32, [⟨1, 1, .rw, 0, []⟩, ⟨0, 0, .rw, 1, []⟩]⟩, -- CUR_CTRL
  ⟨0xC, 0, 1, 32, []⟩, -- CUR_STAT
  ⟨0x200, 0, 1, 32, [⟨7, 0, .w1c, 0, []⟩]⟩, -- CUR_ATTN
  ⟨0x204, 0, 1, 32, [⟨7, 0, .rw, 255, []⟩]⟩, -- CUR_ATTN_MASK
  ⟨0x208, 0, 1, 64, [⟨45, 0, .wo, 0, []⟩]⟩, -- CUR_FRAME
  ⟨0x210, 0, 1, 32, [⟨17, 0, .rw, 0, []⟩]⟩, -- CUR_MGMT_NODE
  ⟨0x218, 0, 1, 32, [⟨8, 0, .rw, 0, [(0, 333)]⟩]⟩, -- CUR_SENSE_IDX
  ⟨0x21C, 0, 1, 32, []⟩, -- CUR_SENSE_DATA
  ⟨0x220, 0, 1, 32, []⟩] -- CUR_SENSE_STAT

/-- Registers of class 0x0F beyond the common header (R462). -/
def regs0F : List RegD := [
  ⟨0x8, 0, 1, 32, [⟨1, 1, .rw, 0, []⟩, ⟨0, 0, .rw, 0, []⟩]⟩, -- TBS_CTRL
  ⟨0xC, 0, 1, 32, []⟩, -- TBS_STAT
  ⟨0x200, 0, 1, 64, []⟩, -- TBS_TIME
  ⟨0x208, 0, 1, 64, [⟨63, 0, .wo, 0, []⟩]⟩, -- TBS_SET
  ⟨0x210, 0, 1, 32, [⟨31, 0, .rw, 1000000, [(1000, 1000000000)]⟩]⟩, -- TBS_PERIOD
  ⟨0x214, 0, 1, 32, [⟨15, 0, .rw, 0, []⟩]⟩, -- TBS_DELAY
  ⟨0x218, 0, 1, 32, []⟩, -- TBS_ERR
  ⟨0x21C, 0, 1, 32, []⟩, -- TBS_RATE
  ⟨0x220, 0, 1, 64, [⟨63, 0, .rw, 0, []⟩]⟩, -- INV_AT
  ⟨0x228, 0, 1, 32, [⟨1, 1, .wo, 0, []⟩, ⟨0, 0, .wo, 0, []⟩]⟩, -- INV_CTRL
  ⟨0x22C, 0, 1, 32, []⟩, -- INV_STAT
  ⟨0x230, 0, 1, 64, []⟩] -- INV_PENDING

/-- Registers of class 0x10 beyond the common header (R491). -/
def regs10 : List RegD := [
  ⟨0x8, 0, 1, 32, []⟩, -- SEC_CTRL
  ⟨0xC, 0, 1, 32, []⟩, -- SEC_STAT
  ⟨0x200, 0, 1, 64, [⟨45, 0, .wo, 0, []⟩]⟩, -- SEC_REQ
  ⟨0x208, 0, 1, 64, []⟩, -- SEC_XMSS
  ⟨0x210, 0, 1, 64, []⟩, -- SEC_FLOOR
  ⟨0x218, 0, 1, 32, [⟨7, 0, .rw, 0, []⟩]⟩, -- SEC_KS_IDX
  ⟨0x220, 0, 1, 64, []⟩, -- SEC_KS_DATA
  ⟨0x228, 0, 1, 64, []⟩, -- SEC_KS_TAGS
  ⟨0x240, 8, 40, 64, []⟩, -- SEC_MEASk_j
  ⟨0x380, 4, 5, 32, []⟩, -- SEC_VERk
  ⟨0x394, 0, 1, 32, []⟩] -- SEC_PENDING

/-- Registers of class 0x11 beyond the common header (R519). -/
def regs11 : List RegD := [
  ⟨0x8, 0, 1, 32, [⟨2, 2, .rw, 1, []⟩, ⟨1, 1, .rw, 1, []⟩, ⟨0, 0, .rw, 1, []⟩]⟩, -- PWR_CTRL
  ⟨0xC, 0, 1, 32, [⟨6, 4, .ro, 7, []⟩]⟩, -- PWR_STAT
  ⟨0x200, 0, 1, 32, [⟨11, 0, .rw, 2000, [(1200, 2000)]⟩]⟩, -- PWR_LIMIT
  ⟨0x204, 0, 1, 32, [⟨2, 0, .rw, 0, []⟩]⟩, -- PWR_FAST
  ⟨0x208, 0, 1, 32, [⟨27, 16, .rw, 2800, [(400, 2800)]⟩]⟩, -- PWR_VCORE
  ⟨0x210, 0, 1, 64, []⟩, -- PWR_MEAS
  ⟨0x218, 0, 1, 64, [⟨63, 0, .rw, 0, []⟩]⟩, -- PWR_GATE_REQ
  ⟨0x220, 0, 1, 64, [⟨63, 0, .ro, 18446744073709551615, []⟩]⟩, -- PWR_GATED
  ⟨0x228, 0, 1, 32, [⟨1, 0, .wo, 0, []⟩]⟩, -- PWR_STATE_REQ
  ⟨0x22C, 0, 1, 32, [⟨31, 16, .wo, 0, []⟩, ⟨15, 6, .wo, 0, []⟩, ⟨2, 0, .wo, 0, [(0, 5)]⟩]⟩, -- PWR_RESET
  ⟨0x230, 0, 1, 32, [⟨2, 0, .ro, 1, []⟩]⟩] -- PWR_LAST_RESET

/-- Registers of class 0x12 beyond the common header (R544). -/
def regs12 : List RegD := [
  ⟨0x8, 0, 1, 32, [⟨1, 1, .rw, 0, []⟩, ⟨0, 0, .rw, 0, []⟩]⟩, -- FLT_CTRL
  ⟨0xC, 0, 1, 32, []⟩, -- FLT_STAT
  ⟨0x200, 8, 8, 64, []⟩, -- FLT_AVAILj
  ⟨0x240, 0, 1, 64, []⟩, -- FLT_CFENCED
  ⟨0x248, 0, 1, 32, [⟨31, 16, .wo, 0, []⟩, ⟨15, 6, .wo, 0, []⟩, ⟨1, 0, .wo, 0, [(0, 2)]⟩]⟩, -- FLT_FENCE_REQ
  ⟨0x250, 0, 1, 32, [⟨4, 0, .rw, 10, [(0, 20)]⟩]⟩, -- FLT_DIE
  ⟨0x254, 0, 1, 32, [⟨7, 4, .rw, 6, [(0, 10)]⟩, ⟨3, 0, .rw, 15, []⟩]⟩, -- FLT_WDT
  ⟨0x258, 0, 1, 32, [⟨1, 0, .wo, 0, []⟩]⟩, -- FLT_WDT_KICK
  ⟨0x260, 0, 1, 64, []⟩] -- FLT_LAST_FENCE

/-- Registers of class 0x20 beyond the common header (R78). -/
def regs20 : List RegD := [
  ⟨0x8, 0, 1, 32, [⟨1, 1, .rw, 0, []⟩, ⟨0, 0, .rw, 1, []⟩]⟩, -- RTE_CTRL
  ⟨0xC, 0, 1, 32, []⟩, -- RTE_STAT
  ⟨0x200, 0, 1, 64, []⟩, -- RTE_CUR
  ⟨0x208, 0, 1, 32, []⟩, -- RTE_TOKRANGE
  ⟨0x210, 0, 1, 32, [⟨15, 14, .rw, 0, []⟩, ⟨13, 0, .rw, 0, []⟩]⟩, -- RTE_BIAS_IDX
  ⟨0x214, 0, 1, 32, []⟩] -- RTE_BIAS_DATA

/-- Registers of class 0x21 beyond the common header (R119). -/
def regs21 : List RegD := [
  ⟨0x8, 0, 1, 32, [⟨1, 1, .rw, 0, []⟩, ⟨0, 0, .rw, 1, []⟩]⟩, -- DRV_CTRL
  ⟨0xC, 0, 1, 32, []⟩, -- DRV_STAT
  ⟨0x200, 0, 1, 64, []⟩, -- DRV_CUR
  ⟨0x208, 0, 1, 32, []⟩] -- DRV_LEFT

/-- Registers of class 0x22 beyond the common header (R154). -/
def regs22 : List RegD := [
  ⟨0x8, 0, 1, 32, [⟨0, 0, .rw, 1, []⟩]⟩, -- GNG_CTRL
  ⟨0xC, 0, 1, 32, []⟩, -- GNG_STAT
  ⟨0x200, 0, 1, 64, []⟩] -- GNG_CUR

/-- Registers of class 0x24 beyond the common header (R238). -/
def regs24 : List RegD := [
  ⟨0x8, 0, 1, 32, [⟨2, 2, .wo, 0, []⟩, ⟨1, 1, .rw, 0, []⟩, ⟨0, 0, .rw, 0, []⟩]⟩, -- VIT_CTRL
  ⟨0xC, 0, 1, 32, []⟩, -- VIT_STAT
  ⟨0x200, 0, 1, 32, []⟩, -- VIT_WPTR
  ⟨0x204, 0, 1, 32, [⟨31, 0, .wo, 0, []⟩]⟩, -- VIT_MARK
  ⟨0x208, 0, 1, 32, [⟨13, 0, .rw, 0, []⟩]⟩, -- VIT_RD_IDX
  ⟨0x240, 8, 8, 64, []⟩] -- VIT_RD_DATAn

/-- Registers of class 0x25 beyond the common header (R352). -/
def regs25 : List RegD := [
  ⟨0x200, 4, 48, 32, [⟨31, 31, .rw, 0, []⟩, ⟨30, 30, .rw, 0, []⟩, ⟨29, 29, .rw, 0, []⟩, ⟨23, 16, .rw, 0, []⟩, ⟨15, 0, .rw, 0, []⟩]⟩] -- MBX_CFGi

/-- Registers of class 0x26 beyond the common header (R354). -/
def regs26 : List RegD := [
  ⟨0x8, 0, 1, 32, [⟨0, 0, .rw, 0, []⟩]⟩, -- BPM_CTRL
  ⟨0xC, 0, 1, 32, []⟩, -- BPM_STAT
  ⟨0x200, 0, 1, 64, [⟨63, 39, .rw, 0, []⟩, ⟨18, 0, .rw, 0, [(0, 262144)]⟩]⟩, -- BPM_TABLE
  ⟨0x208, 0, 1, 32, [⟨17, 0, .rw, 0, []⟩]⟩, -- BPM_PEEK_IDX
  ⟨0x210, 0, 1, 64, []⟩, -- BPM_PEEK_LO
  ⟨0x218, 0, 1, 64, []⟩, -- BPM_PEEK_HI
  ⟨0x240, 16, 32, 64, [⟨63, 39, .rw, 0, []⟩, ⟨38, 28, .rw, 0, []⟩, ⟨27, 10, .rw, 0, []⟩, ⟨9, 2, .rw, 0, []⟩, ⟨0, 0, .rw, 0, []⟩]⟩, -- BPM_POOLp_CFG
  ⟨0x248, 16, 32, 64, []⟩] -- BPM_POOLp_STAT

/-- Registers of class 0x30 beyond the common header (R235). -/
def regs30 : List RegD := [
  ⟨0x8, 0, 1, 32, [⟨1, 1, .rw, 0, []⟩, ⟨0, 0, .rw, 0, []⟩]⟩, -- CORE_CTRL
  ⟨0xC, 0, 1, 32, []⟩, -- CORE_STAT
  ⟨0x200, 0, 1, 64, []⟩, -- CORE_CUR
  ⟨0x208, 0, 1, 64, []⟩, -- CORE_CYCLE
  ⟨0x210, 0, 1, 64, []⟩, -- CORE_FAULT
  ⟨0x218, 0, 1, 64, [⟨63, 0, .rw, 0, []⟩]⟩, -- CORE_TRACE_QMASK
  ⟨0x220, 0, 1, 32, [⟨6, 6, .rw, 0, []⟩, ⟨5, 4, .rw, 0, [(0, 2)]⟩, ⟨3, 0, .rw, 0, [(0, 13)]⟩]⟩, -- CORE_TRACE_QSEL
  ⟨0x228, 0, 1, 32, [⟨4, 4, .rw, 0, []⟩, ⟨3, 3, .rw, 0, []⟩, ⟨2, 2, .rw, 0, []⟩, ⟨1, 1, .rw, 0, []⟩, ⟨0, 0, .rw, 0, []⟩]⟩, -- CORE_DBG_CTRL
  ⟨0x22C, 0, 1, 32, [⟨1, 0, .wo, 0, []⟩]⟩, -- CORE_DBG_CMD
  ⟨0x230, 0, 1, 32, [⟨31, 0, .rw, 0, []⟩]⟩, -- CORE_DBG_COUNT
  ⟨0x234, 0, 1, 32, [⟨31, 0, .rw, 0, []⟩]⟩, -- CORE_DBG_TAG
  ⟨0x238, 0, 1, 32, [⟨13, 0, .rw, 0, []⟩]⟩, -- CORE_DBG_BUNDLE
  ⟨0x240, 0, 1, 32, []⟩, -- CORE_LAUNCHES
  ⟨0x250, 4, 8, 32, []⟩, -- CORE_SCU_Cn
  ⟨0x270, 0, 1, 32, []⟩] -- CORE_SCU_K

/-- Registers of class 0x32 beyond the common header (R188). -/
def regs32 : List RegD := [
  ⟨0x8, 0, 1, 32, [⟨0, 0, .rw, 0, []⟩]⟩, -- SIU_CTRL
  ⟨0xC, 0, 1, 32, []⟩, -- SIU_STAT
  ⟨0x200, 0, 1, 64, []⟩, -- SIU_LAST_SP
  ⟨0x208, 0, 1, 64, []⟩, -- SIU_AUD_A
  ⟨0x210, 0, 1, 64, []⟩, -- SIU_AUD_B
  ⟨0x218, 0, 1, 64, []⟩] -- SIU_LAST_MERGE

/-- The common header (R549, R526, R527, R539); CTRL and STAT at 0x008 and 0x00C are registers on every page (R550). -/
def regsHead : List RegD := [
  ⟨0x000, 0, 1, 32, []⟩,
  ⟨0x004, 0, 1, 32, [⟨31, 16, .ro, 1, []⟩]⟩,
  ⟨0x010, 0, 1, 32, [⟨31, 0, .w1c, 0, []⟩]⟩,
  ⟨0x014, 0, 1, 32, [⟨15, 0, .rw, 0, []⟩]⟩,
  ⟨0x018, 0, 1, 32, [⟨31, 31, .w1s, 0, []⟩, ⟨30, 29, .rw, 0, []⟩, ⟨23, 20, .rw, 0, []⟩, ⟨19, 15, .rw, 0, []⟩]⟩,
  ⟨0x01C, 0, 1, 32, [⟨31, 16, .rw, 2, []⟩, ⟨15, 0, .rw, 65535, []⟩]⟩,
  ⟨0x020, 4, 2, 32, []⟩,
  ⟨0x040, 8, 24, 64, []⟩,
  ⟨0x100, 8, 24, 64, []⟩,
  ⟨0x008, 4, 2, 32, []⟩]

/-- First class of the block that a page index belongs to and its number there; none for a reserved page (R547, R548). -/
def blockOf (page : Nat) : Option (Nat × Nat) :=
  let c := page / 256
  let i := page % 256
  if (c = 0x01 ∨ c = 0x02 ∨ c = 0x03 ∨ c = 0x05 ∨ c = 0x06 ∨ c = 0x07 ∨ c = 0x08 ∨ c = 0x0A ∨ (0x0C ≤ c ∧ c ≤ 0x12)) then
    if i = 0 then some (c, 0) else none
  else if c = 0x04 then if i < 9 then some (c, i) else none
  else if c = 0x09 ∨ c = 0x0B then if i < 16 then some (c, i) else none
  else if 0x20 ≤ c ∧ c ≤ 0x26 then if i < 64 then some (c, i) else none
  else if c = 0x30 ∨ c = 0x31 then some (0x30, page - 0x3000)
  else if c = 0x32 ∨ c = 0x33 then some (0x32, page - 0x3200)
  else none

/-- Live counters that count on the pages of a class (PAGE_ID.NCTR, R549). -/
def nctrOf (cls : Nat) : Nat :=
  match cls with
  | 0x02 => 6
  | 0x03 => 16
  | 0x06 => 6
  | 0x07 => 12
  | 0x08 => 20
  | 0x09 => 21
  | 0x0A => 24
  | 0x0B => 24
  | 0x0C => 20
  | 0x0D => 16
  | 0x0E => 13
  | 0x0F => 6
  | 0x10 => 13
  | 0x11 => 19
  | 0x12 => 11
  | 0x20 => 24
  | 0x21 => 19
  | 0x22 => 7
  | 0x23 => 7
  | 0x24 => 10
  | 0x25 => 13
  | 0x26 => 12
  | 0x30 => 24
  | 0x32 => 22
  | _ => 0

/-- The block registers of a class. -/
def regsOf (cls : Nat) : List RegD :=
  match cls with
  | 0x01 => regs01
  | 0x02 => regs02
  | 0x03 => regs03
  | 0x04 => regs04
  | 0x05 => regs05
  | 0x06 => regs06
  | 0x07 => regs07
  | 0x08 => regs08
  | 0x09 => regs09
  | 0x0A => regs0A
  | 0x0B => regs0B
  | 0x0C => regs0C
  | 0x0D => regs0D
  | 0x0E => regs0E
  | 0x0F => regs0F
  | 0x10 => regs10
  | 0x11 => regs11
  | 0x12 => regs12
  | 0x20 => regs20
  | 0x21 => regs21
  | 0x22 => regs22
  | 0x24 => regs24
  | 0x25 => regs25
  | 0x26 => regs26
  | 0x30 => regs30
  | 0x32 => regs32
  | _ => []

/-- Whether an offset is one of the registers that an entry describes. -/
def RegD.holds (r : RegD) (off : Nat) : Bool :=
  if r.count = 1 then decide (off = r.off)
  else decide (r.off ≤ off) && decide ((off - r.off) % r.stride = 0) && decide ((off - r.off) / r.stride < r.count)

/-- CMDQ page 8 maps no register above queue 263's block (07, "Registers"). -/
def cmdqHole (page off : Nat) : Bool := decide (page = 0x408) && decide (0x400 ≤ off) && decide (off < 0xA00)

/-- The register whose first byte lies at an offset of a page. -/
def regAt (page off : Nat) : Option RegD :=
  match blockOf page with
  | none => none
  | some (cls, _) =>
    if cmdqHole page off then none
    else ((regsOf cls).find? (fun r => r.holds off)).or (regsHead.find? (fun r => r.holds off))

/-- The value that the Reset columns of a register's fields form (R9). -/
def RegD.reset (r : RegD) : Nat := r.flds.foldl (fun v f => v + f.reset <<< f.lo) 0

/-- Reset value of the register at an offset of a page: CMDQ_CFG.CLASS is 2 on the service queues (R281). -/
def regReset (page off : Nat) : Nat :=
  if page = 0x408 ∧ off % 0x40 = 0x10 ∧ 0x200 ≤ off then 2 <<< 54
  else if off = 0 then
    match blockOf page with
    | some (cls, _) => page <<< 16 + cls <<< 8 + nctrOf cls
    | none => 0
  else
    match regAt page off with
    | some r => r.reset
    | none => 0

end Sys2Proof.Machine
end

