-- ==== Sys2Proof/Machine/State.lean ====
section
/-!
DEFINITION. The state of the block: every register, table, queue, memory and mode the spec gives the part, in groups, as
plain data. Tables are sparse: an unlisted key holds the initial value that the accessors of Ops.lean name.
-/

namespace Sys2Proof.Machine

/-! ## Statuses, tables of names -/

/-- Completion status codes (R246; 07_commands_scheduling.md). -/
inductive Status where
  | ok | schedule | fenced | pathLost | poisoned | waitExpired | aborted | key | malformed
  | droppedEarly | droppedStale | epoch
  deriving DecidableEq, Repr, Inhabited

/-- Reset levels (R513; 14_power_clocks_reset.md), coded as PWR_RESET.LEVEL. -/
inductive Level where
  | none | cold | module | dieWarm | cluster | core
  deriving DecidableEq, Repr, Inhabited

/-- Link states (R364, R438): Caind ports and the Halter link share the names; RECOVERY is Halter only. -/
inductive LinkSt where
  | disabled | training | up | down | failed | recovery
  deriving DecidableEq, Repr, Inhabited

/-! ## Kept by every reset: fuses, fences, flash (R514) -/

/-- One Ledger record (R448). -/
structure LedgerRec where
  /-- R448. 64 bits. Timebase at the event. -/
  time : BitVec 64
  /-- R448. 48 bits. Record sequence number. -/
  seq : Nat
  /-- R448. 16 bits. Page of the reporting block, 0 for none. -/
  page : Nat
  /-- R448. 8 bits. 0 ERROR, 1 FENCE, 2 RESET, 3 SENSOR, 4 FIRMWARE, 5 TIMEBASE, 6 MGMT, 7 LOST, 8 BOOT. -/
  kind : Nat
  /-- R448. 8 bits. 0 INFO, 1 WARN, 2 ERROR, 3 FATAL. -/
  severity : Nat
  /-- R448. 8 bits. -/
  code : Nat
  /-- R448. 32 bits. -/
  info0 : BitVec 32
  /-- R448. 32 bits. -/
  info1 : BitVec 32
  deriving DecidableEq, Repr, Inhabited

/-- What no reset level clears: fences, fuses, flash, the Ledger, the identity key's signature state (R514, R533). -/
structure Fz where
  /-- R533, 15. 512 bits, 0. First fence fuse of each core's pair. -/
  coreFuseA : BitVec 512
  /-- R533, 15. 512 bits, 0. Second fence fuse of each core's pair. -/
  coreFuseB : BitVec 512
  /-- R533, 15. 64 bits, 0. First fence fuse of each cluster's pair. -/
  clFuseA : BitVec 64
  /-- R533, 15. 64 bits, 0. Second fence fuse of each cluster's pair. -/
  clFuseB : BitVec 64
  /-- R528, 15. 512 bits, 0. Cores fenced (FLT_AVAIL is its complement). -/
  coreFence : BitVec 512
  /-- R532, 15. 64 bits, 0. Clusters fenced (FLT_CFENCED). -/
  clFence : BitVec 64
  /-- R466, 13. Five floors of 0 to 64, all 0. Fused security floor of components 1 to 5. -/
  floors : List Nat
  /-- R456, 12. 64 MiB of bytes: those written since manufacture; any other byte is the free `Config.flash0`. -/
  flash : Tab (Option (BitVec 8))
  /-- R448, 12. At most 131,072 records, none. The Ledger's kept records, oldest first. -/
  ledger : List LedgerRec
  /-- R449, 12. 48 bits, 0. Next SEQ to write. -/
  ledgerSeq : Nat
  /-- R469, 13. LIMIT of each valid reservation record, in programming order; none. -/
  xmssRecs : List Nat
  /-- R469, 13. 32 bits, 0. SEC_XMSS.NEXT. -/
  xmssNext : Nat
  /-- R469, 13. 32 bits, 0. SEC_XMSS.LIMIT. -/
  xmssLimit : Nat
  deriving DecidableEq, Repr, Inhabited

/-! ## Time, power, reset -/

/-- Time as the model counts it. -/
structure TimeSt where
  /-- R3, 00 (durations). Nat, 0. The model's own count of timebase nanoseconds since the first step, which TBS_SET leaves: every duration is judged on it. -/
  ns : Nat
  /-- R444, 12. 64 bits, 0. The timebase count (TBS_TIME). -/
  tb : BitVec 64
  /-- R444, 12. Int, 0. Fraction of the count, in 10⁻⁹ ns, carried by the rate correction. -/
  frac : Int
  /-- R445, 12. Nat, 0. When the last accepted pulse came (or SYNC_EN was set). -/
  lastPulse : Nat
  /-- R454, 12. Tick of the armed snapshot, none. -/
  snapAt : Option (BitVec 64)
  /-- R445, 12. 1 bit, 0. Level of TBP_IN. -/
  tbpIn : Bool
  /-- R445, 12. Pulses driven on TBP_OUT so far, 0. -/
  tbpOutCount : Nat
  /-- R443, 12. Level of RESET_L (true = high). -/
  resetL : Bool
  /-- R443, 12. When RESET_L last went low. -/
  resetLLow : Nat
  /-- R474. Model's own: draws from the entropy source so far, 0. A statement holds for every value of it. -/
  draws : Nat
  /-- R464. Model's own: boots so far, 1 (the COLD boot). A statement holds for every value of it. -/
  boots : Nat
  deriving DecidableEq, Repr, Inhabited

/-- Module power states (R511) with the BOOTING and RESET that PWR_STAT.STATE shows. -/
inductive ModSt where
  | off | aux | standby | active | booting | reset
  deriving DecidableEq, Repr, Inhabited

/-- A reset level of a core or cluster that acts (R516). -/
structure UnitReset where
  /-- R516. Core or cluster number. -/
  target : Nat
  /-- R516. Whether it is a cluster reset. -/
  cluster : Bool
  /-- R516. When it ends. -/
  until_ : Nat
  deriving DecidableEq, Repr, Inhabited

/-- A wake a cluster waits for (R509). -/
structure WakeReq where
  /-- R509. Cluster. -/
  cluster : Nat
  /-- R509. LC-level work goes first. -/
  lc : Bool
  /-- R509. Request time. -/
  at_ : Nat
  deriving DecidableEq, Repr, Inhabited

/-- The power controller (14). -/
structure PwrSt where
  /-- R494, 14. 1 bit, true after the boot (false in OFF). AUX12 present and in range. -/
  aux12 : Bool
  /-- R494, 14. 1 bit, true after the boot (false in OFF). MAIN48 present and in range. -/
  main48 : Bool
  /-- R511, 14. ACTIVE after the boot (OFF before any supply). -/
  st : ModSt
  /-- R496, 14. Main rails VCORE, VSRAM, VDDQ_LP, VPHY on; true after the boot. -/
  rails : Bool
  /-- R518, 14. Level at which the boot that runs entered, and its cause; none. -/
  boot : Option (Level × Nat)
  /-- R509, 14. When the ACLK PLLs have locked; 0. -/
  aclkLock : Nat
  /-- R443, R570, 14. A boot at MODULE level or higher has completed, and no test instruction has marked it as not completed; true after the boot. -/
  booted : Bool
  /-- R517, 14. Resets whose RESET record waits for the next boot: level and cause; none. -/
  toLog : List (Level × Nat)
  /-- R502, 14. Point in force, 0 to 7; 7. -/
  point : Nat
  /-- R505, 14. THERM_CAP, 0 to 7; 0. -/
  thermCap : Nat
  /-- R502, 14. When the last 25 µs control step ran; 0. -/
  lastDvfs : Nat
  /-- R505, 14. When THERM_CAP last stepped; 0. -/
  lastTherm : Nat
  /-- R502, 14. Since when AVG_W and AVG_A have stayed below the raise thresholds; none. -/
  lowSince : Option Nat
  /-- R499, 14. Module-load samples of the last 1 ms in mW (newest first, at most 100); none. -/
  loads : List Nat
  /-- R499, 14. VCORE current samples of the last 1 ms in mA (newest first, at most 100); none. -/
  amps : List Nat
  /-- R521, 14. Energy not yet counted as a whole joule, in mW × 10 µs units; 0. -/
  energyFrac : Nat
  /-- R498, 14. Active phase groups, 0 to 9; 1 after the boot. -/
  groups : Nat
  /-- R498, 14. Since when the current has stayed below the lower count's threshold; none. -/
  shedSince : Option Nat
  /-- R510, 14. ACLK PLLs running; false. -/
  aclkOn : Bool
  /-- R510, 14. FCLK PLL running; true after the boot. -/
  fclkOn : Bool
  /-- R500, 14. ACLK runs at half frequency until then; 0. -/
  droopUntil : Nat
  /-- R507, 14. 64 bits, all ones. PWR_GATED. -/
  gated : BitVec 64
  /-- R510, 14. Since when every cluster has been gated; 0, the end of the boot. -/
  allGatedSince : Option Nat
  /-- R509, 14. Wakes waiting to start, oldest first; none. -/
  wakeQ : List WakeReq
  /-- R509, 14. Wakes started, by cluster: when it is ready and when it was asked for; none. -/
  waking : Tab (Nat × Nat)
  /-- R509, 14. Start times of wakes within the last 1 µs; none. -/
  wakeStarts : List Nat
  /-- R516, 14. CLUSTER and CORE resets that act; none. -/
  unitResets : List UnitReset
  /-- R511, 14. When STANDBY was entered (deep sleep 1 s on); 0. -/
  standbyAt : Nat
  /-- R568, 17. Instruction of the TAP; IDCODE (PRESUMED, IEEE 1149.1 Test-Logic-Reset). -/
  tap : TapInstr
  /-- R569, 17. 64 bits, IDCODE. Data that the last TAP instruction captured. -/
  tapDr : BitVec 64
  deriving DecidableEq, Repr, Inhabited

/-! ## Fault controller -/

/-- A fault placed in storage by an injection (R538, R539). -/
structure Placed where
  /-- R540. Page. -/
  page : Nat
  /-- R540. Structure code. -/
  target : Nat
  /-- R539. 0 SINGLE, 1 DOUBLE, 2 PARITY, 3 CHECK. -/
  kind : Nat
  /-- R539. Bit. -/
  bit : Nat
  /-- R538. Address of the word: in the tiled range for LPDDR5X, in the slices (as `HomSt.sram`) for a slot; 0 elsewhere. -/
  at_ : Nat
  deriving DecidableEq, Repr, Inhabited

/-- An uncorrectable error found and not yet acted on: the page and ERR_STAT bit that detected it (R522, R544). -/
structure Due where
  /-- R522. 0 core fence, 1 cluster fence, 2 die-level error. -/
  kind : Nat
  /-- R528. Core or cluster. -/
  target : Nat
  /-- R544. Page of the detecting block. -/
  page : Nat
  /-- R544. Its ERR_STAT bit. -/
  bit : Nat
  deriving DecidableEq, Repr, Inhabited

/-- The fault controller (15). -/
structure FltSt where
  /-- R538, 15. Faults placed in storage and not yet found; none. -/
  placed : List Placed
  /-- R522, 15. Errors found whose fence or die-level error has not run; none. -/
  due : List Due
  /-- R529, 15. Fenced cores whose slots are still being evacuated; none. -/
  evac : List Nat
  /-- R533, 15. Units whose fuse is still to be blown: (is cluster, unit); none. -/
  fuseQ : List (Bool × Nat)
  /-- R536, 15. When the DIE_WARM reset of a die-level error falls due, and its cause; none. -/
  dieAt : Option (Nat × Nat)
  /-- R537, 15. When each CPX control core last kicked; 0. -/
  kicks : Tab Nat
  deriving DecidableEq, Repr, Inhabited

/-! ## Security -/

/-- The keys of one context (R478). -/
structure KeySet where
  /-- R478, 13. 512 bits each, none. WEIGHT generations 0 and 1. -/
  w0 : Option (BitVec 512)
  /-- R478. WEIGHT generation 1. -/
  w1 : Option (BitVec 512)
  /-- R478. LINK generation 0. -/
  l0 : Option (BitVec 512)
  /-- R478. LINK generation 1. -/
  l1 : Option (BitVec 512)
  /-- R483. Current WEIGHT generation, none before a SET_CURRENT. -/
  wCur : Option Bool
  /-- R480, R483. Current LINK generation, none before a SET_CURRENT. -/
  lCur : Option Bool
  deriving DecidableEq, Repr, Inhabited

/-- A request block in service (CPX R285 or security R472). -/
structure ReqSt where
  /-- R284, R471. Address of the request block. -/
  addr : Nat
  /-- R285, R472. The 512 bits read. -/
  block : BitVec 512
  /-- R286, R473. When its Time ends. -/
  until_ : Nat
  /-- R286, R473. Its RESULT. -/
  result : Status
  /-- R485. Tiles still to walk (REKEY) or pages of work left. -/
  left : Nat
  /-- R485. Tiles re-keyed so far. -/
  rekeyed : Nat
  /-- R286. Whether the block could be read at all (else nothing is written back). -/
  readable : Bool
  /-- R294. A MOVING tile held the access; it is tried again. -/
  again : Bool
  deriving DecidableEq, Repr, Inhabited

/-- The security block (13). -/
structure SecSt where
  /-- R478, 13. Key store by context number; empty. -/
  keys : Tab KeySet
  /-- R474, 13. ML-KEM key pair, by the number of its draw; none. -/
  kem : Option Nat
  /-- R477, 13. NONCE of the latest report; zeros. -/
  nonce : List (BitVec 8)
  /-- R471, 13. Request in service; none. -/
  req : Option ReqSt
  /-- R475, 13. 5 bits, 0. Components updated and awaiting their reset. -/
  pending : BitVec 5
  /-- R464, 13. ROM stopped at step 2. -/
  romStop : Bool
  /-- R465, 13. Latched digest of components 1 to 5, 64 bytes each; zeros. -/
  meas : Tab (List (BitVec 8))
  /-- R475, 13. 32 bits, 0. Running VERSION of components 1 to 5. -/
  vers : Tab Nat
  deriving DecidableEq, Repr, Inhabited

/-! ## Curator, frames, firmware -/

/-- One sensor (R446). -/
structure Sensor where
  /-- R446. Signed 32-bit value. -/
  value : Int
  /-- R446. 0 OK, 1 WARN, 2 CRIT, 3 FAIL, 4 OFF. -/
  status : Nat
  deriving DecidableEq, Repr, Inhabited

/-- Firmware update (R458) and recovery (R459). -/
structure FwSt where
  /-- R452. FW_STATUS state: 0 idle, 1 verifying, 2 erasing, 3 programming, 4 done, 5 failed. -/
  st : Nat
  /-- R458. Component. -/
  comp : Nat
  /-- R458. Staging address. -/
  addr : Nat
  /-- R458. Image length. -/
  len : Nat
  /-- R452. Progress in KiB. -/
  progress : Nat
  /-- R459. The part is in recovery. -/
  recovery : Bool
  /-- R459. Next offset of the image that recovery expects; 0 before the header piece. -/
  nextOff : Nat
  /-- R459. Header piece kept by the ROM (first 4,096 bytes). -/
  header : List (BitVec 8)
  deriving DecidableEq, Repr, Inhabited

/-- A management request that waits to be served (R450). -/
inductive FrameWait where
  | host (addr : Nat)                                               -- the frame at an address, started by CUR_FRAME
  | i3c (code : Nat) (args : List (BitVec 8)) (crcOk : Bool)        -- from the I3C bus
  | mgmt (hdr : BitVec 256) (data : List (BitVec 8))                -- a MGMT packet that was accepted
  deriving DecidableEq, Repr

/-- The Curator (12). -/
structure CurSt where
  /-- R461, 12. Curator firmware runs (CUR_STAT.UP); true after the boot. -/
  up : Bool
  /-- R446, 12. 334 sensors; value 0, status OFF. -/
  sensors : Tab Sensor
  /-- R447, 12. 0 OK, 1 DEGRADED, 2 FAULT, 3 RECOVERY; 0. -/
  health : Nat
  /-- R449, 12. Records waiting in the 4,096-record buffer, oldest first; none. -/
  buf : List LedgerRec
  /-- R449, 12. Events lost since the last LOST record; 0. -/
  lost : Nat
  /-- R450, 12. Unread I3C response; none. -/
  i3cResp : Option (List (BitVec 8))
  /-- R451, 12. Dynamic address; none. -/
  dynAddr : Option (BitVec 7)
  /-- R451, 12. ENEC has enabled in-band interrupts; DESIGN CHOICE false. -/
  ibiEn : Bool
  /-- R451, 12. An in-band interrupt is due; false. -/
  ibiDue : Bool
  /-- R451, 12. Bytes last driven to the I3C controller; none. -/
  i3cOut : List (BitVec 8)
  /-- R458, 12. Firmware update state. -/
  fw : FwSt
  /-- R459, 12. 512 KiB recovery buffer; zeros. -/
  recBuf : Mem
  /-- R450, 12. Frames that have arrived and are not yet served, oldest first, across the paths; none. -/
  frameQ : List FrameWait
  deriving DecidableEq, Repr, Inhabited

/-! ## Command front-end: queues, commands, sync counters, contexts (07) -/

/-- A wait entry (R249) with its evaluation (R263, R264). -/
structure WaitE where
  /-- R249. 32 bits. -/
  target : BitVec 32
  /-- R249. Die-local counter. -/
  ctr : Nat
  /-- R249. Timeout code 0 to 31. -/
  code : Nat
  /-- R263. A value of the counter has met it since it registered; it does not expire any more. -/
  reached : Bool
  /-- R263. The front-end has seen it as met; once met, stays met. -/
  met : Bool
  /-- R264. Its timer ran out while unmet. -/
  expired : Bool
  deriving DecidableEq, Repr, Inhabited

/-- A signal entry (R250). -/
structure SigE where
  /-- R250. 32 bits. -/
  value : BitVec 32
  /-- R250. Node of the counter. -/
  node : Nat
  /-- R250. Counter. -/
  ctr : Nat
  /-- R250. 0 ADD, 1 SET. -/
  op : Nat
  /-- R250. 0 ALWAYS, 1 ON_OK, 2 ON_FAIL. -/
  cond : Nat
  deriving DecidableEq, Repr, Inhabited

/-- Where a command stands between its descriptor read and its completion (R242 to R244). -/
inductive Phase where
  | waiting      -- read, at or behind the head, not issued
  | issued       -- issued: its unit has not started it
  | held         -- its unit holds it: route behind a slot (R75), dispatch behind its ROUTE (R90), combine behind its arming (R112)
  | resolving    -- kernel: tiles being resolved (R298)
  | ready        -- kernel: every tile locked, waiting for its core (R256)
  | running      -- its unit works on it
  | signalling   -- work ended, status fixed, signals being performed (R244)
  deriving DecidableEq, Repr, Inhabited

/-- A command that the front-end has read (R242, R243). -/
structure Cmd where
  /-- R241. Queue. -/
  queue : Nat
  /-- R241. 32-bit index. -/
  index : BitVec 32
  /-- R248. 32 bits. CMD_TAG. -/
  tag : BitVec 32
  /-- R253. TYPE. -/
  type : Nat
  /-- R248. SERIAL. -/
  serial : Bool
  /-- R248. CONT. -/
  cont : Bool
  /-- R248. IRQ. -/
  irq : Bool
  /-- R249. Waits in entry order. -/
  waits : List WaitE
  /-- R250. Signals in entry order. -/
  sigs : List SigE
  /-- R247. 512 bits. Operand block. -/
  op : BitVec 512
  /-- R251. A check that fails at issue failed at read. -/
  bad : Bool
  /-- R263. Whether it has become its queue's head, and when. -/
  headAt : Option Nat
  /-- R271. When its waits were all met. -/
  metAt : Nat
  /-- R267. Context of its queue at issue. -/
  ctx : Nat
  /-- R271. Issued at LC level. -/
  lc : Bool
  /-- R273. Charge in ns of core time. -/
  charge : Nat
  /-- R243. -/
  phase : Phase
  /-- R244. Fixed when its work ends. -/
  status : Status
  /-- R245. The failing unit's ERR_INFO1. -/
  info : BitVec 32
  /-- R251. Next signal entry to perform. -/
  sigPos : Nat
  /-- R252. A remote signal of it is in flight. -/
  sigWait : Bool
  /-- R245. Stop without any signal (DESC_CRC, entry checks, descriptor read). -/
  mute : Bool
  /-- R257, R309. Progress: bytes or items its unit has handled. -/
  pos : Nat
  /-- R257, R309. Bytes, packets or tiles of it still outstanding. -/
  left : Nat
  /-- R298. Tiles (of operands and image) it holds locks on, with the core list each belongs to. -/
  locks : List Nat
  /-- R75. Order of issue, for the arbiters that go by it. -/
  seqNo : Nat
  /-- R244. Its unit has nothing left to issue: it ends when its outstanding packets have completed. -/
  fin : Bool
  /-- R243. It has issued. -/
  went : Bool
  /-- R298, R325. Tiles for which its launch has asked a move. -/
  brought : List Nat
  /-- R245. Timebase when its status was fixed, or when its last signal was performed. -/
  endAt : BitVec 64
  deriving DecidableEq, Repr, Inhabited

/-- One command or service queue (R240, R241, R281). -/
structure Queue where
  /-- R282. 1 bit, 0. -/
  enabled : Bool
  /-- R244. 1 bit, 0. FAILED. -/
  failed : Bool
  /-- R241. 32 bits, 0. -/
  tail : BitVec 32
  /-- R241. 32 bits, 0. -/
  head : BitVec 32
  /-- R241. 32 bits, 0. -/
  done : BitVec 32
  /-- R241. Indices completed above DONE. -/
  doneSet : List (BitVec 32)
  /-- R242. Descriptors read: waiting ones and those in flight, by index. -/
  cmds : List Cmd
  /-- R273. Core ns charged in this window (CMDQ_USED); 0. -/
  used : Nat
  /-- R266, R294. An abort that waits for a descriptor in a MOVING tile: the indices below it, and whether it is ABORT_ALL. -/
  abort : Option (BitVec 32 × Bool)
  deriving DecidableEq, Repr, Inhabited

/-- A sync counter (R259). -/
structure Ctr where
  /-- R259. 32 bits, 0. -/
  value : BitVec 32
  /-- R259. 1 bit, 0. CNT_STAT.WRAP. -/
  wrap : Bool
  /-- R260. Clock in ns of the FCLK cycle that is open on it; none: no operation since the last closed cycle. -/
  openAt : Option Nat
  /-- R260. Value before the open cycle. -/
  base : BitVec 32
  /-- R260. Largest SET of the open cycle. -/
  top : Option (BitVec 32)
  /-- R260. Sum of the ADDs of the open cycle, exact. -/
  adds : Nat
  deriving DecidableEq, Repr, Inhabited

/-- A context (R267, R285). -/
structure Ctx where
  /-- R285. Job ID, 16 bits. -/
  job : Nat
  /-- R285. First tile of the window. -/
  winFirst : Nat
  /-- R285. Tiles in the window. -/
  winTiles : Nat
  /-- R285. First counter. -/
  ctrBase : Nat
  /-- R285. Counters. -/
  ctrCount : Nat
  /-- R267. Resident slot 0 to 15, none when swapped out. -/
  slot : Option Nat
  /-- R268. Timebase when last blocked, 0 if never. -/
  blockTime : BitVec 64
  /-- R268. Blocked now (as last evaluated). -/
  blocked : Bool
  /-- R269. When it became runnable while swapped out. -/
  runnableAt : Option Nat
  deriving DecidableEq, Repr, Inhabited

/-- A swap in progress (R270). -/
structure Swap where
  /-- R270. Outgoing context. -/
  out : Option Nat
  /-- R270. Incoming context. -/
  inn : Option Nat
  /-- R270. When its steps end. -/
  until_ : Nat
  deriving DecidableEq, Repr, Inhabited

/-- The front-end, the counters and the CPX. -/
structure FeSt where
  /-- R240, 07. 264 queues. -/
  queues : Tab Queue
  /-- R259, 07. 65,536 counters. -/
  ctrs : Tab Ctr
  /-- R267, 07. Contexts by number, none. -/
  ctxs : Tab (Option Ctx)
  /-- R269, 07. Swap in progress, none. -/
  swap : Option Swap
  /-- R284, 07. CPX request in service, none. -/
  cpx : Option ReqSt
  /-- R284, 07. CPX firmware accepts requests (CPX_FW_STAT.UP); 1 after the boot. -/
  cpxUp : Bool
  /-- R557, 16. Vectors delivered to the CPX, oldest first. -/
  cpxIrqs : List Nat
  /-- R273, 07. When the accounting window began; 0. -/
  winStart : Nat
  /-- R75, R271. Issue order so far; 0. -/
  issueSeq : Nat
  /-- R264, 07. FE_WREC: queue, timeout code, wait entry, counter, target, value; none. -/
  wrec : List Nat
  /-- R264, 07. CMDQ_WREC of each queue, as FE_WREC; none. -/
  qwrec : Tab (List Nat)
  /-- R17. Model's own: reads of the free value so far. A statement holds for every value of it. -/
  fresh : Nat
  deriving DecidableEq, Repr, Inhabited

/-! ## Home unit and Shunters (08) -/

/-- Tile states (R292). -/
inductive TileSt where
  | resident | moving | pinned | poisoned
  deriving DecidableEq, Repr, Inhabited

/-- A home-table entry (R292). -/
structure Tile where
  /-- R292. -/
  st : TileSt
  /-- R292. true: home in slot. -/
  tier : Bool
  /-- R292. In MOVING: true = moving out. -/
  dir : Bool
  /-- R292. -/
  enc : Bool
  /-- R292. -/
  kgen : Bool
  /-- R290. -/
  sys : Bool
  /-- R292. 16 bits. Slot of the home while TIER is 1; it stays the old one while a move is under way. -/
  slot : Nat
  /-- R292, R302. Target slot of an inward move or of a move between slots, while MOVING; else 0. -/
  to_ : Nat
  deriving DecidableEq, Repr, Inhabited

/-- Slot states (R293). -/
inductive SlotSt where
  | free | filling | held | draining
  deriving DecidableEq, Repr, Inhabited

/-- A slot-table entry (R293). -/
structure Slot where
  /-- R293. Tile in the slot. -/
  tile : Nat
  /-- R293. -/
  st : SlotSt
  /-- R293. Written since moved in. -/
  dirty : Bool
  /-- R293. -/
  pinned : Bool
  /-- R293. -/
  enc : Bool
  /-- R293. -/
  kgen : Bool
  /-- R293. Launches that resolved the tile and have not completed. -/
  locks : Nat
  /-- R323. Class of the move in progress. -/
  cls : Nat
  /-- R297. When its tile was last resolved or moved in (order number). -/
  lastUse : Nat
  deriving DecidableEq, Repr, Inhabited

/-- Who asked for a move. -/
inductive MoveBy where
  | cmd (queue : Nat) (index : BitVec 32)      -- a launch or TILE_MOVE command, or REKEY's walk
  | demand (binding entry : Nat)               -- a demand latch (R315)
  | timetable (ctx : Nat)                      -- a Timetable walk (R312)
  | evac (core : Nat)                          -- evacuation of a fenced core (R529)
  | evict (tile order : Nat)                   -- an occupant that makes room (R297): tile and order of the move that asked
  deriving DecidableEq, Repr, Inhabited

/-- Where a move sends its tile. -/
inductive MoveTo where
  | slot (s : Nat)      -- to this slot
  | core (c : Nat)      -- to a slot of this core chosen under R297
  | out                 -- home to LPDDR5X
  deriving DecidableEq, Repr, Inhabited

/-- A move that waits to be claimed (R304). -/
structure MoveReq where
  /-- R302. Tile. -/
  tile : Nat
  /-- R302. -/
  to_ : MoveTo
  /-- R304. 1 LAUNCH, 2 COMMAND, 3 DEMAND, 4 TIMETABLE. -/
  cls : Nat
  /-- R304. LC level within LAUNCH and COMMAND. -/
  lc : Bool
  /-- R308. PINNED afterwards. -/
  pin : Bool
  /-- R304. Order of request. -/
  order : Nat
  /-- Requester. -/
  by_ : MoveBy
  deriving DecidableEq, Repr, Inhabited

/-- A move in flight (R302, R303). -/
structure Move where
  /-- R302. Tile. -/
  tile : Nat
  /-- R302. Target slot, none when outward. -/
  slot : Option Nat
  /-- R302. Old slot, none when inward. -/
  old : Option Nat
  /-- R304. -/
  cls : Nat
  /-- R308. PINNED at the end. -/
  pin : Bool
  /-- R484. ENC under this generation. -/
  enc : Bool
  /-- R302. -/
  kgen : Bool
  /-- R302. Dirty when claimed. -/
  dirty : Bool
  /-- R530. Tile state to return to when the claim is undone. -/
  was : TileSt
  /-- Requester. -/
  by_ : MoveBy
  deriving DecidableEq, Repr, Inhabited

/-- One Shunter with its LPDDR5X controller. -/
structure Shu where
  /-- R304. Moves waiting, in order of request; none. -/
  waiting : List MoveReq
  /-- R303. Moves in flight, at most 8; none. -/
  flight : List Move
  /-- R320, R511. State of the package: 0 operating, 2 self-refresh, 3 deep sleep. -/
  lp : Nat
  /-- R320. 8 bits, 0. Bit k: channel k is in power-down. -/
  pd : BitVec 8
  /-- R320. Trained (boot step 8); true after the boot. -/
  trained : Bool
  deriving DecidableEq, Repr, Inhabited

/-- A Timetable binding (R310 to R312). -/
structure TtBind where
  /-- R311. Table address. -/
  addr : Nat
  /-- R310. ENTRIES. -/
  entries : Nat
  /-- R310. PERIOD. -/
  period : BitVec 32
  /-- R310. CYCLIC. -/
  cyclic : Bool
  /-- R307. BASE. -/
  base : BitVec 32
  /-- R307. START. -/
  start : Nat
  /-- R307. LOOKAHEAD. -/
  look : Nat
  /-- R307. STEP_CTR. -/
  ctr : Nat
  /-- R312. Per Shunter: entry, period and tiles of the entry handled; default (START, 0, 0). -/
  pos : Tab (Nat × Nat × Nat)
  /-- R312. Shunters whose walk has ended. -/
  ended : List Nat
  /-- R313. Shunters that stall. -/
  stalled : List Nat
  deriving DecidableEq, Repr, Inhabited

/-- A demand binding (R314, R315). -/
structure DBind where
  /-- R323. Context. -/
  ctx : Nat
  /-- R314. Domain. -/
  domain : Nat
  /-- R314. Address of the map. -/
  addr : Nat
  /-- R314. ENTRIES. -/
  entries : Nat
  /-- R314. PORT_ADDR. -/
  port : Nat
  /-- R315. Entries whose latch is set. -/
  latched : List Nat
  deriving DecidableEq, Repr, Inhabited

/-- Home unit, slots, Shunters, LPDDR5X and slice contents (08). -/
structure HomSt where
  /-- R292, 08. 25,165,824 tiles: RESIDENT in LPDDR5X, system tiles PINNED with SYS 1. -/
  tiles : Tab Tile
  /-- R293, 08. 65,536 slots: FREE. -/
  slots : Tab Slot
  /-- R289, R583, 08. LPDDR5X data by tiled-range address: zero. -/
  lp : Mem
  /-- R296, 08. SRAM slices, slot s at s × 32,768: zero. -/
  sram : Mem
  /-- R291, 08. HOM_STAT.INIT; false after the boot's rewrite. -/
  init : Bool
  /-- R303, 08. 16 Shunters. -/
  shus : Tab Shu
  /-- R311, 08. Timetable binding by context number; none. -/
  tts : Tab (Option TtBind)
  /-- R314, 08. Demand bindings by number 0 to 15; none. -/
  dbinds : Tab (Option DBind)
  /-- R304. Order of move requests so far; 0. -/
  order : Nat
  /-- R298. Locks of image tiles homed in LPDDR5X, by tile; 0. -/
  imgLocks : Tab Nat
  /-- R293, 08. Tiles whose entry the home cache holds, at most 32,768, newest first; none. -/
  cache : List Nat
  deriving DecidableEq, Repr, Inhabited

/-! ## Buffer pools and mailboxes (09) -/

/-- One pool of a BPM (R330, R334, R354). Its configuration is the register BPM_POOLp_CFG; its free list is in the cell table. -/
structure Pool where
  /-- R331. A bad cell-table entry has disabled it; false. -/
  broken : Bool
  /-- R330. The free list has been chained (POOL_BUILD_DONE); false. -/
  built : Bool
  /-- R334. Head cell of the free list. -/
  head : Nat
  /-- R354. FREE_CELLS; 0. -/
  free : Nat
  /-- R354. MIN_FREE; 0. -/
  minFree : Nat
  /-- R354. BUFFERS; 0. -/
  buffers : Nat
  deriving DecidableEq, Repr, Inhabited

/-- One mailbox (R341 to R345): core mailboxes 4n + m, cluster mailboxes at 2,048 + 16c + m. -/
structure Mbx where
  /-- R342. 64 bits, 0. -/
  ptr : BitVec 64
  /-- R342. 16 bits, 0. -/
  tag : Nat
  /-- R342. 16 bits, 0. -/
  job : Nat
  /-- R343. 32 bits, 0. -/
  sender : BitVec 32
  /-- R342. 16 bits, 0. -/
  seq : BitVec 16
  /-- R342. 16 bits, 0. -/
  taken : BitVec 16
  /-- R344. Lock holder, 0 none. -/
  owner : Nat
  /-- R345. 1 bit, 0. -/
  collision : Bool
  /-- R342. 1 bit, 0. -/
  full : Bool
  deriving DecidableEq, Repr, Inhabited

/-- Buffer pools and mailboxes. -/
structure BmSt where
  /-- R330, 09. Pools by 32 × cluster + pool. -/
  pools : Tab Pool
  /-- R342, 09. 2,048 core and 1,024 cluster mailboxes. -/
  mbxs : Tab Mbx
  deriving DecidableEq, Repr, Inhabited

/-! ## Halter link (12) -/

/-- A Halter packet (R439). -/
structure HPkt where
  /-- R439. 0 WRITE, 1 READ, 2 READ_DATA, 3 IRQ. -/
  type : Nat
  /-- R439. LENGTH. -/
  len : Nat
  /-- R439. ADDR. -/
  addr : Nat
  /-- R439. HTAG. -/
  htag : Nat
  /-- R439. STATUS code. -/
  status : Nat
  /-- R439. Payload. -/
  data : List (BitVec 8)
  deriving DecidableEq, Repr, Inhabited

/-- The Halter link's frames: sequence numbers and replay (R363, R437). -/
structure FrameSt where
  /-- R363. Sequence number of the oldest frame sent and not link-acknowledged. -/
  txSeq : Nat
  /-- R363. Next frame sequence number expected. -/
  rxSeq : Nat
  /-- R363. A discarded frame's replay is awaited. -/
  rxWait : Bool
  /-- R363. Replays of the oldest frame in a row. -/
  replays : Nat
  deriving DecidableEq, Repr, Inhabited

/-- The Halter link controller. -/
structure HltSt where
  /-- R438, 12. TRAINING after the boot's step 8 (DISABLED before it). -/
  st : LinkSt
  /-- R460, 12. 8 bits, 0. Lanes locked. -/
  lanes : BitVec 8
  /-- R460, 12. Partner's firmware version and HTAGS; 0. -/
  partner : Nat × Nat
  /-- R460, 12. Failed attempts in a row, and the step of the last failure; 0. -/
  train : Nat × Nat
  /-- R439, R363, 12. Packets sent, one a frame, and not link-acknowledged, oldest first. -/
  out : List HPkt
  /-- R440, 12. HTAGs of host READs outstanding; none. -/
  htags : List Nat
  /-- R440, 12. Host packets that have arrived and not yet taken effect, oldest first; none. -/
  rx : List HostPkt
  /-- R439, 12. Vectors held while the link is not UP, one per vector, with the timebase of the raise. -/
  held : List (Nat × Nat)
  /-- R363, R437, 12. Frames. -/
  frames : FrameSt
  /-- R438, 12. When TRAINING began. -/
  since : Nat
  deriving DecidableEq, Repr, Inhabited

/-! ## Cores, gang controllers, Vitrines (04, 05, 06) -/

/-- An operand queue of the running kernel (R194, R204). Byte counts run from the kernel's start. -/
structure QSt where
  /-- R194. First local-memory entry. -/
  base : Nat
  /-- R194. Entries; 0: the queue does not exist. -/
  size : Nat
  /-- R194. 0 LOCAL, 1 RTE_LANE. -/
  kind : Nat
  /-- R204. Bytes taken so far. -/
  taken : Nat
  /-- R205. Bytes present so far. -/
  present : Nat
  /-- R205. Bytes claimed so far. -/
  claimed : Nat
  /-- R207. Bytes the RTE has drained whose entries are not yet free for a push. -/
  late : Nat
  /-- R207. Those drained in the cycle before. -/
  late2 : Nat
  /-- R145. Format of the MX blocks last pushed by PACK; none after any other push. -/
  fmt : Option Nat
  /-- R48. Timebase-clock time in ns at which its last entry became whole. -/
  lastIn : Nat
  deriving DecidableEq, Repr, Inhabited

/-- A result on its way to a queue: it claims its space in cycle `at_` and is present from the next (R205, R220). -/
structure Result where
  /-- R220. Cycle in which it claims. -/
  at_ : Nat
  /-- R224. ENGINE code. -/
  engine : Nat
  /-- R224. Bundle that issued it. -/
  bundle : Nat
  /-- R164, R177. Queues and byte counts popped in that cycle. -/
  pops : List (Nat × Nat)
  /-- R205. Queues and bytes pushed in that cycle. -/
  pushes : List (Nat × List (BitVec 8))
  /-- R170. Raises OVERRUN instead, with the packs left. -/
  overrun : Option Nat
  /-- R145, R214. Format of the MX blocks that a PACK pushes. -/
  fmt : Option Nat
  deriving DecidableEq, Repr, Inhabited

/-- An LDE or STE operation outstanding (R218), in units of 64 B. -/
structure Xfer where
  /-- R218. First cycle it may use the port. -/
  from_ : Nat
  /-- R216. Queue. -/
  queue : Nat
  /-- R217. Slice address of each unit left; none: a zero unit pushed, or a unit taken and not written. -/
  units : List (Option Nat)
  /-- R224. Bundle that issued it. -/
  bundle : Nat
  deriving DecidableEq, Repr, Inhabited

/-- What a comparator holds (R210). -/
inductive CmpSrc where
  | const (v : Bool)
  | rel (a : Nat) (r : Nat) (b : Nat) (imm : Option (BitVec 32))
  deriving DecidableEq, Repr

/-- A comparator: its source and its value in this cycle (R203, R210). -/
structure Cmp where
  /-- R210. -/
  src : CmpSrc
  /-- R203. Value at the start of the cycle. -/
  val : Bool
  deriving DecidableEq, Repr

/-- A scheduling fault as raised (R224). -/
structure SFault where
  /-- R224. ENGINE. -/
  engine : Nat
  /-- R224. CAUSE. -/
  cause : Nat
  /-- R235. Queue involved. -/
  queue : Option Nat
  /-- R224. Bundle. -/
  bundle : Nat
  /-- R226. Part of the operation that met it: 0 its issue, 1 its port cycle, 2 its results. -/
  part : Nat
  deriving DecidableEq, Repr, Inhabited

/-- An operand of the launch as resolved: the slots of its tiles in order, and RO (R255, R298). -/
structure Opnd where
  /-- R298. Slots. -/
  slots : List Nat
  /-- R255. -/
  ro : Bool
  deriving DecidableEq, Repr, Inhabited

/-- One core (06): sequencer, engines, queues, memories. -/
structure Core where
  /-- R235. 0 IDLE, 1 LOADING, 2 RUNNING, 3 FAULT_HOLD, 4 BREAK, 5 FROZEN; 0. -/
  st : Nat
  /-- R235. Queue and index of the running kernel's command. -/
  cmd : Option (Nat × BitVec 32)
  /-- R235. Its tag (kept as the last kernel's). -/
  tag : BitVec 32
  /-- R235. Its queue (kept). -/
  queue : Nat
  /-- R192. Gang kernel. -/
  gang : Bool
  /-- R133. Its context's job ID. -/
  job : Nat
  /-- R235. CORE_CYCLE. -/
  cyc : Nat
  /-- R195. Declared cycle count. -/
  declared : Nat
  /-- R197, R235. Clock in ns at which its load ends. -/
  loadAt : Nat
  /-- R199. Word offset in instruction memory of each bundle. -/
  starts : List Nat
  /-- R202. Bundle the sequencer stands at. -/
  b : Nat
  /-- R202. Next issue of it. -/
  i : Nat
  /-- R202. Cycle of the next issue. -/
  at_ : Nat
  /-- R202. Predicate as last tested. -/
  on : Bool
  /-- R202. Whether the block check of this visit of the bundle has been made. -/
  entered : Bool
  /-- R202. Block stack: (start, left), innermost first. -/
  stk : List (Nat × Nat)
  /-- R235. Last bundle issued. -/
  last : Nat
  /-- R210. C0 to C7 as of the start of the cycle. -/
  cs : List (BitVec 32)
  /-- R210. SCU writes of this cycle, in effect from the next. -/
  csNext : List (Nat × BitVec 32)
  /-- R210. K0 to K7; default false and no comparison. -/
  ks : List Cmp
  /-- R210. ARM and SETK of this cycle. -/
  ksNext : List (Nat × CmpSrc)
  /-- R194. Q0 to Q63. -/
  qs : Tab QSt
  /-- R206. Queues popped in this cycle. -/
  popped : List Nat
  /-- R206. Queues pushed in this cycle. -/
  pushed : List Nat
  /-- R205, R225. Queues and bytes that become present at the next cycle's start, and whether they are a result. -/
  arrive : List (Nat × Nat × Bool)
  /-- R205. Results not yet present. -/
  results : List Result
  /-- R218. LDE operations outstanding, oldest first, at most 4. -/
  ldes : List Xfer
  /-- R218. STE operations outstanding, oldest first, at most 4. -/
  stes : List Xfer
  /-- R218. The port's work of this cycle is done. -/
  portDone : Bool
  /-- R220. MT busy until. -/
  mtUntil : Nat
  /-- R220. VE busy until. -/
  veUntil : Nat
  /-- R220. SIU busy until. -/
  siuUntil : Nat
  /-- R171. The tile belongs to the SIU until. -/
  tileSiu : Nat
  /-- R188. OP of the running SIU operation (1 SPSTEP … 4 MASK), 0 idle. -/
  siuOp : Nat
  /-- R220. SCU busy in this cycle (an operation was issued). -/
  scuAt : Option Nat
  /-- R127. 128 accumulators, +0. -/
  acc : Tab (BitVec 32)
  /-- R139. Read position of the held operand, in blocks. -/
  hold : Nat
  /-- R214. Part-filled reduction entry: values so far. -/
  red : List (BitVec 32)
  /-- R214. LSUM entry so far. -/
  lsum : Option (List (BitVec 32))
  /-- R215. Entries converted by this bundle's issues so far. -/
  conv : Nat
  /-- R215. Base index read at the bundle's first issue. -/
  convBase : Nat
  /-- R195. P0 to P15. -/
  params : List (BitVec 64)
  /-- R255. O0 to O7. -/
  opnds : List (Option Opnd)
  /-- R197. The next launch's list is preloaded: its command. -/
  preload : Option (Nat × BitVec 32)
  /-- R197. Bank that the running list starts in (0 or 1). -/
  bank : Nat
  /-- R224. Faults of this cycle. -/
  faults : List SFault
  /-- R229. A fault is held until RESUME. -/
  held : Bool
  /-- R227. A break is passed: the same stop is not taken twice before an issue. -/
  passed : Bool
  /-- R229. A STEP runs: the core freezes again after its next issue interval. -/
  stepping : Bool
  deriving DecidableEq, Repr

/-- A record in the capture FIFO (R233). -/
structure VitEnt where
  /-- R233. LOST record that precedes it; empty: none. -/
  lost : List (BitVec 8)
  /-- R239. Counter of its source. -/
  ctr : Nat
  /-- R231, R232. The record. -/
  bytes : List (BitVec 8)
  deriving DecidableEq, Repr, Inhabited

/-- A Vitrine (R230, R238). -/
structure Vit where
  /-- R230. 16,384 records of 64 B by index; zeros. -/
  recs : Tab (List (BitVec 8))
  /-- R238. Index of the next record; 0. -/
  wptr : Nat
  /-- R238. 1 bit, 0. -/
  wrapped : Bool
  /-- R238. 1 bit, 0. -/
  stopped : Bool
  /-- R230. Records written since the last CLEAR (STOP mode fills at 16,384). -/
  n : Nat
  /-- R234. The record copied: 64 bytes; zeros. -/
  rd : List (BitVec 8)
  /-- R233. Capture FIFO, oldest first, at most 32. -/
  fifo : List VitEnt
  /-- R233. Records lost since the last one captured. -/
  lost : Nat
  deriving DecidableEq, Repr, Inhabited

/-- Cores and what stands beside them in each cluster. -/
structure CoreSt where
  /-- R191, 06. 512 cores. -/
  cores : Tab Core
  /-- R287, 06. Local memories by core × 262,144 + offset: zero. -/
  lmem : Mem
  /-- R197, 06. Instruction memories by core × 65,536 + offset: zero. -/
  imem : Mem
  /-- R151, 04. VE table memories by core × 12,288 + offset: zero. -/
  tbl : Mem
  /-- R230, 06. 64 Vitrines. -/
  vits : Tab Vit
  deriving DecidableEq, Repr

/-! ## Routing engines and quota store (02) -/

/-- An expert-table entry (R36). -/
structure Expert where
  /-- R36. Bits 45:8 of the pen's address. -/
  penBase : Nat
  /-- R36. Node. -/
  node : Nat
  /-- R36. 16 bits. -/
  quota : Nat
  /-- R36. Group. -/
  group : Nat
  /-- R36. -/
  valid : Bool
  deriving DecidableEq, Repr, Inhabited

/-- A loaded domain (R33, R35). -/
structure Domain where
  /-- R33. Context that loaded it. -/
  ctx : Nat
  /-- R35. DOMAIN_TAG. -/
  tag : Nat
  /-- R35. GROUPS. -/
  groups : Nat
  /-- R35. SOURCES. -/
  sources : Nat
  /-- R35. SRC_RANK. -/
  srcRank : Nat
  /-- R35. DEMAND_ADDR. -/
  demand : Nat
  /-- R36. Expert table, E entries. -/
  experts : List Expert
  /-- R35. Bias values, E entries. -/
  bias : List (BitVec 32)
  /-- R38. Destination order: valid experts by NODE, then by expert ID. -/
  dest : List Nat
  deriving DecidableEq, Repr, Inhabited

/-- A quota-table entry (R31). -/
structure QEnt where
  /-- R31. 16 bits, 0. -/
  remain : Nat
  /-- R31. 16 bits, 0. -/
  used : Nat
  deriving DecidableEq, Repr, Inhabited

/-- A domain slot of the RQS with its quota table (R31). -/
structure RSlot where
  /-- R31, R81, 02. None: RQS_SLOT_DESC.VALID is 0. -/
  dom : Option Domain
  /-- R31, 02. 16,384 entries, 0. -/
  quota : Tab QEnt
  /-- R31, R73, 02. Checkpoint of the quota table, 0. -/
  ckpt : Tab QEnt
  deriving DecidableEq, Repr, Inhabited

/-- A candidate of a token: expert, score and key (R31, R53). -/
structure Cand where
  /-- R53. Expert. -/
  e : Nat
  /-- R53. Score s, FP32. -/
  s : BitVec 32
  /-- R53. Key, FP32. -/
  key : BitVec 32
  deriving DecidableEq, Repr, Inhabited

/-- The part of a ROUTE command on one cluster's RTE. -/
structure RClu where
  /-- R44. Cluster. -/
  cluster : Nat
  /-- R44. First token of the share. -/
  first : Nat
  /-- R44. Tokens of the share. -/
  count : Nat
  /-- R78. 1 scoring, 2 awaiting grant, 6 lists written. -/
  stage : Nat
  /-- R31, R46. Logits of the row being taken: the first of the three rows of the row buffer. -/
  row : List (BitVec 32)
  /-- R31. The two rows before it, newest first: the rest of the row buffer. -/
  older : List (List (BitVec 32))
  /-- R31, R61. Sort histogram: placed choices by destination position. -/
  hist : Tab Nat
  /-- R31. Candidates of the tokens scored so far (candidate store). -/
  toks : List (List Cand)
  /-- R63. Handle of the dispatch-list buffer. -/
  listH : Nat
  /-- R63. Handle of the saved-index buffer. -/
  savedH : Nat
  /-- R48. When it began to expect lane entries. -/
  lastAt : Nat
  deriving DecidableEq, Repr, Inhabited

/-- Counts of one expert in a ROUTE command (R68). -/
structure RCnt where
  /-- R68. -/
  used : Nat
  /-- R68. -/
  demand : Nat
  /-- R68. -/
  spillIn : Nat
  /-- R68. -/
  overQ : Nat
  deriving DecidableEq, Repr, Inhabited

/-- A running ROUTE command (R42). -/
structure RouteRun where
  /-- R42. Queue of the command. -/
  queue : Nat
  /-- R42. Index of the command. -/
  index : BitVec 32
  /-- R42. Its CMD_TAG. -/
  tag : BitVec 32
  /-- R33. Its context. -/
  ctx : Nat
  /-- R71. Job of its context. -/
  job : Nat
  /-- R42. Operand block. -/
  op : BitVec 512
  /-- R33. Domain slot. -/
  slot : Nat
  /-- R44. Its clusters in ascending order. -/
  clus : List RClu
  /-- R56. How many clusters have charged: the position of the grant. -/
  grant : Nat
  /-- R68. Counts per expert. -/
  cnts : Tab RCnt
  /-- R63. Handle of the expert count record. -/
  countH : Nat
  /-- R69. -/
  placed : Nat
  /-- R69. -/
  spilled : Nat
  /-- R69. -/
  dropped : Nat
  /-- R69. -/
  empty : Nat
  /-- R69. Demand notices sent. -/
  notices : Nat
  deriving DecidableEq, Repr, Inhabited

/-! ## Drovers and return windows (03) -/

/-- A dispatch list and a saved-index record of one cluster, as the Drovers read them (R64 to R67). -/
structure DList where
  /-- R64. Cluster. -/
  cluster : Nat
  /-- R64. First token of the share. -/
  first : Nat
  /-- R64. Tokens of the share. -/
  count : Nat
  /-- R65. Segments: expert, first slot, entries. -/
  segs : List (Nat × Nat × List (BitVec 32))
  /-- R67. Saved-index entries. -/
  saved : List (BitVec 64)
  deriving DecidableEq, Repr, Inhabited

/-- A return window (R106). -/
structure Win where
  /-- R106, 03. 8 bits, 0. -/
  epoch : Nat
  /-- R106, 03. 1 bit, 0. ARMED. -/
  armed : Bool
  /-- R106. Arming command's tag. -/
  tag : BitVec 32
  /-- R122. Domain. -/
  domTag : Nat
  /-- R106. -/
  dseq : Nat
  /-- R106. -/
  retAddr : Nat
  /-- R106. -/
  retBytes : Nat
  /-- R106. -/
  arrAddr : Nat
  /-- R106. -/
  retCtr : Nat
  /-- R106. Address of the route result record. -/
  resAddr : Nat
  /-- R69. Clusters of the route record. -/
  mask : BitVec 64
  /-- R69. -/
  tokens : Nat
  /-- R69. -/
  k : Nat
  /-- R106. EXPERTS of the domain: the arrival array has that many entries. -/
  experts : Nat
  /-- R106. Arrival records expected. -/
  expect : Nat
  /-- R106. Handles on which it holds one reference each. -/
  refs : List Nat
  /-- R108. Experts whose arrival record has been accepted, in order of arrival. -/
  marks : List Nat
  /-- R112. The COMBINE that runs. -/
  comb : Option (Nat × BitVec 32)
  /-- R122. Mode of the running COMBINE. -/
  mode : Bool
  /-- R112. Lists and records that the COMBINE works from. -/
  lists : List DList
  /-- R113. Tokens combined so far. -/
  done : List Nat
  /-- R115. Arrivals still to be applied, in order. -/
  apply : List Nat
  /-- R116. When the last arrival record was accepted (or the COMBINE started). -/
  lastAt : Nat
  deriving DecidableEq, Repr, Inhabited

/-- One Drover's part of a DISPATCH or RETURN. -/
structure DClu where
  /-- R91. Cluster. -/
  cluster : Nat
  /-- R92. Next block (position in the destination order, or number of the pair). -/
  next : Nat
  /-- R91. One past its last block. -/
  last : Nat
  /-- R92. Packets of the current block issued. -/
  pos : Nat
  /-- R92. Packets of later blocks issued while the relay runs, by position. -/
  ahead : Tab Nat
  /-- R96. Blocks of it already counted as lost. -/
  lost : List Nat
  /-- R103. The header record of the block a RETURN stands at, as read; empty before. -/
  hdr : List (BitVec 8)
  deriving DecidableEq, Repr, Inhabited

/-- A running DISPATCH or RETURN. -/
structure DRun where
  /-- R87. Queue. -/
  queue : Nat
  /-- R87. Index. -/
  index : BitVec 32
  /-- R87. CMD_TAG. -/
  tag : BitVec 32
  /-- R119. 1 DISPATCH, 2 RETURN. -/
  kind : Nat
  /-- R90. Context. -/
  ctx : Nat
  /-- R90. Job. -/
  job : Nat
  /-- R87, R102. Operand block. -/
  op : BitVec 512
  /-- R98. Domain slot. -/
  slot : Nat
  /-- R92. EPOCH of its packets (DISPATCH). -/
  epoch : Nat
  /-- R86. K of the route record. -/
  k : Nat
  /-- R90. The ROUTE that it follows. -/
  follow : Option (Nat × BitVec 32)
  /-- R69. LISTS_VALID of its record. -/
  valid : Bool
  /-- R92. Lists taken so far, ascending cluster. -/
  lists : List DList
  /-- R93. USED by expert, from the expert count record, once it is known. -/
  used : Option (List Nat)
  /-- R91. Its Drovers. -/
  clus : List DClu
  /-- R97. It issues no more packets: it ends once those issued have completed. -/
  over_ : Bool
  deriving DecidableEq, Repr, Inhabited

/-- Routing and Drovers. -/
structure RdSt where
  /-- R31, 02. Four domain slots. -/
  slots : Tab RSlot
  /-- R75, 02. ROUTE commands that run, oldest first. -/
  routes : List RouteRun
  /-- R106, 03. 64 return windows. -/
  wins : Tab Win
  /-- R91, 03. DISPATCH and RETURN commands that run, oldest first. -/
  drovers : List DRun
  /-- R90, 03. ROUTE commands that have ended, by context and tag, with whether they ended OK; none. -/
  rtags : List (Nat × BitVec 32 × Bool)
  deriving DecidableEq, Repr, Inhabited

/-! ## Caind fabric (10) -/

/-- A packet at a port's egress. -/
structure EPkt where
  /-- R365. Header bits 255:0. -/
  hdr : BitVec 256
  /-- R365. Payload. -/
  data : List (BitVec 8)
  /-- R380. Link channel. -/
  ch : Nat
  /-- R381. LC level. -/
  lc : Bool
  /-- R379, R384. Port it came in by, when it is forwarded through this part: it fills that port's VC2 buffer until it leaves. -/
  from_ : Option Nat
  deriving DecidableEq, Repr, Inhabited

/-- The packet is forwarded through this part (R384). -/
def EPkt.fwd (k : EPkt) : Bool := k.from_.isSome

/-- A Caind port (R364, R396). -/
structure Port where
  /-- R364, 10. DISABLED. -/
  st : LinkSt
  /-- R396, 10. 8 bits, 0. -/
  lanes : Nat
  /-- R396, 10. Partner: true = module; false. -/
  kind : Bool
  /-- R357, 10. 4 bits, 0. -/
  plane : Nat
  /-- R396, 10. 18 bits, 0. -/
  node : Nat
  /-- R380, 10. Credits held per channel; none (0). -/
  tx : List Nat
  /-- R396, 10. Training step of the last failure; 0. -/
  step : Nat
  /-- R364, 10. Failed attempts in a row; 0. -/
  attempts : Nat
  /-- R363. Next frame sequence number to send; 0. -/
  txSeq : Nat
  /-- R363. Next frame sequence number expected; 0. -/
  rxSeq : Nat
  /-- R363. A discarded frame's replay is awaited. -/
  rxWait : Bool
  /-- R363. Frames sent and not link-acknowledged, oldest first: sequence number and packet. -/
  replay : List (Nat × EPkt)
  /-- R363. Replays in a row of the oldest frame; 0. -/
  replays : Nat
  /-- R379. Packets queued and not yet sent, oldest first. -/
  queue : List EPkt
  /-- R381, 10. Bit, 0 (log 153). VC3's turn among the packets not at the LC level. -/
  turn : Bool
  /-- R381, 10. Bit, 0 (log 153). VC3's turn among the packets at the LC level. -/
  turnLc : Bool
  deriving DecidableEq, Repr, Inhabited

/-- A packet of a collective, as its sender keeps it until it completes (R409 to R411, R426). -/
structure CPkt where
  /-- R412. COLL_SEQ of the collective. -/
  seq : Nat
  /-- Phase: 0 copy (gather, all-to-all, ROOT), 1 contribution (phase 1 or A), 2 result (phase 2, relay), 3 B out, 4 B back, 5 C,
  6 control entry, 7 re-fetch. -/
  ph : Nat
  /-- R408. Chunk. -/
  c : Nat
  /-- Rank of the member it goes to. -/
  to_ : Nat
  /-- Local source address. -/
  src : Nat
  /-- Address at the member. -/
  dst : Nat
  /-- Bytes. -/
  len : Nat
  /-- Bytes that this member holds in no memory of its own: partials of phase B, results for other blocks (R409, R410). -/
  data : List (BitVec 8)
  /-- R426. Tries so far. -/
  tries : Nat
  deriving DecidableEq, Repr, Inhabited

/-- Who holds a transaction tag (R377). -/
inductive TagBy where
  | copy (q : Nat) (i : BitVec 32)                                  -- a COPY
  | drover (c : Nat) (q : Nat) (i : BitVec 32) (block : Nat)        -- a Drover's block
  | signal (q : Nat) (i : BitVec 32)                                -- a remote signal
  | notice (c : Nat) (tag : BitVec 32)                              -- a demand notice of cluster c, of the ROUTE of a CMD_TAG
  | unit (q : Nat) (i : BitVec 32)                                  -- a MAILBOX command's post or buffer operation
  | coll (s : Nat) (p : CPkt)                                       -- a collective's packet
  | mgmt                                                            -- a management message
  deriving DecidableEq, Repr

/-- A transaction tag in use (R377, R382). -/
structure Tag where
  /-- R377. Holder. -/
  by_ : TagBy
  /-- R365. Destination node. -/
  node : Nat
  /-- R365. Job. -/
  job : Nat
  /-- R375. Order of issue. -/
  order : Nat
  /-- R376. The flagged packet is held: header, payload, level. -/
  held : Option EPkt
  /-- R388. Port it left by. -/
  port : Option Nat
  /-- R378. When it was taken. -/
  since : Nat
  /-- R382. For a READ: where the bytes go and how many. -/
  read : Option (Nat × Nat)
  /-- R366. CLASS of its packet. -/
  cls : Nat
  /-- R480, R484. LINK generation of its packet: context and generation. -/
  kgen : Option (Nat × Bool)
  deriving DecidableEq, Repr

/-- A request that waits for a tag (R377). -/
structure TxReq where
  /-- R377. Holder to be. -/
  by_ : TagBy
  /-- R365. Header without TAG, TGEN, SRC_NODE and CRC. -/
  hdr : BitVec 256
  /-- R365. Payload. -/
  data : List (BitVec 8)
  /-- R381. LC level. -/
  lc : Bool
  /-- R382. READ: return address and length. -/
  read : Option (Nat × Nat)
  deriving DecidableEq, Repr

/-- An admission-table entry (R386). -/
structure Adm where
  /-- R386, 10. 0 FREE, 1 ADMITTED, 2 DRAINING; 0. -/
  st : Nat
  /-- R386, 10. 4 bits, 0. -/
  gen : Nat
  /-- R386, 10. 4 bits, 0. -/
  next : Nat
  deriving DecidableEq, Repr, Inhabited

/-- The acknowledgement entries of one source node and job (R372). -/
structure AckPair where
  /-- R372. -/
  node : Nat
  /-- R372. -/
  job : Nat
  /-- R372. 4-B entries in order. -/
  entries : List (BitVec 32)
  deriving DecidableEq, Repr, Inhabited

/-- The fabric of the die. -/
structure FabSt where
  /-- R364, 10. 16 ports. -/
  ports : Tab Port
  /-- R377, 10. 16,384 tags, free. -/
  tags : Tab (Option Tag)
  /-- R377, 10. TGEN of each tag, 0. -/
  gens : Tab Bool
  /-- R375. Packets handed to egress so far; 0. -/
  order : Nat
  /-- R377. Requests that wait for a tag, in order. -/
  wait : List TxReq
  /-- R386, 10. 4,096 entries, FREE with NEXT 0. -/
  adm : Tab Adm
  /-- R389, 10. 16 bits per node, clear. -/
  reach : Tab Nat
  /-- R372, 10. At most 512 pairs, oldest first; none. -/
  acks : List AckPair
  /-- R294, R370, R379. Packets held for a MOVING tile: port, link channel, header, payload, in order; none. -/
  held : List (Nat × Nat × BitVec 256 × List (BitVec 8))
  deriving DecidableEq, Repr

/-! ## Collectives (11) -/

/-- A membership slot (R405, R434). -/
structure MSlot where
  /-- R405, 11. 1 bit, 0. -/
  valid : Bool
  /-- R405, 11. 8 bits, 0. -/
  ctx : Nat
  /-- R405, 11. 46 bits, 0. -/
  addr : Nat
  /-- R405, 11. 32 bits, 0. -/
  version : Nat
  /-- R405, 11. 19 bits, 0. -/
  n : Nat
  /-- R405, 11. 18 bits, 0. -/
  rank : Nat
  deriving DecidableEq, Repr, Inhabited

/-- A reduction of an owner: its accumulator and what it has taken (R421, R422). -/
structure CAcc where
  /-- R409, R410. 1 phase 1 or A, 3 phase B. -/
  ph : Nat
  /-- R408. Chunk. -/
  c : Nat
  /-- R421. The owner's own contribution is in it. -/
  own : Bool
  /-- R421. Accumulated values (FP32 or INT32), one per element. -/
  vals : List (BitVec 32)
  /-- R421. Senders whose contribution has been added. -/
  took : List Nat
  /-- R421. Senders whose contribution has landed and waits to be added, in landing order. -/
  wait : List Nat
  deriving DecidableEq, Repr, Inhabited

/-- A collective slot (R412, R434). -/
structure CSlot where
  /-- R434, 11. 0 FREE, 1 RUNNING, 2 DONE1 sent, 3 DONE2 sent, 4 FAILING; 0. -/
  st : Nat
  /-- R412, 11. COLL_SEQ of the last collective of the slot; none. -/
  last : Option Nat
  /-- R434, 11. Queue and index of the running collective. -/
  cmd : Option (Nat × BitVec 32)
  /-- R434, 11. 32 bits, 0. CMD_TAG. -/
  tag : BitVec 32
  /-- R434, 11. 9 bits, 0. QUEUE. -/
  queue : Nat
  /-- R400. Operand block. -/
  op : BitVec 512
  /-- R402. Context. -/
  ctx : Nat
  /-- R412. Job. -/
  job : Nat
  /-- R381. Level. -/
  lc : Bool
  /-- R406. N. -/
  n : Nat
  /-- R406. Rank. -/
  rank : Nat
  /-- R406. Address of the membership table. -/
  table : Nat
  /-- R419. This member's valid counts in bytes, capped; by peer rank. -/
  counts : List Nat
  /-- R401. Address of the count vector. -/
  vecA : Nat
  /-- R401. SEED. -/
  seed : Nat
  /-- R401. TENSOR. -/
  tensor : Nat
  /-- R413. Tags reserved. -/
  tags : Nat
  /-- R415. THROUGH written to the peers. -/
  through : Nat
  /-- R415. Chunks whose copies and contributions have been handed to `todo`. -/
  chunk : Nat
  /-- R415. Copies and contributions still to be issued, in order. -/
  todo : List CPkt
  /-- R415. Result packets ready, in order. -/
  ready : List CPkt
  /-- R426. Packets to send again. -/
  again : List CPkt
  /-- R414. Current-seq entry of each peer found so far, by peer index. -/
  ents : Tab Nat
  /-- R419. Counts still to be written to the count vector: rank and COUNT. -/
  vec : List (Nat × Nat)
  /-- R416, R426. Ranges of DST written so far, as offsets [start, end). -/
  dst : List (Nat × Nat)
  /-- R409, R426. Ranges of the landing space that hold contributions not yet reduced, as offsets [start, end). -/
  land : List (Nat × Nat)
  /-- R421, R422. Reductions in progress. -/
  accs : List CAcc
  /-- R415. Reductions finished (phase 1, 3) and segments passed on (phase 2, 5): phase, chunk, part. -/
  fin : List (Nat × Nat × Nat)
  /-- R415. Leading chunks whose reductions have all finished here. -/
  lead : Nat
  /-- R416. Chunks signalled. -/
  signalled : Nat
  /-- R430. When it last accepted a packet or control entry. -/
  lastAt : Nat
  /-- R429. Status of the failure. -/
  fail : Option Status
  /-- R245. ERR_INFO1 of the failure. -/
  info : Nat
  /-- R429. ABORT has been written to the peers. -/
  aborted : Bool
  deriving DecidableEq, Repr, Inhabited

/-- The collective engines. -/
structure ColSt where
  /-- R405, 11. 8 membership slots. -/
  mslots : Tab MSlot
  /-- R412, 11. 64 collective slots. -/
  slots : Tab CSlot
  deriving DecidableEq, Repr, Inhabited

/-! ## The whole block -/

/-- Every piece of state the spec gives the part, in groups. -/
structure Chip where
  /-- What no reset clears (R514). -/
  fz : Fz
  /-- Register storage by page × 4,096 + offset; an unlisted register holds its Reset column (R9, R549 to R559). -/
  regs : Tab (BitVec 64)
  /-- Time. -/
  time : TimeSt
  /-- Power and reset. -/
  pwr : PwrSt
  /-- Faults. -/
  flt : FltSt
  /-- Security. -/
  sec : SecSt
  /-- Curator. -/
  cur : CurSt
  /-- Host link. -/
  hlt : HltSt
  /-- Front-end. -/
  fe : FeSt
  /-- Home unit, Shunters, memory. -/
  hom : HomSt
  /-- Pools and mailboxes. -/
  bm : BmSt
  /-- Cores, Vitrines. -/
  core : CoreSt
  /-- Routing and Drovers. -/
  rd : RdSt
  /-- Fabric. -/
  fab : FabSt
  /-- Collectives. -/
  col : ColSt
  deriving DecidableEq, Repr

/-- The block with the queue of commands that wait, first in, first out. -/
structure State where
  /-- The part. -/
  chip : Chip
  /-- Commands waiting, oldest first; the model's own queue of what is sent to the block. -/
  pending : List Instr
  deriving DecidableEq, Repr

/-- Why a run stops. -/
inductive Fault where
  /-- A sensor reading outside the absolute maximum ratings (R571: no behaviour of this manual is given there). Raised by
  SENSOR_SAMPLE. Safe: the model stops where the manual says nothing. -/
  | outsideRatings
  deriving DecidableEq, Repr

/-- Why a command has no meaning. -/
inductive Refusal where
  /-- The arm of the named command has no meaning yet. Safe: the model stops. -/
  | notModelled (mnemonic : String)
  deriving DecidableEq, Repr

/-! ## Reset -/

/-- What no reset clears, as FACTORY programming and manufacture leave it: nothing blown, nothing fenced (R514, R533). -/
def Fz.reset : Fz :=
  { coreFuseA := 0, coreFuseB := 0, clFuseA := 0, clFuseB := 0, coreFence := 0, clFence := 0, floors := [0, 0, 0, 0, 0],
    flash := [], ledger := [], ledgerSeq := 0, xmssRecs := [], xmssNext := 0, xmssLimit := 0 }

def TimeSt.reset : TimeSt :=
  { ns := 0, tb := 0, frac := 0, lastPulse := 0, snapAt := none, tbpIn := false, tbpOutCount := 0,
    resetL := true, resetLLow := 0, draws := 0, boots := 0 }

/-- No supply yet: OFF (R511), every cluster gated (PWR_GATED), point 7. -/
def PwrSt.reset : PwrSt :=
  { aux12 := false, main48 := false, st := .off, rails := false, boot := none, booted := false, toLog := [], point := 7,
    thermCap := 0, lastDvfs := 0, lastTherm := 0, lowSince := none, loads := [], amps := [], energyFrac := 0, groups := 0,
    shedSince := none, aclkOn := false, aclkLock := 0, fclkOn := false, droopUntil := 0, gated := BitVec.allOnes 64, allGatedSince := none,
    wakeQ := [], waking := [], wakeStarts := [], unitResets := [], standbyAt := 0, tap := .idcode, tapDr := 0x14948A5B }

def FltSt.reset : FltSt := { placed := [], due := [], evac := [], fuseQ := [], dieAt := none, kicks := [] }

def SecSt.reset : SecSt :=
  { keys := [], kem := none, nonce := List.replicate 32 0, req := none, pending := 0, romStop := false, meas := [], vers := [] }

def CurSt.reset : CurSt :=
  { up := false, sensors := [], health := 0, buf := [], lost := 0, i3cResp := none, dynAddr := none, ibiEn := false,
    ibiDue := false, i3cOut := [],
    fw := { st := 0, comp := 0, addr := 0, len := 0, progress := 0, recovery := false, nextOff := 0, header := [] }, recBuf := [], frameQ := [] }

def HltSt.reset : HltSt :=
  { st := .disabled, lanes := 0, partner := (0, 0), train := (0, 0), out := [], htags := [], rx := [], held := [],
    frames := { txSeq := 0, rxSeq := 0, rxWait := false, replays := 0 }, since := 0 }

def FeSt.reset : FeSt :=
  { queues := [], ctrs := [], ctxs := [], swap := none, cpx := none, cpxUp := false, cpxIrqs := [], winStart := 0, issueSeq := 0,
    wrec := [], qwrec := [], fresh := 0 }

def HomSt.reset : HomSt :=
  { tiles := [], slots := [], lp := [], sram := [], init := true, shus := [], tts := [], dbinds := [], order := 0,
    imgLocks := [], cache := [] }

def BmSt.reset : BmSt := { pools := [], mbxs := [] }

def CoreSt.reset : CoreSt := { cores := [], lmem := [], imem := [], tbl := [], vits := [] }

def RdSt.reset : RdSt := { slots := [], routes := [], wins := [], drovers := [], rtags := [] }

def FabSt.reset : FabSt :=
  { ports := [], tags := [], gens := [], order := 0, wait := [], adm := [], reach := [], acks := [], held := [] }

def ColSt.reset : ColSt := { mslots := [], slots := [] }

/-- The part before any supply. -/
def Chip.off : Chip :=
  { fz := Fz.reset, regs := [], time := TimeSt.reset, pwr := PwrSt.reset, flt := FltSt.reset, sec := SecSt.reset,
    cur := CurSt.reset, hlt := HltSt.reset, fe := FeSt.reset, hom := HomSt.reset, bm := BmSt.reset, core := CoreSt.reset,
    rd := RdSt.reset, fab := FabSt.reset, col := ColSt.reset }

/-- Registers that a COLD boot leaves off their Reset column (R513, R518, R461, R438, R556): FE_CTRL.ENABLE, PWR_LAST_RESET,
CUR_ATTN.RESET, and HLT_LINK raised as Halter training starts. -/
def bootRegs : Tab (BitVec 64) :=
  [(0x200040, 1), (0x200220, 0x2000), (0x2002C0, 269), (0x300008, 1), (0xE00200, 64), (0x1100230, 1)]

/-- The part as a COLD reset and its boot leave it (R513 to R518): READY is high, every cluster is gated, the home table is
initial, the Halter link trains. -/
def Chip.reset : Chip :=
  { Chip.off with
    regs := bootRegs,
    time := { TimeSt.reset with boots := 1 },
    pwr := { PwrSt.reset with aux12 := true, main48 := true, st := .active, rails := true, booted := true, groups := 1,
                              fclkOn := true, allGatedSince := some 0 },
    cur := { CurSt.reset with up := true },
    hlt := { HltSt.reset with st := .training },
    fe := { FeSt.reset with cpxUp := true },
    hom := { HomSt.reset with init := false, shus := (List.range 16).map (fun s => (s, { (default : Shu) with trained := true })) } }

/-- The block right after a COLD reset and its boot: no command waiting. -/
def State.reset : State := { chip := Chip.reset, pending := [] }

end Sys2Proof.Machine
end

