-- ==== Sys2Proof/Machine/Ops.lean ====
section
/-!
DEFINITION. Operations that every family shares: registers and their live counters, error registers and their routing
(R525 to R527), interrupts (R556), CUR_ATTN, the Ledger's buffer (R449), fence and gating predicates, free values.
-/

namespace Sys2Proof.Machine

/-! ## Pages (R548) -/

/-- Page indices of the blocks of one page. -/
def pgIRQ : Nat := 0x200
def pgFE : Nat := 0x300
def pgCPX : Nat := 0x500
def pgRQS : Nat := 0x600
def pgDWT : Nat := 0x700
def pgHOM : Nat := 0x800
def pgSHU (i : Nat) : Nat := 0x900 + i
def pgCFB : Nat := 0xA00
def pgCPT (p : Nat) : Nat := 0xB00 + p
def pgCOL : Nat := 0xC00
def pgHLT : Nat := 0xD00
def pgCUR : Nat := 0xE00
def pgTBS : Nat := 0xF00
def pgSEC : Nat := 0x1000
def pgPWR : Nat := 0x1100
def pgFLT : Nat := 0x1200
def pgRTE (c : Nat) : Nat := 0x2000 + c
def pgDRV (c : Nat) : Nat := 0x2100 + c
def pgGNG (c : Nat) : Nat := 0x2200 + c
def pgCNT (c : Nat) : Nat := 0x2300 + c
def pgVIT (c : Nat) : Nat := 0x2400 + c
def pgMBX (c : Nat) : Nat := 0x2500 + c
def pgBPM (c : Nat) : Nat := 0x2600 + c
def pgCORE (n : Nat) : Nat := 0x3000 + n
def pgSIU (n : Nat) : Nat := 0x3200 + n

/-! ## Registers -/

/-- The stored value of a register; its Reset column when never written since its page was cleared (R9). -/
def Chip.reg (c : Chip) (page off : Nat) : Nat :=
  (Tab.get (BitVec.ofNat 64 (regReset page off)) c.regs (page * 4096 + off)).toNat

/-- Store a register's value. -/
def Chip.setReg (c : Chip) (page off v : Nat) : Chip :=
  { c with regs := Tab.put (BitVec.ofNat 64 (regReset page off)) c.regs (page * 4096 + off) (BitVec.ofNat 64 v) }

/-- A field of a stored register. -/
def Chip.fld (c : Chip) (page off hi lo : Nat) : Nat := bits (c.reg page off) hi lo

/-- Store a field of a register. -/
def Chip.setFld (c : Chip) (page off hi lo v : Nat) : Chip := c.setReg page off (setBits (c.reg page off) hi lo v)

/-- Clear every register of a page to its Reset column (R514). -/
def Chip.clearPage (c : Chip) (page : Nat) : Chip :=
  { c with regs := c.regs.filter (fun e => decide (e.1 / 4096 ≠ page)) }

/-- Clear the pages that a predicate names. -/
def Chip.clearPages (c : Chip) (p : Nat → Bool) : Chip := { c with regs := c.regs.filter (fun e => !(p (e.1 / 4096))) }

/-! ## Fences and gating -/

/-- Core n is fenced (R528). -/
def Chip.coreFenced (c : Chip) (n : Nat) : Bool := c.fz.coreFence.getLsbD n
/-- Cluster k is fenced (R532). -/
def Chip.clFenced (c : Chip) (k : Nat) : Bool := c.fz.clFence.getLsbD k
/-- Cluster k is gated (R507). -/
def Chip.clGated (c : Chip) (k : Nat) : Bool := c.pwr.gated.getLsbD k

/-- Cluster that a page belongs to, for the cluster and core classes. -/
def clusterOfPage (page : Nat) : Option Nat :=
  if 0x2000 ≤ page ∧ page < 0x2700 then some (page % 256)
  else if 0x3000 ≤ page ∧ page < 0x3200 then some ((page - 0x3000) / 8)
  else if 0x3200 ≤ page ∧ page < 0x3400 then some ((page - 0x3200) / 8)
  else none

/-- The counters of a page count: a gated or fenced cluster's do not (R455, R507). -/
def Chip.counts (c : Chip) (page : Nat) : Bool :=
  match clusterOfPage page with
  | some k => !(c.clGated k) && !(c.clFenced k)
  | none => true

/-- Live counter i of a page gains n, modulo 2⁶⁴ (R549). -/
def Chip.count (c : Chip) (page i n : Nat) : Chip :=
  if n = 0 then c
  else if c.counts page then c.setReg page (0x40 + 8 * i) (c.reg page (0x40 + 8 * i) + n) else c

/-! ## Ledger buffer (R448, R449) -/

/-- The next free value of the given width, and the state whose plain counter has advanced. -/
def Chip.freeVal (c : Chip) (w : Nat) : Nat × Chip :=
  ((Config.free c.fe.fresh).toNat % 2 ^ w, { c with fe.fresh := c.fe.fresh + 1 })

/-- A value that the spec states, or else a free one. -/
def Chip.orFree (c : Chip) (w : Nat) : Option Nat → Nat × Chip
  | some v => (v, c)
  | none => c.freeVal w

/-- The record of an event, as it waits in the buffer; SEQ is given when it is written. -/
def ledgerRec (c : Chip) (page kind code i0 i1 : Nat) : LedgerRec :=
  ⟨c.time.tb, 0, page, kind, Config.severity kind code % 4, code, BitVec.ofNat 32 i0, BitVec.ofNat 32 i1⟩

/-- An event for the Ledger: written to the buffer, lost when 4,096 records wait, only counted while LEDGER_EN is 0 (R449).
CODE, INFO0 and INFO1 are free where R448 does not give them (none; log 4). The answer is whether the event was lost. -/
def Chip.ledgerEv0 (c : Chip) (page kind : Nat) (code i0 i1 : Option Nat) : Chip × Bool :=
  if c.fld pgCUR 0x008 0 0 = 0 then (c.count pgCUR 5 1, false)
  else if c.cur.buf.length < 4096 then
    let (a, c) := c.orFree 8 code
    let (b, c) := c.orFree 32 i0
    let (d, c) := c.orFree 32 i1
    ({ c with cur.buf := c.cur.buf ++ [ledgerRec c page kind a b d] }, false)
  else (({ c with cur.lost := c.cur.lost + 1 }).count pgCUR 6 1, true)

/-! ## Interrupts and CUR_ATTN (R556, R461) -/

/-- A link sends a frame or packet: an armed injection of that target is placed and disarmed, while INJ_EN is 1 (R538 to
R540). -/
def Chip.injLink (c : Chip) (page target : Nat) : Bool × Chip :=
  let v := c.reg page 0x018
  if c.fld pgFLT 0x008 0 0 = 1 ∧ bit v 31 ∧ bits v 23 20 = target then (true, (c.setReg page 0x018 (setBits v 31 31 0)).count pgFLT 7 1) else (false, c)

/-- A frame leaves a link: an armed fault of its link CRC or of its codeword is placed in it; the partner answers with a replay. -/
def Chip.injFrame (c : Chip) (page : Nat) : Chip := ((c.injLink page 0).2.injLink page 1).2

/-- A Halter packet leaves for the host (R439, R460). -/
def Chip.hltSend (c : Chip) (p : HPkt) : Chip :=
  let c := c.injFrame pgHLT
  (({ c with hlt.out := c.hlt.out ++ [p] }).count pgHLT 2 1).count pgHLT 3 (16 + p.data.length)

/-- Deliver a vector to the host: a packet when the Halter link is UP, else held, one per vector (R439, R556). -/
def Chip.irqHost (c : Chip) (v : Nat) : Chip :=
  if c.hlt.st = .up then
    let p : HPkt := ⟨3, 8, 0, 0, 0, toBytes 8 (v + (c.time.tb.toNat % 2 ^ 48) <<< 16)⟩
    ((c.hltSend p).count pgIRQ 1 1).count pgHLT 6 1
  else if c.hlt.held.any (fun h => h.1 = v) then c.count pgIRQ 4 1
  else ({ c with hlt.held := c.hlt.held ++ [(v, c.time.tb.toNat % 2 ^ 48)] }).count pgIRQ 4 1

/-- Deliver a vector to the CPX. -/
def Chip.irqCpx (c : Chip) (v : Nat) : Chip := ({ c with fe.cpxIrqs := c.fe.cpxIrqs ++ [v] }).count pgIRQ 2 1

/-- ATTN_L is driven low (R443). -/
def Chip.attnLow (c : Chip) : Bool := c.reg pgCUR 0x200 &&& c.reg pgCUR 0x204 ≠ 0

/-- Set a CUR_ATTN cause; an in-band interrupt is due when ATTN_L falls and ENEC has enabled it (R443, R451). The answer is
whether the cause was new and unmasked, so that interrupt CUR_ATTN is to be raised (R461). -/
def Chip.attnSet (c : Chip) (n : Nat) : Chip × Bool :=
  let was := c.attnLow
  let new := !(bit (c.reg pgCUR 0x200) n)
  let c := c.setReg pgCUR 0x200 (c.reg pgCUR 0x200 ||| 2 ^ n)
  let c := if !was && c.attnLow && c.cur.ibiEn then { c with cur.ibiDue := true } else c
  (c, new && bit (c.reg pgCUR 0x204) n)

/-- A raise of a vector without the CUR_ATTN that a held delivery sets (R556). The answer says whether a delivery was held.
While the main rails are off the IRQ page has no power and takes nothing (R495). -/
def Chip.raise0 (c : Chip) (v : Nat) : Chip × Bool :=
  if ¬ c.pwr.rails then (c, false) else
  let j := v / 64
  let k := v % 64
  let c := c.count pgIRQ 0 1
  let c := c.setReg pgIRQ 0x2C0 ((c.time.tb.toNat % 2 ^ 48) <<< 16 + v)
  if bit (c.reg pgIRQ (0x200 + 8 * j)) k then (c.count pgIRQ 3 1, false)
  else
    let c := c.setReg pgIRQ (0x200 + 8 * j) (c.reg pgIRQ (0x200 + 8 * j) ||| 2 ^ k)
    let host := bit (c.reg pgIRQ (0x240 + 8 * j)) k
    let held := host && !(c.hlt.st = .up)
    let c := if host then c.irqHost v else c
    let c := if bit (c.reg pgIRQ (0x280 + 8 * j)) k then c.irqCpx v else c
    (c, held)

/-- Set a CUR_ATTN cause and raise interrupt CUR_ATTN where it is new and unmasked; its own held delivery sets HOST_IRQ. -/
def Chip.attn (c : Chip) (n : Nat) : Chip :=
  let (c, hit) := c.attnSet n
  if hit then
    let (c, held) := c.raise0 272
    if held then (c.attnSet 3).1 else c
  else c

/-- Raise an interrupt vector (R556). -/
def Chip.raise (c : Chip) (v : Nat) : Chip :=
  let (c, held) := c.raise0 v
  if held then c.attn 3 else c

/-- Raise BLK_ERR for a page: IRQ_BLKSRC names the page of the first raise and counts the raises (R557). -/
def Chip.raiseBlk (c : Chip) (page : Nat) : Chip :=
  let first := !(bit (c.reg pgIRQ 0x220) 10)
  let n := c.fld pgIRQ 0x2C8 15 0
  let c := if first then c.setReg pgIRQ 0x2C8 (page <<< 16 + 1)
    else c.setFld pgIRQ 0x2C8 15 0 (min 65535 (n + 1))
  c.raise 266

/-! ## Error registers (R525 to R527) -/

/-- CUR_ERR_STAT bit 4 is set, captured and routed; R461 gives its ERR_INFO0 no content (a free value, log 7), and its own event
finds the buffer full. -/
def Chip.lossErr (c : Chip) : Chip :=
  if bit (c.reg pgCUR 0x014) 4 then c
  else
    let (v, c) := c.freeVal 32
    let clear := c.reg pgCUR 0x010 = 0
    let c := c.setReg pgCUR 0x010 (c.reg pgCUR 0x010 ||| 16)
    let c := if clear then (c.setReg pgCUR 0x020 v).setReg pgCUR 0x024 0 else c
    let c := if bit (c.reg pgCUR 0x01C) 20 then c.raiseBlk pgCUR else c
    if bit (c.reg pgCUR 0x01C) 4 then ({ c with cur.lost := c.cur.lost + 1 }).count pgCUR 6 1 else c

/-- An event for the Ledger; a lost one sets LEDGER_LOSS in CUR_ERR_STAT and CUR_ATTN (R449). -/
def Chip.ledgerEv (c : Chip) (page kind : Nat) (code i0 i1 : Option Nat) : Chip :=
  let (c, lost) := c.ledgerEv0 page kind code i0 i1
  if lost then c.lossErr.attn 2 else c

/-- An error of ERR_STAT bit n of a page: masked (R526), captured when every bit was clear (R525), routed (R527). -/
def Chip.err (c : Chip) (page n i0 i1 : Nat) : Chip :=
  if bit (c.reg page 0x014) n then c
  else
    let clear := c.reg page 0x010 = 0
    let c := c.setReg page 0x010 (c.reg page 0x010 ||| 2 ^ n)
    let c := if clear then (c.setReg page 0x020 (i0 % 2 ^ 32)).setReg page 0x024 (i1 % 2 ^ 32) else c
    let c := if bit (c.reg page 0x01C) (16 + n) then c.raiseBlk page else c
    if bit (c.reg page 0x01C) n then c.ledgerEv page 0 (some n) (some i0) (some i1) else c

/-- An error of a page whose rule gives ERR_INFO0 no content for it: that value is free (log 7). -/
def Chip.errFree (c : Chip) (page n i1 : Nat) : Chip :=
  let (v, c) := c.freeVal 32
  c.err page n v i1

/-- An error of a page whose rule gives neither ERR_INFO register a content for it: both values are free (log 7). -/
def Chip.errFree2 (c : Chip) (page n : Nat) : Chip :=
  let (v, c) := c.freeVal 32
  c.errFree page n v

/-- ERR_INFO0 and ERR_INFO1 of BAD_WRITE by block class, where the page's rule gives them (log 7). -/
def badWriteInfo (cls : Nat) : Option Nat × Option Nat :=
  match cls with
  | 0x01 | 0x02 | 0x08 | 0x09 | 0x0B | 0x11 => (some 0, some 0)
  | 0x03 => (some 0, some 0x1FF)
  | 0x05 | 0x06 | 0x07 | 0x0A | 0x26 => (none, none)
  | _ => (none, some 0)

/-- A register write that carries a reserved encoding or is refused (R11): ERR_STAT bit 7 of the page. -/
def Chip.badWrite (c : Chip) (page : Nat) : Chip :=
  let i := badWriteInfo (((blockOf page).map (fun b => b.1)).getD 0)
  let (a, c) := c.orFree 32 i.1
  let (b, c) := c.orFree 32 i.2
  c.err page 7 a b

/-- A reserved address of a page or of a region that a page decodes (R15, R584). -/
def Chip.badAddr (c : Chip) (page addr : Nat) (write : Bool) : Chip := c.err page 6 (addr % 2 ^ 32) (b2n write)

/-! ## Injected faults (R538 to R541) -/

/-- The counter that a page's corrected errors add to. -/
def ceCtr (page : Nat) : Nat :=
  match (blockOf page).map (fun b => b.1) with
  | some 0x02 => 5 | some 0x08 => 18 | some 0x09 => 13 | some 0x0A => 23 | some 0x0C => 19 | some 0x0E => 12 | some 0x0F => 5
  | some 0x10 => 12 | some 0x11 => 18 | some 0x12 => 10 | some 0x20 => 23 | some 0x21 => 18 | some 0x22 => 6
  | some 0x23 => 6 | some 0x24 => 9 | some 0x25 => 11 | some 0x26 => 11 | some 0x30 => 23 | some 0x32 => 20
  | _ => 15

/-- What an uncorrectable error of a page's storage leads to: (0, core), (1, cluster) or (2, 0) for a die-level error (R522). -/
def ueLevel (page : Nat) : Option (Nat × Nat) :=
  if 0x3000 ≤ page ∧ page < 0x3200 then some (0, page - 0x3000)
  else if 0x3200 ≤ page ∧ page < 0x3400 then some (0, page - 0x3200)
  else match (blockOf page).map (fun b => b.1) with
    | some 0x20 | some 0x21 | some 0x22 | some 0x23 | some 0x25 | some 0x26 => some (1, page % 256)
    | some 0x02 | some 0x12 | some 0x08 | some 0x0A | some 0x0C | some 0x0F => some (2, 0)
    | _ => none

/-- The structures with parity in place of SEC-DED: a core's DPU accumulators (R523). -/
def parityOnly (page target : Nat) : Bool := decide (0x3000 ≤ page) && decide (page < 0x3200) && decide (target = 3)

/-- The block writes a word at an address into a structure: an armed injection of it is placed there and disarmed, while INJ_EN
is 1 (R538, R539). -/
def Chip.injWA (c : Chip) (page target at_ : Nat) : Chip :=
  let v := c.reg page 0x018
  if c.fld pgFLT 0x008 0 0 = 1 ∧ bit v 31 ∧ bits v 23 20 = target then
    ({ (c.setReg page 0x018 (setBits v 31 31 0)) with
        flt.placed := c.flt.placed ++ [Placed.mk page target (bits v 30 29) (bits v 19 15) at_] }).count pgFLT 7 1
  else c

/-- The same for a structure whose words the model does not tell apart. -/
def Chip.injW (c : Chip) (page target : Nat) : Chip := c.injWA page target 0

/-- A placed fault is met by a read: corrected, or uncorrectable (the answer is then true), with the report of its page and the
fence or die-level error due (R523, R538). A corrected error reports e0 and e1, an uncorrectable one i0 and i1. Where parity alone
covers the word, one flipped bit is uncorrectable and an even number of them passes unseen (R524). -/
def Chip.faultFound (c : Chip) (p : Placed) (e0 e1 i0 i1 : Nat) : Chip × Bool :=
  if parityOnly p.page p.target ∧ (p.kind = 1 ∨ p.kind = 3) then (c, false)
  else if (p.kind = 0 ∨ p.kind = 3) ∧ ¬ parityOnly p.page p.target then ((c.count p.page (ceCtr p.page) 1).err p.page 0 e0 e1, false)
  else
    let isBpm := 0x2600 ≤ p.page ∧ p.page < 0x2640
    let c := if isBpm then c else c.err p.page 1 i0 i1
    match ueLevel p.page with
    | some (k, t) => ({ c with flt.due := c.flt.due ++ [Due.mk k t p.page 1] }, true)
    | none => (c, true)

/-- The block reads a structure whose words the model does not tell apart: a placed fault is found, once. -/
def Chip.injRW (c : Chip) (page target e0 e1 i0 i1 : Nat) : Chip × Bool :=
  match c.flt.placed.find? (fun p => decide (p.page = page) && decide (p.target = target)) with
  | none => (c, false)
  | some p => ({ c with flt.placed := c.flt.placed.erase p }).faultFound p e0 e1 i0 i1

/-- The placed faults of a structure whose words touch n bytes from lo. -/
def Chip.faultsIn (c : Chip) (page target lo n : Nat) : List Placed :=
  c.flt.placed.filter (fun p => decide (p.page = page) && decide (p.target = target) && decide (lo < p.at_ + 4) && decide (p.at_ < lo + n))

/-- Words of a structure that lie whole in n bytes from lo are written: no placed fault of them is left. -/
def Chip.rewritten (c : Chip) (page target lo n : Nat) : Chip :=
  { c with flt.placed := c.flt.placed.filter (fun p =>
      !(decide (p.page = page) && decide (p.target = target) && decide (lo ≤ p.at_) && decide (p.at_ + 4 ≤ lo + n))) }

/-- A structure read whose page gives ERR_INFO0 no content for CE and UE: it is free (log 7). -/
def Chip.injRF (c : Chip) (page target i1 : Nat) : Chip × Bool :=
  if c.flt.placed.any (fun p => decide (p.page = page) && decide (p.target = target)) then
    let (v, c) := c.freeVal 32
    c.injRW page target v i1 v i1
  else (c, false)

/-- A structure read whose corrected and uncorrectable errors report the same information. -/
def Chip.injR (c : Chip) (page target i0 i1 : Nat) : Chip × Bool := c.injRW page target i0 i1 i0 i1

/-- The LPDDR5X link of Shunter s carries data for the command of a tag (0 for none): an armed fault of its link ECC is placed in
it and corrected (R319, R327, R540). -/
def Chip.lpLink (c : Chip) (s tag : Nat) : Chip :=
  let (hit, c) := c.injLink (pgSHU s) 1
  if hit then (c.count (pgSHU s) 15 1).err (pgSHU s) 3 tag 0 else c

end Sys2Proof.Machine
end

