-- ==== Sys2Proof/Machine/Cmds.lean ====
section
/-!
DEFINITION. Access to queues, commands in flight, cores, tiles, slots, counters and contexts, each with the value that an
unlisted entry has after reset; how a command's work ends (R244, R543); Vitrine records (R230 to R233).
-/

namespace Sys2Proof.Machine

/-! ## Initial values -/

/-- A tile after the home-table rewrite (R290, R291): system tiles are PINNED with SYS 1. -/
def tileInit (n : Nat) : Tile :=
  if 25157632 ≤ n then ⟨.pinned, false, false, false, false, true, 0, 0⟩ else ⟨.resident, false, false, false, false, false, 0, 0⟩

/-- A sensor before its first sample: its domain is unpowered (R446). -/
def sensorInit : Sensor := ⟨0, 4⟩

/-- A comparator that holds false and no comparison (R198). -/
def cmpInit : Cmp := ⟨.const false, false⟩

/-- A core with nothing loaded (R198). -/
def coreInit : Core :=
  { st := 0, cmd := none, tag := 0, queue := 0, gang := false, job := 0, cyc := 0, declared := 0, loadAt := 0, starts := [], b := 0, i := 0,
    at_ := 0, on := false, entered := false, stk := [], last := 0, cs := List.replicate 8 0, csNext := [],
    ks := List.replicate 8 cmpInit, ksNext := [], qs := [], popped := [], pushed := [], arrive := [], results := [], ldes := [],
    stes := [], portDone := false, mtUntil := 0, veUntil := 0, siuUntil := 0, tileSiu := 0, siuOp := 0, scuAt := none,
    acc := [], hold := 0, red := [], lsum := none, conv := 0, convBase := 0, params := List.replicate 16 0,
    opnds := List.replicate 8 none, preload := none, bank := 0, faults := [], held := false, passed := false, stepping := false }

/-- A Vitrine after a clear. -/
def vitInit : Vit := ⟨[], 0, false, false, 0, List.replicate 64 0, [], 0⟩

/-! ## Accessors -/

def Chip.queueOf (c : Chip) (q : Nat) : Queue := Tab.get default c.fe.queues q
def Chip.setQueue (c : Chip) (q : Nat) (x : Queue) : Chip := { c with fe.queues := Tab.put default c.fe.queues q x }
def Chip.coreOf (c : Chip) (n : Nat) : Core := Tab.get coreInit c.core.cores n
def Chip.setCore (c : Chip) (n : Nat) (k : Core) : Chip := { c with core.cores := Tab.put coreInit c.core.cores n k }
def Chip.tileOf (c : Chip) (n : Nat) : Tile := Tab.get (tileInit n) c.hom.tiles n
def Chip.setTile (c : Chip) (n : Nat) (t : Tile) : Chip := { c with hom.tiles := Tab.put (tileInit n) c.hom.tiles n t }
def Chip.slotOf (c : Chip) (s : Nat) : Slot := Tab.get default c.hom.slots s
def Chip.setSlot (c : Chip) (s : Nat) (x : Slot) : Chip := { c with hom.slots := Tab.put default c.hom.slots s x }
def Chip.shuOf (c : Chip) (s : Nat) : Shu := Tab.get default c.hom.shus s
def Chip.setShu (c : Chip) (s : Nat) (x : Shu) : Chip := { c with hom.shus := Tab.put default c.hom.shus s x }
def Chip.ctrOf (c : Chip) (k : Nat) : Ctr := Tab.get default c.fe.ctrs k
def Chip.setCtr (c : Chip) (k : Nat) (x : Ctr) : Chip := { c with fe.ctrs := Tab.put default c.fe.ctrs k x }
def Chip.ctxOf (c : Chip) (x : Nat) : Option Ctx := Tab.get none c.fe.ctxs x
def Chip.setCtx (c : Chip) (x : Nat) (k : Option Ctx) : Chip := { c with fe.ctxs := Tab.put none c.fe.ctxs x k }
def Chip.vitOf (c : Chip) (k : Nat) : Vit := Tab.get vitInit c.core.vits k
def Chip.setVit (c : Chip) (k : Nat) (v : Vit) : Chip := { c with core.vits := Tab.put vitInit c.core.vits k v }
def Chip.sensorOf (c : Chip) (i : Nat) : Sensor := Tab.get sensorInit c.cur.sensors i
def Chip.setSensor (c : Chip) (i : Nat) (x : Sensor) : Chip := { c with cur.sensors := Tab.put sensorInit c.cur.sensors i x }
def Chip.keysOf (c : Chip) (x : Nat) : KeySet := Tab.get default c.sec.keys x
def Chip.setKeys (c : Chip) (x : Nat) (k : KeySet) : Chip := { c with sec.keys := Tab.put default c.sec.keys x k }
def Chip.poolOf (c : Chip) (k : Nat) : Pool := Tab.get default c.bm.pools k
def Chip.setPool (c : Chip) (k : Nat) (p : Pool) : Chip := { c with bm.pools := Tab.put default c.bm.pools k p }
def Chip.mbxOf (c : Chip) (b : Nat) : Mbx := Tab.get default c.bm.mbxs b
def Chip.setMbx (c : Chip) (b : Nat) (m : Mbx) : Chip := { c with bm.mbxs := Tab.put default c.bm.mbxs b m }

/-- This node's number (R359). -/
def Chip.node (c : Chip) : Nat := c.fld pgCFB 0x200 17 0

/-! ## Commands -/

/-- The page and offset of a queue's block (R281). -/
def cmdqPage (q : Nat) : Nat := 0x400 + q / 32
def cmdqOff (q r : Nat) : Nat := 0x200 + 0x40 * (q % 32) + r

/-- CMDQ_CFG fields of a queue (R281). -/
def Chip.qCtx (c : Chip) (q : Nat) : Nat := c.fld (cmdqPage q) (cmdqOff q 0x10) 63 56
def Chip.qClass (c : Chip) (q : Nat) : Nat := c.fld (cmdqPage q) (cmdqOff q 0x10) 55 54
def Chip.qLog2 (c : Chip) (q : Nat) : Nat := c.fld (cmdqPage q) (cmdqOff q 0x10) 53 49
def Chip.qShare (c : Chip) (q : Nat) : Nat := c.fld (cmdqPage q) (cmdqOff q 0x10) 48 41
def Chip.qBudget (c : Chip) (q : Nat) : Nat := c.fld (cmdqPage q) (cmdqOff q 0x10) 25 0

/-- The command of a queue at an index, when it has been read and has not completed. -/
def Chip.cmd? (c : Chip) (q : Nat) (i : BitVec 32) : Option Cmd := (c.queueOf q).cmds.find? (fun k => k.index = i)

/-- Replace a command. -/
def Chip.setCmd (c : Chip) (k : Cmd) : Chip :=
  let x := c.queueOf k.queue
  c.setQueue k.queue { x with cmds := x.cmds.map (fun y => if y.index = k.index then k else y) }

/-- Change a command where it exists. -/
def Chip.modCmd (c : Chip) (q : Nat) (i : BitVec 32) (f : Cmd → Cmd) : Chip :=
  match c.cmd? q i with
  | some k => c.setCmd (f k)
  | none => c

/-- Every command in every queue. -/
def Chip.allCmds (c : Chip) : List Cmd := c.fe.queues.flatMap (fun e => e.2.cmds)

/-- A command has issued and its work has not ended. -/
def Cmd.working (k : Cmd) : Bool :=
  match k.phase with
  | .waiting => false
  | .signalling => false
  | _ => true

/-- A command is in flight: issued and not completed (R243). -/
def Cmd.inFlight (k : Cmd) : Bool := k.went

/-- The precedence of statuses that end a command in one cycle (R543). -/
def Status.rank : Status → Nat
  | .malformed => 0 | .fenced => 1 | .poisoned => 2 | .key => 3 | .schedule => 4 | .epoch => 5 | .droppedStale => 6
  | .droppedEarly => 7 | .pathLost => 8 | .waitExpired => 9 | .aborted => 10 | .ok => 11

/-- Code of a status (R246). -/
def Status.code : Status → Nat
  | .ok => 0 | .schedule => 1 | .fenced => 2 | .pathLost => 3 | .poisoned => 4 | .waitExpired => 5 | .aborted => 6 | .key => 7
  | .malformed => 8 | .droppedEarly => 9 | .droppedStale => 10 | .epoch => 11

/-- Status of a code; codes 12 to 255 do not occur (R246). -/
def Status.ofCode (n : Nat) : Status :=
  match n with
  | 1 => .schedule | 2 => .fenced | 3 => .pathLost | 4 => .poisoned | 5 => .waitExpired | 6 => .aborted | 7 => .key
  | 8 => .malformed | 9 => .droppedEarly | 10 => .droppedStale | 11 => .epoch | _ => .ok

/-- A failed command with CONT 0 puts its queue into FAILED (R244). -/
def Chip.queueFail (c : Chip) (k : Cmd) : Chip :=
  if k.status ≠ .ok ∧ ¬ k.cont then c.setQueue k.queue { c.queueOf k.queue with failed := true } else c

/-- The status of a command is fixed (R244 stage 1, R245); one that has not issued signals under its queue's context (R252). -/
def Chip.fixStatus (c : Chip) (k : Cmd) (st : Status) (info : Nat) : Chip :=
  let k := { k with phase := .signalling, status := st, info := BitVec.ofNat 32 (if st = .ok then 0 else info), endAt := c.time.tb,
                    ctx := if k.went then k.ctx else c.qCtx k.queue }
  (c.setCmd k).queueFail k

/-- A working command's work ends and its status is fixed; a command whose status is fixed keeps it (R543). -/
def Chip.endWork (c : Chip) (q : Nat) (i : BitVec 32) (st : Status) (info : Nat) : Chip :=
  match c.cmd? q i with
  | some k => if k.working then c.fixStatus k st info else c
  | none => c

/-- ERR_INFO1 of the FE page for a command (R279). -/
def Cmd.feInfo (k : Cmd) : Nat := k.queue + (k.index.toNat % 65536) <<< 16

/-- An operand check of R251 fails at issue: DESC_FORM, and the command ends MALFORMED. -/
def Chip.malformed (c : Chip) (k : Cmd) : Chip :=
  (c.err pgFE 1 k.tag.toNat k.feInfo).endWork k.queue k.index .malformed k.feInfo

/-- A field of a command's operand block (R247). -/
def Cmd.f (k : Cmd) (hi lo : Nat) : Nat := bits k.op.toNat hi lo

/-- The command that a row names, when it is issued to its unit with this TYPE and operation code. -/
def Chip.issuedCmd (c : Chip) (q : Nat) (i : BitVec 32) (type op : Nat) : Option Cmd :=
  match c.cmd? q i with
  | some k => if k.type = type ∧ k.f 7 0 = op ∧ k.phase = .issued then some k else none
  | none => none

/-! ## Vitrine (R230 to R233) -/

/-- Write a record of 64 bytes into the buffer: RING overwrites the oldest, STOP stops at a full buffer (R230). -/
def Chip.vitStore (c : Chip) (k : Nat) (rec : List (BitVec 8)) : Chip :=
  let page := pgVIT k
  let v := c.vitOf k
  if v.stopped then c
  else if c.fld page 0x008 1 1 = 1 ∧ v.n ≥ 16384 then c.setVit k { v with stopped := true }
  else
    let r := (rec ++ List.replicate 64 0).take 64
    let wrap := v.n ≥ 16384
    let v' := { v with recs := Tab.put (List.replicate 64 0) v.recs v.wptr r, wptr := (v.wptr + 1) % 16384, n := v.n + 1,
                       wrapped := v.wrapped || wrap }
    let c := (((c.setVit k v').rewritten page 0 (64 * v.wptr) 64).injWA page 0 (64 * v.wptr)).count page 0 1
    if v.wptr = 16383 then c.count page 8 1 else c

/-- The buffer takes a record in each of n FCLK cycles from the capture FIFO, a LOST record ahead of the one it precedes (R233). -/
def Chip.vitDrain (c : Chip) (k : Nat) : Nat → Chip
  | 0 => c
  | n + 1 =>
    let v := c.vitOf k
    match v.fifo with
    | [] => c
    | e :: t =>
      if e.lost ≠ [] then ((c.setVit k { v with fifo := { e with lost := [] } :: t }).vitStore k e.lost).vitDrain k n
      else
        let d := (c.setVit k { v with fifo := t }).vitStore k e.bytes
        (if (d.vitOf k).n = v.n then d else d.count (pgVIT k) e.ctr 1).vitDrain k n

/-- FCLK cycles, at 1.65 GHz, up to a time in ns (R24). -/
def fclkAt (ns : Nat) : Nat := 33 * ns / 20

/-- ACLK in MHz at the point in force (R501). -/
def Chip.aclkMHz (c : Chip) : Nat := (3300 - 300 * c.pwr.point) / (if c.time.ns < c.pwr.droopUntil then 2 else 1)

/-- FCLK cycles that end within one cycle of a kernel (R24, R501). -/
def Chip.fclkIn (c : Chip) (cyc : Nat) : Nat :=
  let a := max 1 c.aclkMHz
  (cyc + 1) * 1650 / a - cyc * 1650 / a

/-- n FCLK cycles pass for every Vitrine that has records to take. -/
def Chip.vitsDrain (c : Chip) (n : Nat) : Chip :=
  if n = 0 then c else c.core.vits.foldl (fun c e => if e.2.fifo.isEmpty then c else c.vitDrain e.1 (min n 64)) c

/-- Head of a record (R231). -/
def Chip.vitHead (c : Chip) (source core bundle queue dir part cycle : Nat) : List (BitVec 8) :=
  toBytes 8 ((source <<< 61 + core <<< 58 + bundle <<< 44 + queue <<< 38 + dir <<< 37 + part <<< 34) + cycle % 2 ^ 32)
    ++ toBytes 8 c.time.tb.toNat

/-- A record is captured into the 32-record FIFO; one that finds it full is lost (R233). -/
def Chip.vitWrite (c : Chip) (k ctr : Nat) (rec : List (BitVec 8)) : Chip :=
  let page := pgVIT k
  let v := c.vitOf k
  if c.fld page 0x008 0 0 = 0 ∨ v.stopped then c
  else if v.fifo.length ≥ 32 then ((c.setVit k { v with lost := v.lost + 1 }).count page 1 1).errFree page 2 0
  else
    let l := if v.lost = 0 then [] else c.vitHead 6 0 0 0 0 0 0 ++ toBytes 8 v.lost
    c.setVit k { v with fifo := v.fifo ++ [⟨l, ctr, rec⟩], lost := 0 }

end Sys2Proof.Machine
end

