-- ==== Sys2Proof/Machine/Home.lean ====
section
/-!
DEFINITION. The home unit and the Shunters (chapter 08): the address map, access to tiles at their homes (R292 to R294),
windows, slots, moves (R296 to R306), the Timetable walk, demand notices.
-/

namespace Sys2Proof.Machine

/-! ## Address map (R287) -/

/-- The range of the local address map that an address lies in, with the unit and the offset in it. -/
inductive Region where
  | tiled (tile : Nat)
  | sys (tile : Nat)
  | lmem (core off : Nat)
  | ctr (k off : Nat)
  | page (p off : Nat)
  | mbx (off : Nat)
  | imem (core off : Nat)
  | none
  deriving DecidableEq, Repr

/-- R287. -/
def region (a : Nat) : Region :=
  if a < 0xBFF0000000 then .tiled (a / 32768)
  else if a < 0xC000000000 then .sys (a / 32768)
  else if 0x110000000000 ≤ a ∧ a < 0x110008000000 then .lmem ((a - 0x110000000000) / 0x40000) (a % 0x40000)
  else if 0x120000000000 ≤ a ∧ a < 0x120000100000 then .ctr ((a - 0x120000000000) / 16) (a % 16)
  else if 0x130000000000 ≤ a ∧ a < 0x130010000000 then .page ((a - 0x130000000000) / 4096) (a % 4096)
  else if 0x140000000000 ≤ a ∧ a < 0x140000100000 then .mbx (a - 0x140000000000)
  else if 0x150000000000 ≤ a ∧ a < 0x150002000000 then .imem ((a - 0x150000000000) / 0x10000) (a % 0x10000)
  else .none

/-! ## Tiles at their homes -/

/-- Code of a tile state (R292). -/
def TileSt.code : TileSt → Nat
  | .resident => 0 | .moving => 1 | .pinned => 2 | .poisoned => 3

/-- The home-table entry of a tile (R292). -/
def Tile.word (t : Tile) : Nat :=
  t.st.code <<< 30 + (b2n t.tier) <<< 29 + (b2n (t.dir && decide (t.st = .moving))) <<< 28 + (b2n t.enc) <<< 27 +
    (b2n t.kgen) <<< 26 + (b2n t.sys) <<< 25 + (if t.st = .moving ∧ ¬ t.dir then t.to_ else if t.tier then t.slot else 0)

/-- The byte at an address of the tiled range: the home table in the system area (R290), else the tile's home (R292). -/
def Chip.byteAt (c : Chip) (a : Nat) : BitVec 8 :=
  if 0xBFF0000000 ≤ a ∧ a < 0xBFF0000000 + 8 * 25165824 then
    BitVec.ofNat 8 ((c.tileOf ((a - 0xBFF0000000) / 8)).word >>> (8 * (a % 8)))
  else
    let t := c.tileOf (a / 32768)
    if t.tier then Mem.read c.hom.sram (t.slot * 32768 + a % 32768) else Mem.read c.hom.lp a

/-- n bytes of the tiled range. -/
def Chip.bytesAt (c : Chip) (a n : Nat) : List (BitVec 8) := (List.range n).map (fun i => c.byteAt (a + i))

/-- Bytes stored at their homes, with no check. -/
def Chip.putBytes (c : Chip) (a : Nat) : List (BitVec 8) → Chip
  | [] => c
  | b :: bs =>
    let t := c.tileOf (a / 32768)
    let c := if t.tier then { c with hom.sram := Mem.write c.hom.sram (t.slot * 32768 + a % 32768) b }
      else { c with hom.lp := Mem.write c.hom.lp a b }
    Chip.putBytes c (a + 1) bs

/-- The tiles that n bytes from a touch (none for n = 0, R17). -/
def tilesOf (a n : Nat) : List Nat := if n = 0 then [] else (List.range ((a + n - 1) / 32768 + 1 - a / 32768)).map (· + a / 32768)

/-- How an access ends (R294). -/
inductive AccRes where
  | ok
  | held
  | poisoned
  deriving DecidableEq, Repr

/-- The result that the states of the touched tiles give (R294). -/
def Chip.accRes (c : Chip) (a n : Nat) : AccRes :=
  let ts := (tilesOf a n).map (fun t => (c.tileOf t).st)
  if ts.any (fun s => decide (s = .poisoned)) then .poisoned else if ts.any (fun s => decide (s = .moving)) then .held else .ok

/-- A refusal at a POISONED tile is counted and logged (R294). -/
def Chip.poisonRefuse (c : Chip) (tag a n : Nat) : Chip :=
  let t := ((tilesOf a n).find? (fun t => decide ((c.tileOf t).st = .poisoned))).getD (a / 32768)
  (c.count pgHOM 15 1).err pgHOM 5 tag t

/-- Data offset of a tiled-range address in its controller (R289). -/
def lpOff (a : Nat) : Nat := a / 32768 / 16 * 32768 + a % 32768

/-- Controller of a tiled-range address (R289). -/
def lpCtl (a : Nat) : Nat := a / 32768 % 16

/-- Check byte of a data word (R318). -/
def checkByte (w : Nat) : BitVec 8 := BitVec.setWidth 8 (Config.secded (BitVec.ofNat 32 w))

/-- ECC group g of controller s as the package holds it: 192 bytes of data, then the check burst of 48 check bytes and 16 zeros
(R318). Placed faults are held beside it. -/
def Chip.eccGroup (c : Chip) (s g : Nat) : List (BitVec 8) :=
  let d := (List.range 192).map (fun i => let o := g * 192 + i; Mem.read c.hom.lp ((o / 32768 * 16 + s) * 32768 + o % 32768))
  d ++ (List.range 48).map (fun j => checkByte (ofBytes ((d.drop (4 * j)).take 4))) ++ List.replicate 16 0

/-- ECC groups that a write of n data bytes at data offset o covers only in part (R318). -/
def partGroups (o n : Nat) : Nat :=
  if n = 0 then 0
  else if o / 192 = (o + n - 1) / 192 then (if n = 192 then 0 else 1)
  else b2n (decide (o % 192 ≠ 0)) + b2n (decide ((o + n) % 192 ≠ 0))

/-- Traffic at data offset o of controller s brings the channels of its groups back from power-down (R320). -/
def Chip.lpWake (c : Chip) (s o n : Nat) : Chip :=
  let x := c.shuOf s
  if x.pd = 0 ∨ n = 0 then c
  else
    let gs := (List.range ((o + n - 1) / 192 + 1 - o / 192)).map (fun g => Config.lpChannel (o / 192 + g) % 8)
    c.setShu s { x with pd := gs.foldl (fun p k => p &&& ~~~ (BitVec.ofNat 8 (2 ^ k))) x.pd }

/-- Traffic of n data bytes at address a for the command of a tag: the link carries it, its channels wake, and it is counted: 4
for a read, 5 for a write, whose partly covered groups are read first (R318, R320, R328). -/
def Chip.lpData (c : Chip) (ctr tag a n : Nat) : Chip :=
  let s := lpCtl a
  let c := ((c.lpWake s (lpOff a) n).lpLink s tag).count (pgSHU s) ctr n
  let k := if ctr = 5 then partGroups (lpOff a) n else 0
  (c.count (pgSHU s) 12 k).count (pgSHU s) 4 (192 * k)

/-- Address of the home-table entry of tile n (R290). -/
def entryAddr (n : Nat) : Nat := 0xBFF0000000 + 8 * n

/-- Tile whose home-table entry lies at an address (R290). -/
def entryAt (a : Nat) : Option Nat := if 0xBFF0000000 ≤ a ∧ a < entryAddr 25165824 then some ((a - 0xBFF0000000) / 8) else none

/-- The home-table entry of tile n is written (R290), and the home cache keeps step: it drops the old one (R293; log 13). The
entries of clean outward moves coalesce into whole groups (R321). -/
def Chip.entryTraffic (c : Chip) (n : Nat) (coalesced : Bool) : Chip :=
  let c := { c with hom.cache := c.hom.cache.erase n }
  let a := entryAddr n
  let s := lpCtl a
  let c := if coalesced then ((c.lpWake s (lpOff a) 8).lpLink s 0).count (pgSHU s) 5 8 else c.lpData 5 0 a 8
  (c.rewritten (pgSHU s) 0 a 8).injWA (pgSHU s) 0 a

/-- A tile becomes POISONED with TIER 0 (R305, R319). -/
def Chip.poison (c : Chip) (t : Nat) : Chip :=
  ((c.setTile t { c.tileOf t with st := .poisoned, tier := false, dir := false, to_ := 0, slot := 0 }).count pgHOM 14 1).entryTraffic t false

/-- The slot whose entry of the slot table names a tile (R293). -/
def Chip.slotOfTile (c : Chip) (n : Nat) : Option Nat :=
  (c.hom.slots.find? (fun e => decide (e.2.tile = n) && decide (e.2.st ≠ .free))).map (fun e => e.1)

/-- An uncorrectable word in the home-table entry of tile n: the entry is rebuilt from the slot table, or becomes POISONED with its
ENC and KGEN lost, written as 0 (R319; log 164). -/
def Chip.entryUe (c : Chip) (tag n : Nat) : Chip :=
  match c.slotOfTile n with
  | some s =>
    let x := c.slotOf s
    let c := if x.st = .held then
        c.setTile n { c.tileOf n with st := if x.pinned then .pinned else .resident, tier := true, dir := false, to_ := 0, enc := x.enc, kgen := x.kgen, slot := s }
      else c
    (c.entryTraffic n false).err pgHOM 2 tag n
  | none => (c.setTile n { c.tileOf n with enc := false, kgen := false }).poison n

/-- A word error of LPDDR5X is met by a read for the command of a tag: SHU_ECC_LAST names the word (R319, R326). -/
def Chip.lpFound (c : Chip) (tag : Nat) (p : Placed) : Chip :=
  let t := p.at_ / 32768
  let page := pgSHU (lpCtl p.at_)
  let (c, ue) := c.faultFound p tag 0 tag t
  let o := lpOff p.at_
  let c := c.setReg page 0x220 ((o / 192) <<< 36 + (o % 192 / 4) <<< 30 + (b2n ue) <<< 28)
  if ¬ ue then c
  else match entryAt p.at_ with
    | some n => (c.count page 14 1).entryUe tag n
    | none => if (c.tileOf t).tier then c.count page 14 1 else (c.count page 14 1).poison t

/-- n bytes of one tile are read from LPDDR5X (R319). -/
def Chip.lpRead (c : Chip) (tag a n : Nat) : Chip :=
  let c := c.lpData 4 tag a n
  (c.faultsIn (pgSHU (lpCtl a)) 0 a n).foldl (fun c p => c.lpFound tag p) c

/-- A placed fault lies in a group that a write of n bytes at a covers in part, in a word that the write does not replace. -/
def rmwMeets (a n : Nat) (p : Placed) : Bool :=
  let o := lpOff a
  let x := lpOff p.at_
  let g := x / 192
  decide (p.page = pgSHU (lpCtl a)) && decide (p.target = 0) && decide (o / 192 ≤ g) && decide (g ≤ (o + n - 1) / 192) &&
    !(decide (o ≤ g * 192) && decide (g * 192 + 192 ≤ o + n)) && !(decide (o ≤ x) && decide (x + 4 ≤ o + n))

/-- n bytes of one tile are written to LPDDR5X, after the read of the groups that they cover in part (R318, R319). -/
def Chip.lpWrite (c : Chip) (tag a n : Nat) : Chip :=
  let c := c.lpData 5 tag a n
  let c := (c.flt.placed.filter (rmwMeets a n)).foldl (fun c p => c.lpFound tag p) c
  (c.rewritten (pgSHU (lpCtl a)) 0 a n).injWA (pgSHU (lpCtl a)) 0 a

/-- n bytes of the slices are read for the command of a tag; the answer is whether a word was uncorrectable (R236, R522; log 165). -/
def Chip.sramRead (c : Chip) (tag a n : Nat) : Chip × Bool :=
  (c.faultsIn (pgCORE (a / 4194304)) 2 a n).foldl (fun r p =>
    let i := p.at_ / 4 % 65536
    let (c, ue) := r.1.faultFound p tag i tag i
    (c, r.2 || ue)) (c, false)

/-- n bytes of the slices are written. -/
def Chip.sramWrite (c : Chip) (a n : Nat) : Chip := (c.rewritten (pgCORE (a / 4194304)) 2 a n).injWA (pgCORE (a / 4194304)) 2 a

/-- The part of n bytes from a that lies in tile t: its first address, and its length. -/
def tileSeg (a n t : Nat) : Nat × Nat :=
  let s := max a (t * 32768)
  (s, min (a + n) ((t + 1) * 32768) - s)

/-- An access to tile n, whose home is a slot, takes the slot from the home cache; on a miss the home-table entry is read, and takes
the place of one that the spec leaves open where the cache is full (R293; log 13). -/
def Chip.homeLookup (c : Chip) (tag n : Nat) : Chip :=
  if c.hom.cache.contains n then c
  else
    let c := (c.count pgHOM 5 1).lpRead tag (entryAddr n) 8
    let (v, c) := if c.hom.cache.length < 32768 then (32768, c) else c.freeVal 15
    { c with hom.cache := n :: c.hom.cache.eraseIdx v }

/-- The touched tiles are read at their homes; the answer is whether a word of a slot was uncorrectable (R294, R319). -/
def Chip.homeRead (c : Chip) (tag a n : Nat) : Chip × Bool :=
  (tilesOf a n).foldl (fun r t =>
    let g := tileSeg a n t
    let x := r.1.tileOf t
    if x.tier then
      let (c, ue) := (r.1.homeLookup tag t).sramRead tag (x.slot * 32768 + g.1 % 32768) g.2
      (c, r.2 || ue)
    else (r.1.lpRead tag g.1 g.2, r.2)) (c, false)

/-- Read n bytes of the tiled range for a unit or the host (R294); an uncorrectable word ends it as POISONED (R242, R319). -/
def Chip.mread (c : Chip) (tag a n : Nat) : AccRes × List (BitVec 8) × Chip :=
  match c.accRes a n with
  | .held => (.held, [], c)
  | .poisoned => (.poisoned, List.replicate n 0, c.poisonRefuse tag a n)
  | .ok =>
    let bs := c.bytesAt a n
    let (c, ue) := c.homeRead tag a n
    if ue ∨ c.accRes a n = .poisoned then (.poisoned, List.replicate n 0, c) else (.ok, bs, c)

/-- The touched tiles are about to be written at their homes; a slot written becomes DIRTY (R294). -/
def Chip.homeWrite (c : Chip) (tag a n : Nat) : Chip :=
  (tilesOf a n).foldl (fun c t =>
    let g := tileSeg a n t
    let x := c.tileOf t
    if x.tier then
      let c := c.homeLookup tag t
      (c.setSlot x.slot { c.slotOf x.slot with dirty := true }).sramWrite (x.slot * 32768 + g.1 % 32768) g.2
    else c.lpWrite tag g.1 g.2) c

/-- Write bytes of the tiled range at their homes (R294); a tile that the read of a partly covered group poisons refuses them. -/
def Chip.mwrite (c : Chip) (tag a : Nat) (bs : List (BitVec 8)) : AccRes × Chip :=
  match c.accRes a bs.length with
  | .held => (.held, c)
  | .poisoned => (.poisoned, c.poisonRefuse tag a bs.length)
  | .ok =>
    let c := c.homeWrite tag a bs.length
    if c.accRes a bs.length = .poisoned then (.poisoned, c.poisonRefuse tag a bs.length) else (.ok, c.putBytes a bs)

/-! ## Windows (R267, R288) -/

/-- n bytes from a lie in the context's window; a length of zero reaches nothing (R17). -/
def Ctx.covers (k : Ctx) (a n : Nat) : Bool :=
  n = 0 || (decide (k.winFirst * 32768 ≤ a) && decide (a + n ≤ (k.winFirst + k.winTiles) * 32768))

/-- Tiles first to first + n − 1 lie in the window. -/
def Ctx.hasTiles (k : Ctx) (first n : Nat) : Bool :=
  n = 0 || (decide (k.winFirst ≤ first) && decide (first + n ≤ k.winFirst + k.winTiles))

/-- Counters first to first + n − 1 lie in the context's range (R262). -/
def Ctx.hasCtrs (k : Ctx) (first n : Nat) : Bool :=
  n = 0 || (decide (k.ctrBase ≤ first) && decide (first + n ≤ k.ctrBase + k.ctrCount))

/-- The context bound to a job on this die, with its number. -/
def Chip.ctxOfJob (c : Chip) (job : Nat) : Option (Nat × Ctx) :=
  c.fe.ctxs.findSome? (fun e => match e.2 with
    | some k => if k.job = job then some (e.1, k) else none
    | none => none)

/-- The context whose window holds a tile (R317). -/
def Chip.ctxOfTile (c : Chip) (t : Nat) : Option (Nat × Ctx) :=
  c.fe.ctxs.findSome? (fun e => match e.2 with
    | some k => if k.hasTiles t 1 then some (e.1, k) else none
    | none => none)

/-- Context of a resident slot. -/
def Chip.ctxInSlot (c : Chip) (s : Nat) : Option (Nat × Ctx) :=
  c.fe.ctxs.findSome? (fun e => match e.2 with
    | some k => if k.slot = some s then some (e.1, k) else none
    | none => none)

/-- Every tile of a range is PINNED (R240). -/
def Chip.pinnedRange (c : Chip) (a n : Nat) : Bool := (tilesOf a n).all (fun t => decide ((c.tileOf t).st = .pinned))

/-! ## Keys of tiles (R317, R478) -/

/-- WEIGHT key of a context under a generation. -/
def Chip.wKey (c : Chip) (x : Nat) (gen : Bool) : Option (BitVec 512) :=
  let k := c.keysOf x
  if gen then k.w1 else k.w0

/-! ## Moves (R302 to R306) -/

/-- The next order number. -/
def Chip.nextOrder (c : Chip) : Nat × Chip := (c.hom.order, { c with hom.order := c.hom.order + 1 })

/-- Ask for a move (R304). -/
def Chip.reqMove (c : Chip) (tile : Nat) (to_ : MoveTo) (cls : Nat) (lc pin : Bool) (by_ : MoveBy) : Chip :=
  let (o, c) := c.nextOrder
  let s := tile % 16
  let x := c.shuOf s
  c.setShu s { x with waiting := x.waiting ++ [⟨tile, to_, cls, lc, pin, o, by_⟩] }

/-- A tile is where a move would take it. -/
def Tile.atTarget (t : Tile) : MoveTo → Bool
  | .slot s => t.tier && decide (t.slot = s)
  | .core k => t.tier && decide (t.slot / 128 = k)
  | .out => !t.tier

/-- What a Shunter finds when it examines a waiting move (R297, R299, R302 step 1, R304). -/
inductive Exam where
  | claim (target : Option Nat)   -- it can run to its end
  | done (st : Status)            -- nothing to move, or it fails with a status
  | wait
  | evict (tile : Nat)            -- an occupant has to leave first
  deriving DecidableEq, Repr

/-- The slot that a launch's tile takes in a core's slice: a FREE one, else the unlocked RESIDENT slot used least recently (R297). -/
def Chip.pickSlot (c : Chip) (core : Nat) : Option (Nat × Bool) :=
  let ss := (List.range 128).map (· + core * 128)
  match ss.find? (fun s => decide ((c.slotOf s).st = .free)) with
  | some s => some (s, true)
  | none =>
    let cands := ss.filter (fun s => decide ((c.slotOf s).st = .held) && !(c.slotOf s).pinned && decide ((c.slotOf s).locks = 0))
    (cands.foldl (fun (b : Option Nat) s =>
      match b with
      | none => some s
      | some r => if (c.slotOf s).lastUse < (c.slotOf r).lastUse then some s else some r) none).map (fun s => (s, false))

/-- Whether a move of an ENC tile may start: its context resident, its key present (R305, R306). -/
def Chip.encReady (c : Chip) (tile : Nat) (outward : Bool) : Exam :=
  let t := c.tileOf tile
  match c.ctxOfTile tile with
  | none => .done .key
  | some (x, k) =>
    if k.slot.isNone then .wait
    else
      let key := if outward then (c.keysOf x).wCur.bind (c.wKey x) else c.wKey x t.kgen
      if key.isNone then .done .key else .claim none

/-- The move evacuates a fenced core (R529). -/
def MoveBy.isEvac : MoveBy → Bool
  | .evac _ => true
  | _ => false

/-- An eviction that a waiting move asked for is still on its way: the move asks for no second one (R297). -/
def Chip.evicting (c : Chip) (r : MoveReq) : Bool :=
  c.hom.shus.any (fun e => e.2.waiting.any (fun y => decide (y.by_ = .evict r.tile r.order)) ||
    e.2.flight.any (fun m => decide (m.by_ = .evict r.tile r.order)))

/-- The move makes room for another (R297). -/
def MoveBy.isEvict : MoveBy → Bool
  | .evict _ _ => true
  | _ => false

/-- Examine a waiting move. -/
def Chip.examine (c : Chip) (r : MoveReq) : Exam :=
  let t := c.tileOf r.tile
  let os := c.slotOf t.slot
  match t.st with
  | .moving => .wait
  | .poisoned => .done .poisoned
  | _ =>
    if t.atTarget r.to_ then .done .ok
    else if t.st = .pinned ∧ ¬ r.by_.isEvac then (if r.cls = 4 then .wait else .done .aborted)
    else if t.tier ∧ os.locks > 0 then .wait
    else if Tab.get 0 c.hom.imgLocks r.tile > 0 then .wait
    else
      let enc := if t.enc ∧ (¬ t.tier ∨ (r.to_ = .out ∧ os.dirty)) then c.encReady r.tile t.tier else .claim none
      match enc with
      | .claim _ =>
        match r.to_ with
        | .out => .claim none
        | .core k =>
          match c.pickSlot k with
          | some (s, true) => .claim (some s)
          | some (s, false) => if c.evicting r then .wait else .evict (c.slotOf s).tile
          | none => .wait
        | .slot s =>
          let o := c.slotOf s
          if c.coreFenced (s / 128) then .done .fenced
          else match o.st with
            | .free => .claim (some s)
            | .held => if o.pinned then (if r.cls = 4 then .wait else .done .aborted) else if o.locks > 0 then .wait
              else .evict o.tile
            | _ => .wait
      | e => e

/-- Clear the demand latches of entries whose tile leaves slot s, the slot that the entry gives it (R315). -/
def Chip.unlatch (c : Chip) (tile s : Nat) : Chip :=
  c.hom.dbinds.foldl (fun c e =>
    match e.2 with
    | none => c
    | some b =>
      let keep := b.latched.filter (fun j =>
        let w := ofBytes (c.bytesAt (b.addr + 64 + 16 * j) 16)
        !(decide (bits w 113 89 ≤ tile) && decide (tile < bits w 113 89 + bits w 88 72) &&
          decide (s = bits w 71 56 + (tile - bits w 113 89))))
      { c with hom.dbinds := Tab.put none c.hom.dbinds e.1 (some { b with latched := keep }) }) c

/-- The key generation of a move, as its claim fixes it: the entry's for an inward move, the slot table's for a move between slots,
and the current one for a dirty outward move (R317, R483, R485). -/
def Chip.moveGen (c : Chip) (tile : Nat) (out : Bool) : Bool :=
  let t := c.tileOf tile
  let s := c.slotOf t.slot
  if ¬ t.tier then t.kgen
  else if out && s.dirty then ((c.ctxOfTile tile).bind (fun x => (c.keysOf x.1).wCur)).getD s.kgen
  else s.kgen

/-- Claim a move: the entry MOVING, the slots FILLING and DRAINING (R302 step 1). -/
def Chip.claim (c : Chip) (r : MoveReq) (target : Option Nat) : Chip :=
  let t := c.tileOf r.tile
  let old := if t.tier then some t.slot else none
  let dirty := t.tier && (c.slotOf t.slot).dirty
  let kg := c.moveGen r.tile target.isNone
  let m : Move := ⟨r.tile, target, old, r.cls, r.pin, t.enc, kg, dirty, t.st, r.by_⟩
  let x := c.shuOf (r.tile % 16)
  let c := c.setShu (r.tile % 16) { x with waiting := x.waiting.filter (fun y => !(decide (y.order = r.order))), flight := x.flight ++ [m] }
  let c := if t.tier then c.unlatch r.tile t.slot else c
  let c := match old with
    | some o => c.setSlot o { c.slotOf o with st := .draining, cls := r.cls }
    | none => c
  let c := match target with
    | some s => (c.setSlot s { (default : Slot) with tile := r.tile, st := .filling, cls := r.cls, enc := t.enc, kgen := kg })
    | none => c
  let c := c.setTile r.tile { t with st := .moving, dir := target.isNone, to_ := target.getD 0 }
  let c := (c.entryTraffic r.tile (target.isNone && !dirty)).injW pgHOM 0
  if r.by_.isEvict then c.count pgHOM 13 1 else c

/-- A waiting move leaves its Shunter unclaimed. -/
def Chip.dropReq (c : Chip) (r : MoveReq) : Chip :=
  let x := c.shuOf (r.tile % 16)
  c.setShu (r.tile % 16) { x with waiting := x.waiting.filter (fun y => !(decide (y.order = r.order))) }

/-- Withdraw the waiting moves of a requester. -/
def Chip.dropBy (c : Chip) (p : MoveBy → Bool) : Chip :=
  (List.range 16).foldl (fun c s =>
    let x := c.shuOf s
    c.setShu s { x with waiting := x.waiting.filter (fun r => !(p r.by_)) }) c

/-- CMD_TAG of the command that asked for a move, or 0 (R324, R327). -/
def Chip.tagBy (c : Chip) (by_ : MoveBy) : Nat :=
  match by_ with
  | .cmd q i => ((c.cmd? q i).map (fun k => k.tag.toNat)).getD 0
  | _ => 0

/-- A requester's tile is done, or its move fails (R299, R305, R309, R315). -/
def Chip.moveEnds0 (c : Chip) (by_ : MoveBy) (tile cls : Nat) (st : Status) : Chip :=
  let c := if st = .key then
      (c.err (pgSHU (tile % 16)) 2 (c.tagBy by_) tile).count (pgSHU (tile % 16)) 19 (if cls ≥ 3 then 1 else 0)
    else c
  match by_ with
  | .cmd q i =>
    match c.cmd? q i with
    | none => c
    | some k =>
      if ¬ k.working then c
      else if st = .ok then
        let c := c.modCmd q i (fun k => { k with left := k.left - 1 })
        if k.type = 6 ∧ k.left ≤ 1 then c.endWork q i .ok 0 else c
      else
        let c := match st with
          | .poisoned => (c.count pgHOM 15 1).err pgHOM 5 k.tag.toNat tile
          | .aborted => if k.type = 0 then c.err pgHOM 4 k.tag.toNat tile else c
          | _ => c
        let info := if st = .poisoned ∨ st = .aborted then tile else 0
        let c := c.dropBy (fun b => decide (b = .cmd q i))
        if k.type = 0 then c.modCmd q i (fun k => { k with status := st, info := BitVec.ofNat 32 info, fin := true })
        else c.endWork q i st info
  | .demand _ _ => if st = .ok ∨ st = .key then c else c.count pgHOM 17 1
  | .timetable _ => if st = .fenced then c.count pgHOM 12 1 else c
  | .evac _ => c
  | .evict _ _ => c

/-- The same for an eviction too: where the occupant's key is absent, the move that asked for the room fails or is skipped with
KEY (R305). -/
def Chip.moveEnds (c : Chip) (by_ : MoveBy) (tile cls : Nat) (st : Status) : Chip :=
  match by_ with
  | .evict t o =>
    if st ≠ .key then c
    else match (c.shuOf (t % 16)).waiting.find? (fun r => decide (r.order = o)) with
      | some r => (c.dropReq r).moveEnds0 r.by_ tile cls .key
      | none => c
  | b => c.moveEnds0 b tile cls st

/-- A waiting move asks for an occupant's outward move, once. -/
def Chip.askEvict (c : Chip) (tile : Nat) (r : MoveReq) : Chip :=
  let x := c.shuOf (tile % 16)
  if x.waiting.any (fun y => decide (y.tile = tile) && y.by_.isEvict) || x.flight.any (fun m => decide (m.tile = tile)) then c
  else c.reqMove tile .out r.cls r.lc false (.evict r.tile r.order)

/-- Order among waiting moves: class, LC level within LAUNCH and COMMAND, order of request (R304). -/
def MoveReq.before (a b : MoveReq) : Bool :=
  if a.cls ≠ b.cls then a.cls < b.cls
  else if a.cls ≤ 2 ∧ a.lc ≠ b.lc then a.lc else a.order < b.order

/-- Whether a Shunter has room for a move of a class: 8 in flight, 2 of them for LAUNCH (R303). -/
def Shu.room (x : Shu) (cls : Nat) : Bool :=
  decide (x.flight.length < 8) && (decide (cls = 1) || decide ((x.flight.filter (fun m => decide (m.cls ≠ 1))).length < 6))

/-- A move that finds its tile at its target, PINNED as it asks (R308). -/
def Chip.inPlace (c : Chip) (r : MoveReq) : Chip :=
  let t := c.tileOf r.tile
  if r.cls = 2 ∧ ¬ r.by_.isEvict then
    let c := (c.setTile r.tile { t with st := if r.pin then .pinned else .resident }).entryTraffic r.tile false
    if t.tier then c.setSlot t.slot { c.slotOf t.slot with pinned := r.pin } else c
  else c

/-- A Shunter goes through its waiting moves in order and claims the first that can run to its end (R304). -/
def Chip.claimNext (c : Chip) (s : Nat) : List MoveReq → Chip
  | [] => c
  | r :: rs =>
    if ¬ (c.shuOf s).room r.cls then Chip.claimNext c s rs
    else match c.examine r with
      | .claim target => c.claim r target
      | .done st => Chip.claimNext (((if st = .ok then c.inPlace r else c).dropReq r).moveEnds r.by_ r.tile r.cls st) s rs
      | .wait => Chip.claimNext c s rs
      | .evict t => Chip.claimNext (c.askEvict t r) s rs

/-- MOVE_CLAIM (R304). -/
def Chip.moveClaim (c : Chip) (s : Nat) : Chip :=
  c.claimNext s ((c.shuOf s).waiting.mergeSort (fun a b => a.before b))

/-- Bytes of a slot. -/
def Chip.slotBytes (c : Chip) (s : Nat) : List (BitVec 8) := Mem.readN c.hom.sram (s * 32768) 32768

/-- The WEIGHT key of a claimed move; one that ERASE has taken since leaves the bytes open (a free value). -/
def Chip.moveKey (c : Chip) (m : Move) : BitVec 512 × Chip :=
  match (c.ctxOfTile m.tile).bind (fun x => c.wKey x.1 m.kgen) with
  | some k => (k, c)
  | none =>
    let (v, c) := c.freeVal 512
    (BitVec.ofNat 512 v, c)

/-- A move's data reach their new home and its last step is taken (R302 steps 2 to 4, R305, R317). -/
def Chip.moveData (c : Chip) (m : Move) : Chip × Bool :=
  let t := c.tileOf m.tile
  let sh := pgSHU (m.tile % 16)
  let st : TileSt := if m.pin then .pinned else .resident
  let tag := c.tagBy m.by_
  let (o, c) := c.nextOrder
  match m.slot, m.old with
  | some s, none =>
    let c := c.lpRead tag (m.tile * 32768) 32768
    let c := { c with hom.sram := Mem.clear c.hom.sram (s * 32768) 32768 }
    if (c.tileOf m.tile).st = .poisoned then (c.setSlot s default, false)
    else
      let c := if m.enc then
          let (key, c) := c.moveKey m
          let bs := Mem.readN c.hom.lp (m.tile * 32768) 32768
          ({ c with hom.sram := Mem.writeL c.hom.sram (s * 32768) (Config.xtsDec key (m.tile * 32768) bs) }).count sh 6 1
        else { c with hom.sram := Mem.copyFrom c.hom.sram (s * 32768) c.hom.lp (m.tile * 32768) 32768 }
      let c := c.sramWrite (s * 32768) 32768
      let c := c.setTile m.tile { t with st := st, tier := true, dir := false, to_ := 0, slot := s }
      let c := c.setSlot s ⟨m.tile, .held, false, m.pin, m.enc, m.kgen, 0, 0, o⟩
      (c.count sh 0 1, true)
  | some s, some q =>
    let (c, ue) := c.sramRead tag (q * 32768) 32768
    if ue then
      let c := c.err sh 4 tag m.tile
      let c := (c.setSlot s default).setSlot q default
      if m.dirty then (c.poison m.tile, false)
      else (c.setTile m.tile { t with st := .resident, tier := false, dir := false, to_ := 0, slot := 0 }, false)
    else
      let c := { c with hom.sram := Mem.copyFrom c.hom.sram (s * 32768) c.hom.sram (q * 32768) 32768 }
      let c := c.sramWrite (s * 32768) 32768
      let c := c.setTile m.tile { t with st := st, tier := true, dir := false, to_ := 0, slot := s }
      let c := (c.setSlot q default).setSlot s ⟨m.tile, .held, m.dirty, m.pin, m.enc, m.kgen, 0, 0, o⟩
      (c.count sh 3 1, true)
  | none, some q =>
    let (c, ue) := if m.dirty then c.sramRead tag (q * 32768) 32768 else (c, false)
    if ue then (((c.err sh 4 tag m.tile).setSlot q default).poison m.tile, false)
    else
      let c := if m.dirty then
          let c := if m.enc then
              let (key, c) := c.moveKey m
              ({ c with hom.lp := Mem.writeL c.hom.lp (m.tile * 32768) (Config.xtsEnc key (m.tile * 32768) (c.slotBytes q)) }).count sh 7 1
            else { c with hom.lp := Mem.copyFrom c.hom.lp (m.tile * 32768) c.hom.sram (q * 32768) 32768 }
          (c.count sh 2 1).lpWrite tag (m.tile * 32768) 32768
        else c.count sh 1 1
      let c := c.setTile m.tile { t with st := st, tier := false, dir := false, to_ := 0, slot := 0, kgen := if m.dirty && m.enc then m.kgen else t.kgen }
      (c.setSlot q default, true)
  | none, none => (c.setTile m.tile { t with st := st, dir := false, to_ := 0 }, true)

/-- Kind of a move, as SHU_LAST codes it (R326). -/
def Move.kind (m : Move) : Nat :=
  match m.slot, m.old with
  | some _, none => 0
  | some _, some _ => 3
  | none, _ => if m.dirty then 2 else 1

/-- No slot of core n waits for its evacuation any more (R529 step 4). -/
def Chip.evacEnded (c : Chip) (n : Nat) : Bool :=
  !(c.hom.shus.any (fun s => s.2.waiting.any (fun r => decide (r.by_ = .evac n)))) &&
    !((List.range 128).any (fun j =>
      let s := (c.slotOf (128 * n + j)).st
      decide (s = .filling) || decide (s = .draining)))

/-- A fence of a core is complete: its record is written, and its fuse is due (R529 step 4, R533). -/
def Chip.evacGo (c : Chip) : Chip :=
  (c.flt.evac.filter (fun n => c.evacEnded n)).foldl (fun (c : Chip) n =>
    { (c.ledgerEv pgFLT 1 none none none) with flt.evac := c.flt.evac.erase n, flt.fuseQ := c.flt.fuseQ ++ [(false, n)] }) c

/-- MOVE_COMPLETE (R302): the tile's move in flight on Shunter s ends. -/
def Chip.moveComplete (c : Chip) (s tile : Nat) : Chip :=
  let x := c.shuOf s
  match x.flight.find? (fun m => decide (m.tile = tile)) with
  | none => c
  | some m =>
    let c := c.setShu s { x with flight := x.flight.filter (fun y => !(decide (y.tile = tile))) }
    let c := (c.injR pgHOM 0 (c.tagBy m.by_) 0).1
    let (c, ok) := c.moveData m
    let c := if ok then c.entryTraffic tile (m.slot.isNone && !m.dirty) else c
    let c := c.count (pgSHU s) (7 + m.cls) 1
    let c := c.setReg (pgSHU s) 0x208 (tile <<< 39 + m.kind <<< 36 + m.cls <<< 33 + c.time.tb.toNat % 2 ^ 32)
    let bad := !ok && decide ((c.tileOf tile).st = .poisoned)
    let c := if m.by_.isEvac then
        ((c.count pgFLT 2 1).count pgFLT 3 (b2n m.dirty)).count pgFLT 4 (b2n bad)
      else c
    (c.moveEnds m.by_ tile m.cls (if bad then .poisoned else .ok)).evacGo

/-! ## Timetable (R310 to R313) -/

/-- Entry j of a Timetable as it lies in memory. -/
def Chip.ttEntryAt (c : Chip) (b : TtBind) (j : Nat) : Nat := ofBytes (c.bytesAt (b.addr + 64 + 16 * j) 16)

/-- A walk reads entry j of its Timetable (R294, R328): none where the tile is MOVING or POISONED, and the walk stands (log 166). -/
def Chip.ttRead (c : Chip) (b : TtBind) (j : Nat) : Option Nat × Chip :=
  let (r, bs, c) := c.mread 0 (b.addr + 64 + 16 * j) 16
  (if r = .ok then some (ofBytes bs) else none, c)

/-- Position of a Shunter's walk. -/
def TtBind.posOf (b : TtBind) (s : Nat) : Nat × Nat × Nat := Tab.get (b.start, 0, 0) b.pos s

/-- The tiles of an entry that lie on controller s, as offsets from FIRST_TILE, from offset `from_` on. -/
def ttTiles (first n s from_ : Nat) : List Nat := (List.range n).filter (fun i => decide (from_ ≤ i) && decide ((first + i) % 16 = s))

/-- Request an entry's TIMETABLE moves until its last tile or a PINNED occupant; the answer is where the walk stalls (R312, R313). -/
def Chip.ttRequest (c : Chip) (x e : Nat) : List Nat → Chip × Option Nat
  | [] => (c, none)
  | i :: is =>
    let tile := bits e 95 71 + i
    let act := bits e 37 36
    let s := bits e 53 38 + i
    let t := c.tileOf tile
    let to_ : MoveTo := if act = 1 then .out else .slot s
    let o := c.slotOf s
    if act ≠ 1 ∧ c.coreFenced (s / 128) then Chip.ttRequest (c.count pgHOM 12 1) x e is
    else if t.st ≠ .moving ∧ t.atTarget to_ then
      let c := if act = 2 ∧ t.st = .resident then
          ((c.setTile tile { t with st := .pinned }).setSlot s { o with pinned := true }).entryTraffic tile false
        else c
      Chip.ttRequest c x e is
    else if act ≠ 1 ∧ o.st = .held ∧ o.pinned ∧ o.tile ≠ tile then (c, some i)
    else Chip.ttRequest ((c.reqMove tile to_ 4 false (decide (act = 2)) (.timetable x)).count pgHOM 11 1) x e is

/-- TT_ENTRY (R312): Shunter s handles the entry its walk of a resident context stands at, when it is eligible. -/
def Chip.ttEntry (c : Chip) (s x : Nat) : Chip :=
  match Tab.get none c.hom.tts x, c.ctxOf x with
  | some b, some k =>
    let (j, p, from_) := b.posOf s
    if k.slot.isNone ∨ b.ended.contains s ∨ j ≥ b.entries then c
    else match c.ttRead b j with
    | (none, c) => c
    | (some e, c) =>
      let step := (b.base.toNat + p * b.period.toNat + bits e 127 96) % 2 ^ 32
      let ahead := toSigned 32 (step + 2 ^ 32 - (c.ctrOf b.ctr).value.toNat)
      if ahead > (b.look : Int) then c
      else
        let (c, stall) := c.ttRequest x e (ttTiles (bits e 95 71) (bits e 70 54) s from_)
        match stall with
        | some i =>
          let c := if b.stalled.contains s then c else c.err pgHOM 10 0 (bits e 95 71 + i)
          { c with hom.tts := Tab.put none c.hom.tts x (some { b with
              pos := Tab.put (b.start, 0, 0) b.pos s (j, p, i), stalled := if b.stalled.contains s then b.stalled else s :: b.stalled }) }
        | none =>
          let lastE := decide (j + 1 ≥ b.entries)
          let stop := lastE && (!b.cyclic || decide (b.period = 0))
          let next := if lastE then (if stop then (j, p, 0) else (0, p + 1, 0)) else (j + 1, p, 0)
          { c with hom.tts := Tab.put none c.hom.tts x (some { b with
              pos := Tab.put (b.start, 0, 0) b.pos s next, stalled := b.stalled.filter (fun y => decide (y ≠ s)),
              ended := if stop then s :: b.ended else b.ended }) }
  | _, _ => c

/-! ## Demand (R314 to R316) -/

/-- The binding whose notice port an address falls in, for the job of a bound context (R315). -/
def Chip.noticePort (c : Chip) (job a : Nat) : Bool :=
  c.hom.dbinds.any (fun e => match e.2 with
    | some b => decide (b.port ≤ a) && decide (a < b.port + 2048) && (match c.ctxOf b.ctx with | some k => decide (k.job = job) | none => false)
    | none => false)

/-- One entry of a notice (R315, R316). -/
def Chip.noticeEntry (c : Chip) (bn : Nat) (expert : Nat) : Chip :=
  match Tab.get none c.hom.dbinds bn with
  | none => c
  | some b =>
    let c := c.count pgHOM 7 1
    match (List.range b.entries).find? (fun j => decide (bits (ofBytes (c.bytesAt (b.addr + 64 + 16 * j) 16)) 127 114 = expert)) with
    | none => (c.count pgHOM 16 1).err pgHOM 9 0 expert
    | some j =>
      if b.latched.contains j then c.count pgHOM 9 1
      else
        let w := ofBytes (c.bytesAt (b.addr + 64 + 16 * j) 16)
        let c := (c.homeRead 0 (b.addr + 64 + 16 * j) 16).1
        let c := { c with hom.dbinds := Tab.put none c.hom.dbinds bn (some { b with latched := j :: b.latched }) }
        let c := c.count pgHOM 8 1
        (List.range (bits w 88 72)).foldl (fun c i =>
          let tile := bits w 113 89 + i
          let s := bits w 71 56 + i
          let t := c.tileOf tile
          if t.st ≠ .moving ∧ t.atTarget (.slot s) then c
          else if t.st = .pinned ∨ t.st = .poisoned then c.count pgHOM 17 1
          else (c.reqMove tile (.slot s) 3 false false (.demand bn j)).count pgHOM 10 1) c

/-- The demand binding of a notice's domain for a job. -/
def Chip.noticeBind (c : Chip) (job : Nat) (data : List (BitVec 8)) : Option (Nat × DBind) :=
  c.hom.dbinds.findSome? (fun e => match e.2 with
    | some b => if b.domain = bits (ofBytes (data.take 16)) 15 0 ∧ ((c.ctxOf b.ctx).map (fun k => k.job)) = some job then some (e.1, b) else none
    | none => none)

/-- What the home unit's read of the demand map of a notice meets (R294). -/
def Chip.noticeMap (c : Chip) (job : Nat) (data : List (BitVec 8)) : AccRes :=
  match c.noticeBind job data with
  | some (_, b) => if c.fld pgHOM 0x008 0 0 = 0 then .ok else c.accRes (b.addr + 64) (16 * b.entries)
  | none => .ok

/-- A notice for a port waits while the demand map that it needs moves (R294). -/
def Chip.noticeHeld (c : Chip) (job a : Nat) (data : List (BitVec 8)) : Bool := c.noticePort job a && decide (c.noticeMap job data = .held)

/-- NOTICE_WRITE (R315): the home unit takes a notice; the answer is whether the address was a notice port. -/
def Chip.noticeWrite (c : Chip) (job node a : Nat) (data : List (BitVec 8)) : Chip × Bool :=
  if ¬ c.noticePort job a then (c, false)
  else
    let c := c.count pgHOM 6 1
    if c.fld pgHOM 0x008 0 0 = 0 then (c, true)
    else
      let n := bits (ofBytes (data.take 16)) 25 16
      match c.noticeBind job data with
      | none => (((c.count pgHOM 16 1).err pgHOM 8 0 node).count pgHOM 7 n, true)
      | some (bn, b) =>
        if c.noticeMap job data = .poisoned then ((c.poisonRefuse 0 (b.addr + 64) (16 * b.entries)).count pgHOM 7 n, true)
        else ((List.range n).foldl (fun c i => c.noticeEntry bn (bits (ofBytes ((data.drop (16 + 2 * i)).take 2)) 13 0)) c, true)

end Sys2Proof.Machine
end

