-- ==== Sys2Proof/Machine/Fabric.lean ====
section
/-!
DEFINITION. The Caind fabric's source side (chapter 10): headers, ports and spraying, credits and frames, transaction tags and
the ordering promise, job admission, reachability, training and loss of ports.
-/

namespace Sys2Proof.Machine

/-! ## Ports -/

def portInit : Port :=
  { st := .disabled, lanes := 0, kind := false, plane := 0, node := 0, tx := [0, 0, 0, 0, 0], step := 0, attempts := 0, txSeq := 0,
    rxSeq := 0, rxWait := false, replay := [], replays := 0, queue := [], turn := false, turnLc := false }

def Chip.portOf (c : Chip) (p : Nat) : Port := Tab.get portInit c.fab.ports p
def Chip.setPort (c : Chip) (p : Nat) (x : Port) : Chip := { c with fab.ports := Tab.put portInit c.fab.ports p x }
def Chip.tagOf (c : Chip) (t : Nat) : Option Tag := Tab.get none c.fab.tags t
def Chip.setTag (c : Chip) (t : Nat) (x : Option Tag) : Chip := { c with fab.tags := Tab.put none c.fab.tags t x }
def Chip.admOf (c : Chip) (j : Nat) : Adm := Tab.get default c.fab.adm j
def Chip.setAdm (c : Chip) (j : Nat) (x : Adm) : Chip := { c with fab.adm := Tab.put default c.fab.adm j x }

/-- CFB_CTRL.BYPASS (R358). -/
def Chip.bypass (c : Chip) : Bool := c.fld pgCFB 0x008 0 0 = 1
/-- CFB_PEER (R393). -/
def Chip.peer (c : Chip) : Nat := c.fld pgCFB 0x204 17 0
/-- A bypass port: CP14 or CP15 with BYPASS 1 (R358). -/
def Chip.isBypass (c : Chip) (p : Nat) : Bool := c.bypass && decide (p ≥ 14)
def Chip.portUp (c : Chip) (p : Nat) : Bool := (c.portOf p).st = .up
/-- The bypass link is UP while either of its ports is (R358). -/
def Chip.bypUp (c : Chip) : Bool := c.bypass && (c.portUp 14 || c.portUp 15)

/-- Bytes of a packet on a link (R362). -/
def EPkt.bytes (p : EPkt) : Nat := 32 + p.data.length

/-- Bytes queued at a port on a link channel (R360). -/
def Chip.queued (c : Chip) (p ch : Nat) : Nat := (((c.portOf p).queue.filter (fun x => decide (x.ch = ch))).map EPkt.bytes).sum

/-- The port of a list with the fewest bytes queued on a channel, the lower number on a tie (R360). -/
def Chip.leastQueued (c : Chip) (ch : Nat) : List Nat → Option Nat
  | [] => none
  | p :: ps =>
    match c.leastQueued ch ps with
    | none => some p
    | some r => if c.queued r ch < c.queued p ch then some r else some p

/-- Switch ports eligible for a node: UP, on a plane not marked unreachable (R360, R389). -/
def Chip.switchPorts (c : Chip) (node : Nat) : List Nat :=
  (List.range 16).filter (fun p => c.portUp p && !(c.isBypass p) && !(bit (Tab.get 0 c.fab.reach node) (c.portOf p).plane))

/-- The UP ports of the bypass link. -/
def Chip.bypPorts (c : Chip) : List Nat := [14, 15].filter (fun p => c.isBypass p && c.portUp p)

/-- Port and link channel for a packet of the part's own units (R360, R380, R384); none: no port is eligible. -/
def Chip.spray (c : Chip) (node vc : Nat) : Option (Nat × Nat) :=
  if c.bypUp ∧ node = c.peer then (c.leastQueued vc c.bypPorts).map (fun p => (p, vc))
  else
    match c.leastQueued vc (c.switchPorts node) with
    | none => if c.bypUp ∧ c.fld pgCFB 0x008 1 1 = 1 then (c.leastQueued 2 c.bypPorts).map (fun p => (p, 2)) else none
    | some p =>
      if c.bypUp ∧ c.fld pgCFB 0x008 1 1 = 1 ∧ (c.bypPorts.map (fun q => c.queued q 2)).sum < c.queued p vc then
        (c.leastQueued 2 c.bypPorts).map (fun q => (q, 2))
      else some (p, vc)

/-- Whether a port may send a queued packet now: UP, credits for its whole size, room in the replay buffer (R363, R380). -/
def Port.canSend (x : Port) (p : EPkt) : Bool :=
  decide (x.st = .up) && decide ((p.bytes + 31) / 32 ≤ (x.tx[p.ch]?).getD 0) &&
    decide ((x.replay.map (fun r => r.2.bytes)).sum + p.bytes ≤ 131072)

/-- The next packet by the egress arbiter: VC1, VC4, VC2, then VC0 and VC3, LC level first and alternating within a level; a
channel whose first packet has no credits is passed over (R381). -/
def Port.pick (x : Port) : Option EPkt :=
  let head := fun (f : EPkt → Bool) => (x.queue.find? f).filter (fun p => x.canSend p)
  let pair := fun (lc : Bool) =>
    let a := head (fun p => decide (p.ch = 0) && p.lc == lc)
    let b := head (fun p => decide (p.ch = 3) && p.lc == lc)
    if if lc then x.turnLc else x.turn then b.or a else a.or b
  (head (fun p => decide (p.ch = 1))).or ((head (fun p => decide (p.ch = 4))).or ((head (fun p => decide (p.ch = 2))).or
    ((pair true).or (pair false))))

/-- Whose turn it is among VC0 and VC3 once a packet has been sent: the other's, at its level (R381). -/
def Port.turned (x : Port) (k : EPkt) : Port :=
  let next := fun (t : Bool) => if k.ch = 0 then true else if k.ch = 3 then false else t
  if k.lc then { x with turnLc := next x.turnLc } else { x with turn := next x.turn }

/-- Frames leave a port while its arbiter finds a packet (fuel: packets queued). -/
def Chip.drainPort (c : Chip) (p : Nat) : Nat → Chip
  | 0 => c
  | f + 1 =>
    let x := c.portOf p
    match x.pick with
    | none => c
    | some k =>
      let used := (k.bytes + 31) / 32
      let c := c.injFrame (pgCPT p)
      let at_ := c.fld (pgCPT p) 0x018 19 15
      let (flip, c) := c.injLink (pgCPT p) 2
      let sent := if flip then { k with hdr := k.hdr ^^^ (1#256 <<< at_) } else k
      let x := { x.turned k with
        queue := x.queue.erase k, replay := x.replay ++ [(x.txSeq, sent)], txSeq := (x.txSeq + 1) % 65536,
        tx := x.tx.modify k.ch (fun v => v - used) }
      let c := (((c.setPort p x).count (pgCPT p) 0 1).count (pgCPT p) 1 k.bytes).count (pgCPT p) 4 1
      let c := if k.fwd then (c.count (pgCPT p) 21 1).count pgCFB 18 1 else (c.count pgCFB 0 1).count pgCFB 1 k.bytes
      c.drainPort p f

/-- Queue a packet at a port's egress and send what can go. -/
def Chip.enqueue (c : Chip) (p : Nat) (k : EPkt) : Chip :=
  let x := c.portOf p
  (c.setPort p { x with queue := x.queue ++ [k] }).drainPort p (x.queue.length + 1)

/-! ## Headers (R365 to R369) -/

/-- Channel of a class (R366). -/
def vcOf (cls : Nat) : Nat := if cls ≤ 3 then 0 else if cls ≤ 5 then 1 else if cls = 6 then 3 else 4

/-- A header without source, tag, security and CRC (R365). -/
def mkHdr (cls node addr job len epoch : Nat) (ctr : Option Nat) (ord : Bool) : BitVec 256 :=
  BitVec.ofNat 256 ((node % 2 ^ 18) <<< 174 + (addr % 2 ^ 46) <<< 128 + (job % 2 ^ 16) <<< 94 + len <<< 67 + (ctr.getD 0 % 65536) <<< 51 +
    (b2n ctr.isSome) <<< 50 + (b2n ord) <<< 49 + vcOf cls <<< 46 + cls <<< 42 + (epoch % 256) <<< 34)

/-- A field of a header. -/
def hf (h : BitVec 256) (hi lo : Nat) : Nat := bits h.toNat hi lo

/-- ASCII of KSN-LINK (R481). -/
def sLink : List (BitVec 8) := [0x4B, 0x53, 0x4E, 0x2D, 0x4C, 0x49, 0x4E, 0x4B]

/-- The LINK key of a context under a generation. -/
def Chip.lKey (c : Chip) (x : Nat) (gen : Bool) : Option (BitVec 512) :=
  let k := c.keysOf x
  if gen then k.l1 else k.l0

/-- The context, generation and key under which a job is keyed on this die (R480). -/
def Chip.linkKey (c : Chip) (job : Nat) : Option (Nat × Bool × BitVec 512) :=
  match c.ctxOfJob job with
  | none => none
  | some (x, _) => (c.keysOf x).lCur.bind (fun g => (c.lKey x g).map (fun k => (x, g, k)))

/-- The authentication string T of a header under a header key (R481). -/
def linkT (key : BitVec 512) (h : Nat) : List (BitVec 8) :=
  Config.kmac (toBytes 32 (key.toNat >>> 256)) (toBytes 20 (h >>> 32)) 24 sLink

/-- Encryption and decryption of a payload under T (R481). -/
def linkCrypt (key : BitVec 512) (t : List (BitVec 8)) (data : List (BitVec 8)) : List (BitVec 8) :=
  Config.aesCtr (toBytes 32 key.toNat) (BitVec.ofNat 128 (ofBytes ((t.drop 8).take 16).reverse)) data

/-- CRC of header bits 255:32 (R368). -/
def hdrCrc (h : Nat) : Nat := crc32 (toBytes 28 (h >>> 32))

/-- The header and payload as the source port controller finishes them: source node, tag, keys, CRC (R365, R368, R481). -/
def Chip.sealPkt (c : Chip) (hdr : BitVec 256) (data : List (BitVec 8)) (tag : Nat) (tgen : Bool) :
    BitVec 256 × List (BitVec 8) × Option (Nat × Bool) :=
  let h := hdr.toNat + c.node <<< 110 + (b2n tgen) <<< 93 + tag <<< 79
  let cls := bits h 45 42
  match (if cls ≥ 7 then none else c.linkKey (bits h 109 94)) with
  | none => (BitVec.ofNat 256 (h + hdrCrc h), data, none)
  | some (x, g, key) =>
    let h := h + (b2n g) <<< 33 + 1 <<< 32
    let t := linkT key h
    let h := h + ofBytes (t.take 8) <<< 192
    (BitVec.ofNat 256 (h + hdrCrc h), linkCrypt key t data, some (x, g))

/-- ERR_INFO of a packet in CFB_ERR_STAT (R394). -/
def cfbInfo0 (h : Nat) : Nat := bits h 127 110 + bits h 45 42 <<< 18 + bits h 48 46 <<< 22
def cfbInfo1 (h : Nat) : Nat := bits h 109 94 + bits h 92 79 <<< 16

/-! ## Transaction tags (R375 to R378) -/

/-- Tags in use. -/
def Chip.tagsInUse (c : Chip) : Nat := c.fab.tags.length

/-- Tags in use that satisfy a predicate on their holder. -/
def Chip.tagsBy (c : Chip) (p : TagBy → Bool) : Nat :=
  (c.fab.tags.filter (fun e => match e.2 with | some t => p t.by_ | none => false)).length

/-- A holder is below its own limit of tags (R377). -/
def Chip.tagLimit (c : Chip) (b : TagBy) : Bool :=
  match b with
  | .copy q i => decide (c.tagsBy (fun x => match x with | .copy r j => decide (r = q) && decide (j = i) | _ => false) < 512)
  | .drover d _ _ _ => decide (c.tagsBy (fun x => match x with | .drover e _ _ _ => decide (e = d) | _ => false) < 192)
  | .signal _ _ | .notice _ _ | .unit _ _ =>
    decide (c.tagsBy (fun x => match x with | .signal _ _ | .notice _ _ | .unit _ _ => true | _ => false) < 512)
  | .coll s _ => decide (c.tagsBy (fun x => match x with | .coll r _ => decide (r = s) | _ => false) < (Tab.get default c.col.slots s).tags)
  | .mgmt => true

/-- Whether a holder may take one more tag: its own limit and the pool leave room (R377). -/
def Chip.tagRoom (c : Chip) (b : TagBy) : Bool := decide (c.tagsInUse < 15360) && c.tagLimit b

/-- A command's packet has completed: the command ends once nothing of it is outstanding (R244, R257). -/
def Chip.cmdPacket (c : Chip) (q : Nat) (i : BitVec 32) (st : Status) : Chip :=
  let c := c.modCmd q i (fun k =>
    if k.working then { k with left := k.left - 1, status := if k.status = .ok then st else k.status } else { k with left := k.left - 1 })
  match c.cmd? q i with
  | some k => if k.working ∧ k.fin ∧ k.left = 0 then c.endWork q i k.status k.info.toNat else c
  | none => c

/-- DISPATCH and RETURN commands that have completed run no longer (R97, R98). -/
def Chip.drunsEnd (c : Chip) : Chip :=
  { c with rd.drovers := c.rd.drovers.filter (fun (r : DRun) => match c.cmd? r.queue r.index with | some k => k.working | none => false) }

/-- The holder of a completed tag learns its status. -/
def Chip.tagDone (c : Chip) (b : TagBy) (st : Status) : Chip :=
  match b with
  | .copy q i => c.cmdPacket q i st
  | .drover d q i block =>
    let c := if st = .pathLost then
        let tag := ((c.cmd? q i).map (fun k => k.tag.toNat)).getD 0
        let seen := c.rd.drovers.any (fun (r : DRun) => decide (r.queue = q) && decide (r.index = i) &&
          r.clus.any (fun (x : DClu) => decide (x.cluster = d) && x.lost.contains block))
        if seen then c
        else
          let c := { c with rd.drovers := c.rd.drovers.map (fun (r : DRun) => if r.queue = q ∧ r.index = i then
            { r with clus := r.clus.map (fun (x : DClu) => if x.cluster = d then { x with lost := block :: x.lost } else x) } else r) }
          ((c.count (pgDRV d) 8 1).err (pgDRV d) 4 tag block).modCmd q i (fun k => { k with info := BitVec.ofNat 32 block })
      else c
    (c.cmdPacket q i st).drunsEnd
  | .signal q i =>
    match c.cmd? q i with
    | none => c
    | some k =>
      let turn := decide (k.status = .ok) && decide (st = .pathLost)
      let k := { k with sigWait := false, sigPos := k.sigPos + 1, status := if turn then .pathLost else k.status, endAt := c.time.tb }
      if turn then (c.setCmd k).queueFail k else c.setCmd k
  | .notice d tag => if st = .pathLost then (c.count (pgRTE d) 20 1).err (pgRTE d) 5 tag.toNat 0 else c
  | .unit q i => c.endWork q i st 0
  | .coll s p =>
    let x := Tab.get default c.col.slots s
    if st = .ok ∨ x.st = 0 ∨ x.st = 4 ∨ x.last ≠ some p.seq then c
    else if st = .pathLost ∧ p.tries < 3 ∧ p.ph ≠ 6 then
      ({ c with col.slots := Tab.put default c.col.slots s { x with again := x.again ++ [{ p with tries := p.tries + 1 }] } }).count pgCOL 8 1
    else
      let node := ofBytes (c.bytesAt (x.table + 64 + 4 * p.to_) 4) % 2 ^ 18
      let info := if st = .pathLost then bits x.op.toNat 192 187 + node <<< 14 else 0
      let c := if st = .pathLost then c.err pgCOL 9 x.tag.toNat info else c
      { c with col.slots := Tab.put default c.col.slots s { x with fail := some st, info := info, st := 4 } }
  | .mgmt => c

/-- A DRAINING job becomes FREE when its last tag is freed (R386). -/
def Chip.admSettle (c : Chip) (job : Nat) : Chip :=
  let a := c.admOf job
  let n := (c.fab.tags.filter (fun e => match e.2 with | some t => decide (t.job / 16 = job) | none => false)).length
  if a.st = 2 ∧ n = 0 then c.setAdm job { a with st := 0, next := (a.gen + 1) % 16 } else c

/-- Free a tag; TGEN toggles (R377). -/
def Chip.freeTag (c : Chip) (t : Nat) (st : Status) : Chip :=
  match c.tagOf t with
  | none => c
  | some x =>
    let c := c.setTag t none
    let c := { c with fab.gens := Tab.put false c.fab.gens t (!(Tab.get false c.fab.gens t)) }
    let c := if st = .pathLost then
        let c := c.count pgCFB 12 1
        match x.port with | some p => c.count (pgCPT p) 22 1 | none => c
      else c
    (c.tagDone x.by_ st).admSettle (x.job / 16)

/-- Tags whose flagged packet is held behind tag `o` of a node and job (R376). -/
def Chip.heldBehind (c : Chip) (node job o : Nat) : List Nat :=
  c.fab.tags.filterMap (fun e => match e.2 with
    | some y => if y.held.isSome ∧ y.node = node ∧ y.job = job ∧ y.order > o then some e.1 else none
    | none => none)

/-- An earlier packet to the same node and job is still open (R375). -/
def Chip.earlierOpen (c : Chip) (node job o : Nat) : Bool :=
  c.fab.tags.any (fun e => match e.2 with
    | some y => decide (y.node = node) && decide (y.job = job) && decide (y.order < o)
    | none => false)

/-- A tagged packet leaves by an eligible port, or completes with PATH_LOST (R360), and the flagged packets held behind it with it
(R376). -/
def Chip.launch (c : Chip) (t : Nat) (k : EPkt) : Chip :=
  match c.tagOf t with
  | none => c
  | some x =>
    match c.spray x.node (hf k.hdr 48 46) with
    | none => (t :: c.heldBehind x.node x.job x.order).foldl (fun c u => c.freeTag u .pathLost) c
    | some (p, ch) => (c.setTag t (some { x with held := none, port := some p })).enqueue p { k with ch := ch }

/-- Flagged packets that no earlier packet holds any more leave (R376); fuel counts them. -/
def Chip.releaseHeld (c : Chip) : Nat → Chip
  | 0 => c
  | f + 1 =>
    match c.fab.tags.findSome? (fun e => match e.2 with
      | some y => match y.held with
        | some k => if c.earlierOpen y.node y.job y.order then none else some (e.1, k)
        | none => none
      | none => none) with
    | none => c
    | some (t, k) => (c.launch t k).releaseHeld f

/-- A free tag, chosen freely among the free ones, gets a request's packet (R375 to R377). -/
def Chip.takeTag (c : Chip) (r : TxReq) : Chip :=
  let free := (List.range 16384).filter (fun t => decide (c.tagOf t = none))
  let (v, c) := c.freeVal 14
  let t := (free[v % max free.length 1]?).getD 0
  let o := c.fab.order
  let node := hf r.hdr 191 174
  let job := hf r.hdr 109 94
  let (h, d, g) := c.sealPkt r.hdr r.data t (Tab.get false c.fab.gens t)
  let k : EPkt := ⟨h, d, vcOf (hf h 45 42), r.lc, none⟩
  let hold := bit h.toNat 49 && c.earlierOpen node job o
  let x : Tag := { by_ := r.by_, node := node, job := job, order := o, held := if hold then some k else none, port := none,
                   since := c.time.ns, read := r.read, cls := hf h 45 42, kgen := g }
  let c := ({ c with fab.order := o + 1 }).setTag t (some x)
  let peak := max (c.fld pgCFB 0x20C 30 16) c.tagsInUse
  let c := c.setFld pgCFB 0x20C 30 16 peak
  if hold then c.count pgCFB 6 1 else c.launch t k

/-- A unit that hands over its packets one after another may hand over the next one: its own limit leaves room, and none of its
requests waits for the pool, which is shared in order of request (R377). -/
def Chip.mayAsk (c : Chip) (b : TagBy) : Bool :=
  let same := fun (x : TagBy) => match b, x with
    | .copy q i, .copy r j => decide (q = r) && decide (i = j)
    | .drover d _ _ _, .drover e _ _ _ => decide (d = e)
    | .coll s _, .coll r _ => decide (s = r)
    | _, _ => false
  c.tagLimit b && !(c.fab.wait.any (fun r => same r.by_))

/-- The requests of a holder that wait for a tag are withdrawn (R95, R266). -/
def Chip.dropWait (c : Chip) (p : TagBy → Bool) : Chip := { c with fab.wait := c.fab.wait.filter (fun r => !(p r.by_)) }

/-- Requests that may take a tag take it, in order of request (R377); fuel counts requests. -/
def Chip.pumpWait (c : Chip) : Nat → Chip
  | 0 => c
  | f + 1 =>
    match c.fab.wait.find? (fun r => c.tagRoom r.by_) with
    | none => c
    | some r => (({ c with fab.wait := c.fab.wait.erase r }).takeTag r).pumpWait f

/-- After tags were freed: held packets leave, waiting requests take tags. -/
def Chip.settle (c : Chip) : Chip :=
  let c := c.releaseHeld (c.fab.tags.length + 1)
  c.pumpWait (c.fab.wait.length + 1)

/-- A transaction completes (R371, R376): with PATH_LOST, the flagged packets held behind it complete with PATH_LOST too. -/
def Chip.completeTag (c : Chip) (t : Nat) (st : Status) : Chip :=
  match c.tagOf t with
  | none => c
  | some x =>
    let lost := if st = .pathLost then c.heldBehind x.node x.job x.order else []
    (lost.foldl (fun c u => c.freeTag u .pathLost) (c.freeTag t st)).settle

/-- Hand a packet of a unit to the fabric: it takes a tag, or waits for one (R377). -/
def Chip.txn (c : Chip) (by_ : TagBy) (hdr : BitVec 256) (data : List (BitVec 8)) (lc : Bool) (read : Option (Nat × Nat)) : Chip :=
  let c := { c with fab.wait := c.fab.wait ++ [TxReq.mk by_ hdr data lc read] }
  c.pumpWait (c.fab.wait.length + 1)

/-- A packet without a tag (ACK, READ_DATA, NOTICE) leaves; with no eligible port it is dropped (R372). -/
def Chip.sendReply (c : Chip) (hdr : BitVec 256) (data : List (BitVec 8)) (tag : Nat) (tgen : Bool) : Chip :=
  let (h, d, _) := c.sealPkt hdr data tag tgen
  match c.spray (hf h 191 174) (hf h 48 46) with
  | none => c.err pgCFB 13 (cfbInfo0 h.toNat) (cfbInfo1 h.toNat)
  | some (p, ch) => c.enqueue p ⟨h, d, ch, true, none⟩

/-- TXN_TIMEOUT (R378). -/
def Chip.txnTimeout (c : Chip) (t : Nat) : Chip :=
  let code := c.fld pgCFB 0x208 4 0
  match c.tagOf t with
  | none => c
  | some x =>
    if code = 31 ∨ c.time.ns ≤ x.since + 2 ^ code * 1000 then c
    else
      let c := c.count pgCFB 11 1
      let c := c.err pgCFB 4 (c.node + x.cls <<< 18 + vcOf x.cls <<< 22) (x.job + t <<< 16)
      c.completeTag t .pathLost

/-! ## Acknowledgements (R372) -/

/-- Send the ACK of one pair; ACKS_OUT counts it where a port is eligible. -/
def Chip.ackSend (c : Chip) (a : AckPair) : Chip :=
  let data := a.entries.flatMap (fun e => toBytes 4 e.toNat)
  (c.sendReply (mkHdr 5 a.node 0 a.job data.length 0 none false) data 0 false).count pgCFB 4 (b2n (c.spray a.node 1).isSome)

/-- Send the pair of a node and job, if it holds entries. -/
def Chip.ackFlushPair (c : Chip) (node job : Nat) : Chip :=
  match c.fab.acks.find? (fun a => decide (a.node = node) && decide (a.job = job)) with
  | none => c
  | some a => ({ c with fab.acks := c.fab.acks.erase a }).ackSend a

/-- Queue an acknowledgement entry: 64 entries flush their pair; a new pair that finds 512 flushes the oldest (R372). -/
def Chip.ackPush (c : Chip) (node job : Nat) (tgen : Bool) (tag : Nat) (st : Status) : Chip :=
  let e := BitVec.ofNat 32 ((b2n tgen) <<< 29 + tag <<< 15 + st.code <<< 11)
  match c.fab.acks.find? (fun a => decide (a.node = node) && decide (a.job = job)) with
  | some a =>
    let a' := { a with entries := a.entries ++ [e] }
    let c := { c with fab.acks := c.fab.acks.map (fun x => if x = a then a' else x) }
    if a'.entries.length ≥ 64 then c.ackFlushPair node job else c
  | none =>
    let c := match c.fab.acks with
      | a :: t => if c.fab.acks.length ≥ 512 then ({ c with fab.acks := t }).ackSend a else c
      | [] => c
    { c with fab.acks := c.fab.acks ++ [AckPair.mk node job [e]] }

/-- ACK_FLUSH (R372): 32 FCLK cycles after a pair's first entry, the pairs of a node are sent. -/
def Chip.ackFlush (c : Chip) (node : Nat) : Chip :=
  (c.fab.acks.filter (fun a => decide (a.node = node))).foldl (fun c a => c.ackFlushPair a.node a.job) c

/-! ## Admission (R386) -/

/-- ADMIT. -/
def Chip.admitJob (c : Chip) (job gen : Nat) : Chip :=
  let c := c.injW pgCFB 0
  let a := c.admOf job
  if a.st = 0 ∧ (gen + 16 - a.next) % 16 ≤ 7 then c.setAdm job { a with st := 1, gen := gen } else c.badWrite pgCFB

/-- DRAIN: ADMITTED becomes DRAINING. -/
def Chip.drain (c : Chip) (job : Nat) : Chip :=
  let a := c.admOf job
  if a.st = 1 then (c.setAdm job { a with st := 2 }).admSettle job else c

/-- REMOVE: DRAINING becomes FREE, and the job's tags complete with ABORTED. -/
def Chip.remove (c : Chip) (job : Nat) : Chip :=
  let a := c.admOf job
  if a.st ≠ 2 then c
  else
    let ts := c.fab.tags.filterMap (fun e => match e.2 with | some t => if t.job / 16 = job then some e.1 else none | none => none)
    let c := c.setAdm job { a with st := 0, next := (a.gen + 1) % 16 }
    (ts.foldl (fun c t => c.freeTag t .aborted) c).settle

/-! ## Reachability and notices (R389, R390) -/

/-- A packet of the transaction with tag t and generation bit g (R377); replies and notices carry another's tag or none. -/
def EPkt.isOf (k : EPkt) (t : Nat) (g : Bool) : Bool :=
  !k.fwd && !([4, 5, 7].contains (hf k.hdr 45 42)) && decide (hf k.hdr 92 79 = t) && (bit k.hdr.toNat 93 == g)

/-- The transaction's packet still waits in the egress queue of port p. -/
def Chip.unsent (c : Chip) (p t : Nat) : Bool := (c.portOf p).queue.any (fun k => k.isOf t (Tab.get false c.fab.gens t))

/-- A path notice from a neighbour or a switch, in a packet of header h: its marks, and the end of the transactions whose packets
left by a named plane (R389). -/
def Chip.pathNotice (c : Chip) (h v : Nat) : Chip :=
  let node := bits v 63 46
  let planes := bits v 45 30
  let c := (c.count pgCFB 13 1).err pgCFB 5 (cfbInfo0 h) (cfbInfo1 h)
  let c := c.raise 268
  if node = c.node then c
  else
    let was := Tab.get 0 c.fab.reach node
    if bits v 29 28 = 1 then { c with fab.reach := Tab.put 0 c.fab.reach node (was &&& (65535 - planes)) }
    else
      let c := { c with fab.reach := Tab.put 0 c.fab.reach node (was ||| planes) }
      let ts := c.fab.tags.filterMap (fun e => match e.2 with
        | some t => match t.port with
          | some p => if t.node = node ∧ !(c.isBypass p) ∧ bit planes (c.portOf p).plane ∧ !(c.unsent p e.1) then some e.1 else none
          | none => none
        | none => none)
      ts.foldl (fun c t => c.completeTag t .pathLost) c

/-- Tell every UP switch port that the peer is lost (KIND 0) or restored (KIND 1) (R390). -/
def Chip.peerNotice (c : Chip) (kind : Nat) : Chip :=
  let ps := (List.range 16).filter (fun p => c.portUp p && !(c.isBypass p))
  let planes := ps.foldl (fun a p => a ||| 2 ^ (c.portOf p).plane) 0
  ps.foldl (fun c p =>
    let data := toBytes 8 (c.peer <<< 46 + planes <<< 30 + kind <<< 28)
    let (h, d, _) := c.sealPkt (mkHdr 7 0 0 0 8 0 none false) data 0 false
    (c.enqueue p ⟨h, d, 4, true, none⟩).count pgCFB 14 1) c

/-! ## Port states (R364, R388, R390) -/

/-- A port changes its state, which raises FAB_PATH (R364). -/
def Chip.portState (c : Chip) (p : Nat) (st : LinkSt) : Chip :=
  let x := c.portOf p
  if x.st = st then c else (c.setPort p { x with st := st }).raise 268

/-- What a port that leaves UP does with its packets (R388, R390). -/
def Chip.portLost (c : Chip) (p : Nat) (st : LinkSt) : Chip :=
  let x := c.portOf p
  let was := c.bypUp
  let c := c.setPort p { x with queue := [], replay := [], tx := [0, 0, 0, 0, 0], txSeq := 0, rxSeq := 0, rxWait := false, replays := 0 }
  let c := c.portState p st
  let open_ := fun (c : Chip) (k : EPkt) =>
    let t := hf k.hdr 92 79
    (c.tagOf t).isSome && k.isOf t (Tab.get false c.fab.gens t)
  let c := x.queue.foldl (fun c k =>
    if k.fwd then c.count pgCFB 19 1 |>.err pgCFB 11 (cfbInfo0 k.hdr.toNat) (cfbInfo1 k.hdr.toNat)
    else if hf k.hdr 45 42 = 7 then c
    else if hf k.hdr 45 42 = 4 ∨ hf k.hdr 45 42 = 5 then
      match c.spray (hf k.hdr 191 174) (hf k.hdr 48 46) with
      | some (r, ch) => c.enqueue r { k with ch := ch }
      | none => c.err pgCFB 13 (cfbInfo0 k.hdr.toNat) (cfbInfo1 k.hdr.toNat)
    else if open_ c k then c.launch (hf k.hdr 92 79) k
    else
      match c.spray (hf k.hdr 191 174) (hf k.hdr 48 46) with
      | some (r, ch) => c.enqueue r { k with ch := ch }
      | none => c) c
  let c := x.replay.foldl (fun c r => if open_ c r.2 then c.completeTag (hf r.2.hdr 92 79) .pathLost else c) c
  let c := c.settle
  if was ∧ ¬ c.bypUp then
    let c := (List.range 14).foldl (fun c r =>
      let y := c.portOf r
      let (drop, keep) := y.queue.partition (fun k => k.fwd && decide (hf k.hdr 191 174 = c.peer))
      drop.foldl (fun c k => c.count pgCFB 19 1 |>.err pgCFB 11 (cfbInfo0 k.hdr.toNat) (cfbInfo1 k.hdr.toNat))
        (c.setPort r { y with queue := keep })) c
    c.peerNotice 0
  else c

/-- PORT_DOWN (R364, R388): the port goes DOWN with the lanes still locked, and trains again (R364; log 157). -/
def Chip.portDown (c : Chip) (p lanes : Nat) : Chip :=
  if ¬ c.portUp p then c
  else
    let x := c.portOf p
    let c := c.setPort p { x with lanes := lanes }
    let c := ((c.count (pgCPT p) 11 1).count (pgCPT p) 12 1).err (pgCPT p) 2 0 lanes
    c.portLost p .down

/-- CPT_ENABLE (R359, R364, R396). -/
def Chip.cptEnable (c : Chip) (p v : Nat) : Chip :=
  let x := c.portOf p
  if bit v 0 then
    if c.fld pgCFB 0x200 31 31 = 0 then c.badWrite (pgCPT p)
    else
      let c := c.setFld (pgCPT p) 0x008 0 0 1
      if x.st = .disabled then c.portState p .training else c
  else
    let c := c.setFld (pgCPT p) 0x008 0 0 0
    let c := if x.st = .up then (c.count (pgCPT p) 11 1).err (pgCPT p) 2 0 x.lanes |>.portLost p .disabled else c.portState p .disabled
    let y := c.portOf p
    c.setPort p { y with lanes := 0, kind := false, plane := 0, node := 0, attempts := 0, step := 0 }

/-- CPT_CTRL.RETRAIN: the port leaves FAILED or UP and trains again (R396). -/
def Chip.cptRetrain (c : Chip) (p : Nat) : Chip :=
  let x := c.portOf p
  if x.st = .up then
    ((c.count (pgCPT p) 12 1).count (pgCPT p) 11 1).err (pgCPT p) 2 0 x.lanes |>.portLost p .training
  else if x.st = .failed then
    let c := (c.setPort p { x with attempts := 0 }).count (pgCPT p) 12 1
    c.portState p .training
  else c

/-- A port that is DOWN trains again (R364). -/
def Chip.portTrains (c : Chip) (p : Nat) : Chip := if (c.portOf p).st = .down then c.portState p .training else c

/-- Every port that is DOWN trains again. -/
def Chip.portsTrain (c : Chip) : Chip := (List.range 16).foldl (fun c p => c.portTrains p) c

/-- An attempt of a port in TRAINING fails at a step (R364). -/
def Chip.trainFails (c : Chip) (p step : Nat) : Chip :=
  let x := c.portOf p
  let c := c.setPort p { x with attempts := x.attempts + 1, step := step }
  if x.attempts + 1 ≥ 4 then (c.err (pgCPT p) 3 0 x.lanes).portState p .failed else (c.count (pgCPT p) 12 1).portState p .down

/-- The checks of step 3 fail: the port goes to FAILED with an error bit (R357, R358). -/
def Chip.checkFails (c : Chip) (p b : Nat) : Chip := ((c.setPort p { c.portOf p with step := 3 }).err (pgCPT p) b 0 0).portState p .failed

/-- Another UP switch port reaches a plane (R357). -/
def Chip.planeDup (c : Chip) (p plane : Nat) : Bool :=
  (List.range 16).any (fun s => decide (s ≠ p) && c.portUp s && !(c.isBypass s) && decide ((c.portOf s).plane = plane))

/-- PORT_TRAINED (R357, R358, R364): a training attempt of a port ends. The parameters of step 2 stay once that step has passed. -/
def Chip.portTrained (c : Chip) (p : Nat) (r : PortPeer) : Chip :=
  let c := c.portTrains p
  let x := c.portOf p
  if x.st ≠ .training then c
  else
    let c := c.setPort p { x with lanes := r.lanes.toNat }
    if r.fail = 1 ∨ r.fail = 2 then c.trainFails p r.fail.toNat
    else
      let c := c.setPort p { c.portOf p with kind := r.module, plane := if r.module then 0 else r.plane.toNat,
                                             node := if r.module then r.node.toNat else 0 }
      if c.isBypass p ∧ ¬ (r.module ∧ r.node.toNat = c.peer ∧ r.bypass ∧ r.port.toNat = p) then c.checkFails p 5
      else if ¬ c.isBypass p ∧ c.planeDup p (c.portOf p).plane then c.checkFails p 4
      else if r.fail ≠ 0 then c.trainFails p r.fail.toNat
      else
        let was := c.bypUp
        let c := (c.setPort p { c.portOf p with attempts := 0, tx := r.credits.map BitVec.toNat }).portState p .up
        if c.isBypass p ∧ ¬ was then c.peerNotice 1 else c

/-! ## Frames (R363, R380) -/

/-- Frames of a port acknowledged up to a sequence number leave the replay buffer. -/
def Port.acked (x : Port) (ack : Nat) : Port :=
  match x.replay with
  | [] => x
  | (s, _) :: _ =>
    let n := (ack + 65536 - s) % 65536
    if n = 0 ∨ n > x.replay.length then x else { x with replay := x.replay.drop n, replays := 0 }

/-- FRAME on a Caind port: discarded unless the port is UP; checked; its acknowledgement and credits taken. -/
def Chip.portFrame (c : Chip) (p : Nat) (f : FrameIn) : Chip :=
  let x := c.portOf p
  let page := pgCPT p
  if x.st = .disabled then c
  else if x.st ≠ .up then c.count page 23 1
  else
    let c := c.count page 6 f.symbols.toNat
    if ¬ f.fecOk then ((c.setPort p { x with rxWait := true }).count page 7 1).err page 0 f.seq.toNat 0
    else if ¬ f.crcOk then ((c.setPort p { x with rxWait := true }).count page 8 1).err page 1 f.seq.toNat 0
    else if f.seq.toNat ≠ x.rxSeq then c
    else
      let x := x.acked f.ack.toNat
      let x := { x with rxSeq := (x.rxSeq + 1) % 65536, rxWait := false,
                        tx := (List.zip x.tx (f.credits.map BitVec.toNat ++ List.replicate 5 0)).map (fun e => e.1 + e.2) }
      ((c.setPort p x).count page 5 1).drainPort p (x.queue.length + 1)

/-- REPLAY on a Caind port: frames from the requested one go again, in order; a request that finds 8 replays of the frame failed
takes the port DOWN (R363; log 156). -/
def Chip.portReplay (c : Chip) (p ack : Nat) : Chip :=
  let x := c.portOf p
  let page := pgCPT p
  if x.st ≠ .up then c
  else
    let y := x.acked ack
    if y.replay = [] then c.setPort p y
    else if y.replays ≥ 8 then ((c.setPort p y).err page 10 ack 0).portDown p x.lanes
    else ((c.setPort p { y with replays := y.replays + 1 }).count page 9 1).count page 10 y.replay.length

end Sys2Proof.Machine
end

