-- ==== Sys2Proof/Machine/Flags.lean ====
section
/-!
DEFINITION. The arithmetic of the number formats, bit for bit (R124 to R135): exact values, rounding to nearest even and
stochastic rounding, block steps, MX packing, Philox4x32-10. Exact results are formed first and rounded once. (The part has
no flag register; this file holds what its results are computed with.)
-/

namespace Sys2Proof.Machine

/-- An exact value: a NaN, an infinity, or ± m × 2^e. -/
inductive FV where
  | nan
  | inf (neg : Bool)
  | fin (neg : Bool) (m : Nat) (e : Int)
  deriving DecidableEq, Repr, Inhabited

/-- Element formats, coded as R186 codes them; 9 is FP32. Mantissa bits, exponent bits, bias (R128). -/
def fmtShape (f : Nat) : Nat × Nat × Nat :=
  match f with
  | 0 => (1, 2, 1)
  | 1 => (3, 2, 1)
  | 2 => (2, 3, 3)
  | 3 => (3, 4, 7)
  | 4 => (2, 5, 15)
  | 6 => (3, 4, 7)
  | 7 => (2, 5, 15)
  | 8 => (7, 8, 127)
  | _ => (23, 8, 127)

/-- Bits per element (R128). -/
def fmtBits (f : Nat) : Nat :=
  match f with
  | 0 => 4
  | 1 => 6
  | 2 => 6
  | 8 => 16
  | 9 => 32
  | _ => 8

/-- The format has block scales (R145). -/
def fmtScaled (f : Nat) : Bool := decide (f < 6)

/-- Code of the largest finite magnitude (R128). -/
def fmtMax (f : Nat) : Nat :=
  match f with
  | 0 => 0x7
  | 1 => 0x1F
  | 2 => 0x1F
  | 3 => 0x7E
  | 4 => 0x7B
  | 5 => 127
  | 6 => 0x7E
  | 7 => 0x7B
  | 8 => 0x7F7F
  | _ => 0x7F7FFFFF

/-- emax of an MX element format (R128). -/
def fmtEmax (f : Nat) : Int :=
  match f with
  | 0 => 2
  | 1 => 2
  | 2 => 4
  | 3 => 8
  | 4 => 15
  | _ => 0

/-- An element as an exact value (R128, R130). -/
def decodeElem (f v : Nat) : FV :=
  if f = 5 then
    let n := toSigned 8 v
    .fin (decide (n < 0)) n.natAbs (-6)
  else
    let (mb, eb, bias) := fmtShape f
    let neg := bit v (mb + eb)
    let ef := bits v (mb + eb - 1) mb
    let fr := bits v (mb - 1) 0
    let top := 2 ^ eb - 1
    if (f = 3 ∨ f = 6) ∧ ef = top ∧ fr = 7 then .nan
    else if (f = 4 ∨ f = 7 ∨ f = 8 ∨ f ≥ 9) ∧ ef = top then (if fr = 0 then .inf neg else .nan)
    else if ef = 0 then .fin neg fr (1 - (bias : Int) - mb)
    else .fin neg (fr + 2 ^ mb) ((ef : Int) - bias - mb)

/-- FP32 as an exact value. -/
def f32 (v : Nat) : FV := decodeElem 9 v

/-- The signed integer that ± m × 2^e is in units of 2^u, for u at most e. -/
def FV.units (neg : Bool) (m : Nat) (e u : Int) : Int :=
  let k : Int := ((m <<< (e - u).toNat : Nat) : Int)
  if neg then -k else k

/-- Exact sum; an exact zero is +0 unless both terms are −0 (IEEE 754 addition). -/
def FV.add : FV → FV → FV
  | .nan, _ => .nan
  | _, .nan => .nan
  | .inf a, .inf b => if a = b then .inf a else .nan
  | .inf a, .fin _ _ _ => .inf a
  | .fin _ _ _, .inf b => .inf b
  | .fin n1 m1 e1, .fin n2 m2 e2 =>
    let u := min e1 e2
    let s := FV.units n1 m1 e1 u + FV.units n2 m2 e2 u
    if s = 0 then .fin (m1 = 0 && m2 = 0 && n1 && n2) 0 0 else .fin (decide (s < 0)) s.natAbs u

/-- Exact negation. -/
def FV.neg : FV → FV
  | .nan => .nan
  | .inf a => .inf (!a)
  | .fin n m e => .fin (!n) m e

/-- Exact product; ∞ × 0 is NaN. -/
def FV.mul : FV → FV → FV
  | .nan, _ => .nan
  | _, .nan => .nan
  | .inf a, .inf b => .inf (a != b)
  | .inf a, .fin n m _ => if m = 0 then .nan else .inf (a != n)
  | .fin n m _, .inf b => if m = 0 then .nan else .inf (n != b)
  | .fin n1 m1 e1, .fin n2 m2 e2 => .fin (n1 != n2) (m1 * m2) (e1 + e2)

/-- Exact scaling by a power of two. -/
def FV.scale (k : Int) : FV → FV
  | .fin n m e => .fin n m (e + k)
  | x => x

/-- Where a magnitude m × 2^e stands among the codes of a format with mb mantissa bits and least normal exponent emin: the
code of the value at or below it, and the fraction above that code as a pair (numerator, denominator). -/
def magFloor (mb : Nat) (emin : Int) (m : Nat) (e : Int) : Nat × Nat × Nat :=
  if m = 0 then (0, 0, 1)
  else
    let lead : Int := e + (Nat.log2 m : Int)
    let q : Int := max (lead - mb) (emin - mb)
    let base : Nat := (q - (emin - mb)).toNat * 2 ^ mb
    if q ≤ e then (base + m <<< (e - q).toNat, 0, 1)
    else
      let d := 2 ^ (q - e).toNat
      (base + m / d, m % d, d)

/-- Round to nearest even: the code of the magnitude (R131). -/
def magRne (mb : Nat) (emin : Int) (m : Nat) (e : Int) : Nat :=
  let (c, r, d) := magFloor mb emin m e
  if 2 * r > d ∨ (2 * r = d ∧ c % 2 = 1) then c + 1 else c

/-- Stochastic rounding with the word u: to the upper neighbour when ⌊f × 2³²⌋ > u (R132). -/
def magSr (mb : Nat) (emin : Int) (m : Nat) (e : Int) (u : Nat) : Nat :=
  let (c, r, d) := magFloor mb emin m e
  if r = 0 then c else if r * 2 ^ 32 / d > u then c + 1 else c

/-- FP32 rounding, once, to nearest even; a NaN is 0x7FC0_0000 (R124, R125). -/
def FV.toF32 : FV → Nat
  | .nan => 0x7FC00000
  | .inf n => if n then 0xFF800000 else 0x7F800000
  | .fin n m e =>
    let c := magRne 23 (-126) m e
    (if n then 0x80000000 else 0) + min c 0x7F800000

/-- FP32 addition, product and fused multiply-add, each rounded once. -/
def fadd (a b : Nat) : Nat := (FV.add (f32 a) (f32 b)).toF32
def fsub (a b : Nat) : Nat := (FV.add (f32 a) (FV.neg (f32 b))).toF32
def fmul (a b : Nat) : Nat := (FV.mul (f32 a) (f32 b)).toF32
def ffma (a b c : Nat) : Nat := (FV.add (FV.mul (f32 a) (f32 b)) (f32 c)).toF32

/-- Exact quotient rounded once to FP32, to nearest even: 64 more bits than FP32 keeps, the last one sticky. -/
def fdiv (a b : Nat) : Nat :=
  match f32 a, f32 b with
  | .nan, _ => 0x7FC00000
  | _, .nan => 0x7FC00000
  | .inf _, .inf _ => 0x7FC00000
  | .inf n, .fin n' _ _ => (FV.inf (n != n')).toF32
  | .fin n _ _, .inf n' => (FV.fin (n != n') 0 0).toF32
  | .fin n m e, .fin n' m' e' =>
    if m' = 0 then (if m = 0 then 0x7FC00000 else (FV.inf (n != n')).toF32)
    else
      let k := 128 + Nat.log2 m'
      let q := (m <<< k) / m'
      let s := if (m <<< k) % m' = 0 then 0 else 1
      (FV.fin (n != n') (2 * q + s) (e - e' - k - 1)).toF32

/-- a < b on exact values; false when either is NaN. -/
def FV.less (a b : FV) : Bool :=
  match a, b with
  | .nan, _ => false
  | _, .nan => false
  | .inf n, .inf n' => n && !n'
  | .inf n, .fin _ _ _ => n
  | .fin _ _ _, .inf n => !n
  | .fin n m e, .fin n' m' e' =>
    let u := min e e'
    decide (FV.units n m e u < FV.units n' m' e' u)

/-- a < b on FP32; false when either is NaN. -/
def fless (a b : Nat) : Bool := FV.less (f32 a) (f32 b)

/-- a is a NaN. -/
def fnan (a : Nat) : Bool := f32 a = .nan

/-- a is ±0. -/
def fzero (a : Nat) : Bool := a % 2 ^ 31 = 0

/-! ## Block step (R124, R125) -/

/-- The scale 2^(s − 127) of a scale byte (R129). -/
def e8m0 (s : Nat) : Int := (s : Int) - 127

/-- V of a block step: the exact scaled dot product. -/
def blockV (fr fc : Nat) (as bs : List Nat) (sa sb : Nat) : FV :=
  if (fmtScaled fr && sa = 255) || (fmtScaled fc && sb = 255) then .nan
  else
    let p := (List.zip as bs).foldl (fun acc ab => FV.add acc (FV.mul (decodeElem fr ab.1) (decodeElem fc ab.2))) (.fin false 0 0)
    match FV.scale ((if fmtScaled fr then e8m0 sa else 0) + (if fmtScaled fc then e8m0 sb else 0)) p with
    | .fin _ 0 _ => .fin false 0 0
    | v => v

/-- The accumulator after a block step: acc + V rounded once (R124). -/
def blockStep (acc fr fc : Nat) (as bs : List Nat) (sa sb : Nat) : Nat := (FV.add (f32 acc) (blockV fr fc as bs sa sb)).toF32

/-- Cycles a block step occupies; none for a reserved pairing (R126). -/
def stepLen (fr fc : Nat) : Option Nat :=
  if fr > 8 ∨ fc > 8 then none
  else if fr = 8 ∧ fc = 8 then some 4
  else if fr = 8 ∨ fc = 8 then none
  else if fr = 0 ∧ fc = 0 then some 1
  else some 2

/-- Elements of a stream of bytes, w bits each, element 0 in the lowest bits. -/
def elems (w n : Nat) (bs : List (BitVec 8)) : List Nat :=
  let v := ofBytes bs
  (List.range n).map (fun i => (v >>> (w * i)) % 2 ^ w)

/-! ## Conversions (R131 to R135) -/

/-- Philox4x32-10 round. -/
def philoxRound (c : Nat × Nat × Nat × Nat) (k0 k1 : Nat) : Nat × Nat × Nat × Nat :=
  let (c0, c1, c2, c3) := c
  let p0 := 0xD2511F53 * c0
  let p1 := 0xCD9E8D57 * c2
  ((p1 >>> 32) ^^^ c1 ^^^ k0, p1 % 2 ^ 32, (p0 >>> 32) ^^^ c3 ^^^ k1, p0 % 2 ^ 32)

/-- n rounds with the key advancing by the Weyl constants. -/
def philoxN : Nat → Nat × Nat × Nat × Nat → Nat → Nat → Nat × Nat × Nat × Nat
  | 0, c, _, _ => c
  | n + 1, c, k0, k1 => philoxN n (philoxRound c k0 k1) ((k0 + 0x9E3779B9) % 2 ^ 32) ((k1 + 0xBB67AE85) % 2 ^ 32)

/-- The rounding word for element index m: seed, tensor ID and job as R133 places them. -/
def srWord (seed tensor job m : Nat) : Nat :=
  let q := m / 4
  let c := philoxN 10 (q % 2 ^ 32, (q >>> 32) % 2 ^ 16 + (job % 2 ^ 16) <<< 16, tensor % 2 ^ 32, 0)
    (seed % 2 ^ 32) ((seed >>> 32) % 2 ^ 32)
  match m % 4 with
  | 0 => c.1
  | 1 => c.2.1
  | 2 => c.2.2.1
  | _ => c.2.2.2

/-- How a conversion rounds: to nearest even, or stochastically with the element's word (R131). -/
inductive Rnd where
  | rne
  | sr (u : Nat)
  deriving DecidableEq, Repr

/-- The rounded code of a magnitude. -/
def magRnd (r : Rnd) (mb : Nat) (emin : Int) (m : Nat) (e : Int) : Nat :=
  match r with
  | .rne => magRne mb emin m e
  | .sr u => magSr mb emin m e u

/-- FP32 narrowed to BF16 (8), FP8 E4M3 (6) or FP8 E5M2 (7), with SAT or INF (R134). -/
def narrow (f : Nat) (inf : Bool) (r : Rnd) (x : Nat) : Nat :=
  let (mb, eb, bias) := fmtShape f
  let sign := fun (n : Bool) => if n then 2 ^ (mb + eb) else 0
  let ovf := if inf then (if f = 6 then 0x7F else (2 ^ eb - 1) * 2 ^ mb) else fmtMax f
  match f32 x with
  | .nan => if f = 8 then 0x7FC0 else 0x7F
  | .inf n => sign n + ovf
  | .fin n m e =>
    let c := magRnd r mb (1 - (bias : Int)) m e
    if c > fmtMax f then sign n + ovf else sign n + c

/-- ⌊log₂ |x|⌋ of a finite non-zero value. -/
def FV.log2 : FV → Int
  | .fin _ m e => e + (Nat.log2 m : Int)
  | _ => 0

/-- |x| as an FP32 code, whose order is the order of magnitudes. -/
def fabs (x : Nat) : Nat := x % 2 ^ 31

/-- One MX element of x × 2^(−X): rounded and saturated; a zero element has a clear sign (R135). -/
def mxElem (f : Nat) (r : Rnd) (X : Int) (x : Nat) : Nat :=
  match f32 x with
  | .fin n m e =>
    if f = 5 then
      -- MXINT8: multiples of 2⁻⁶, at most 127
      let c := magRnd r 30 24 m (e - X)   -- every code unit is 2^(24 − 30) = 2⁻⁶ below 2²⁴
      let k := min c 127
      if k = 0 then 0 else if n then 256 - k else k
    else
      let (mb, eb, bias) := fmtShape f
      let c := min (magRnd r mb (1 - (bias : Int)) m (e - X)) (fmtMax f)
      if c = 0 then 0 else (if n then 2 ^ (mb + eb) else 0) + c
  | _ => 0

/-- MX packing of 32 values: scale byte and element codes; rnd gives the rounding of element i (R135). -/
def mxPack (f : Nat) (rnd : Nat → Rnd) (xs : List Nat) : Nat × List Nat :=
  if xs.any (fun x => decide (fabs x ≥ 0x7F800000)) then (255, xs.map (fun _ => 0))
  else
    let amax := xs.foldl (fun a x => max a (fabs x)) 0
    if amax = 0 then (0, xs.map (fun _ => 0))
    else
      let X0 := (f32 amax).log2 - fmtEmax f
      let X := max (-127) (min 127 X0)
      ((X + 127).toNat, (List.zip (List.range xs.length) xs).map (fun ix => mxElem f (rnd ix.1) X ix.2))

/-- An element widened to FP32, with its block scale where one is given (R131). -/
def widen (f v : Nat) (scale : Option Nat) : Nat :=
  match scale with
  | some 255 => 0x7FC00000
  | some s => (FV.scale (e8m0 s) (decodeElem f v)).toF32
  | none => (decodeElem f v).toF32

/-! ## exp and the sigmoid, correctly rounded (R50) -/

/-- Fixed-point precision of the series, in bits. -/
def expP : Nat := 256

/-- ln 2 in units of 2⁻²⁵⁶: Σ 1 ÷ (k 2^k). -/
def ln2Fix : Nat := (List.range 262).foldl (fun s k => s + (2 ^ 320) / ((k + 1) * 2 ^ (k + 1))) 0 / 2 ^ 64

/-- Σ r^k ÷ k! for r in units of 2⁻²⁵⁶: n more terms after the term given. -/
def expSeries : Nat → Nat → Int → Int → Int → Int
  | 0, _, _, _, acc => acc
  | n + 1, k, r, t, acc =>
    let t' := t * r / (((2 ^ expP : Nat) : Int) * k)
    expSeries n (k + 1) r t' (acc + t')

/-- exp of ± m × 2^e, as (significand in units of 2⁻²⁵⁶, power of two): |e^x − s 2^(k−256)| far below half a last place. -/
def expFix (x : FV) : Int × Int :=
  match x with
  | .fin n m e =>
    let xi : Int := if e + expP ≥ 0 then ((m <<< (e + expP).toNat : Nat) : Int) else ((m >>> (-(e + expP)).toNat : Nat) : Int)
    let xi := if n then -xi else xi
    let k := xi / (ln2Fix : Int)
    let r := xi - k * ln2Fix
    (expSeries 80 1 r ((2 ^ expP : Nat) : Int) ((2 ^ expP : Nat) : Int), k)
  | _ => (((2 ^ expP : Nat) : Int), 0)

/-- exp(x) of an exact value, rounded once to FP32 (R50). -/
def expF32 (x : FV) : Nat :=
  match x with
  | .nan => 0x7FC00000
  | .inf n => if n then 0 else 0x7F800000
  | .fin n m e =>
    if m = 0 then 0x3F800000
    else if e + (Nat.log2 m : Int) ≥ 8 then (if n then 0 else 0x7F800000)
    else if e + (Nat.log2 m : Int) < -40 then 0x3F800000
    else
      let (s, k) := expFix x
      (FV.fin false s.toNat (k - expP)).toF32

/-- 1 ÷ (1 + exp(−x)), rounded once to FP32 (R50). -/
def sigmoidF32 (x : Nat) : Nat :=
  match f32 x with
  | .nan => 0x7FC00000
  | .inf n => if n then 0 else 0x3F800000
  | .fin n m e =>
    if m = 0 ∨ e + (Nat.log2 m : Int) < -40 then 0x3F000000
    else if e + (Nat.log2 m : Int) ≥ 8 then (if n then 0 else 0x3F800000)
    else
      let (s, k) := expFix (.fin (!n) m e)
      let one : Nat := 2 ^ (2 * expP)
      -- exp(−x) in units of 2⁻⁵¹²
      let ex : Nat := if k + expP ≥ 0 then s.toNat <<< (k + expP).toNat else s.toNat >>> (-(k + expP)).toNat
      (FV.fin false ((one <<< expP) / (one + ex)) (-(expP : Int))).toF32

end Sys2Proof.Machine
end

