-- ==== Sys2Proof/Machine/Operands.lean ====
section
/-!
DEFINITION. The operand forms of the engines: queues of local memory (R204 to R206), queue traces (R230), and the addresses
that the LDE and STE form (R216, R217, R219).
-/

namespace Sys2Proof.Machine

/-- Raise a scheduling fault in the current cycle (R224); an operation is recorded once, with what it met first (R226). `part` is 0
at its issue, 1 in its port cycle, 2 at its results. -/
def Chip.sfault (c : Chip) (n engine cause : Nat) (q : Option Nat) (bundle : Nat) (part : Nat := 0) : Chip :=
  let k := c.coreOf n
  if k.faults.any (fun f => decide (f.engine = engine) && decide (f.bundle = bundle) && decide (f.part = part)) then c
  else c.setCore n { k with faults := k.faults ++ [⟨engine, cause, q, bundle, part⟩] }

/-- A queue of core n. -/
def Chip.qs (c : Chip) (n q : Nat) : QSt := Tab.get default (c.coreOf n).qs q
def Chip.setQs (c : Chip) (n q : Nat) (x : QSt) : Chip :=
  let k := c.coreOf n
  c.setCore n { k with qs := Tab.put default k.qs q x }

/-- Local-memory address of byte k of a queue (R204). -/
def qAddr (n : Nat) (x : QSt) (k : Nat) : Nat :=
  n * 262144 + (x.base + (k / 256) % (max x.size 1)) * 256 + k % 256

/-- len bytes of a queue from byte k of its stream. -/
def Chip.qBytes (c : Chip) (n : Nat) (x : QSt) (k : Nat) : Nat → List (BitVec 8)
  | 0 => []
  | len + 1 => Mem.read c.core.lmem (qAddr n x k) :: c.qBytes n x (k + 1) len

/-- The place of a local-memory word among the bytes of a queue's ring, from byte k of its stream on; none outside the ring. -/
def qPlace (n : Nat) (x : QSt) (k at_ : Nat) : Option Nat :=
  let ring := 256 * max x.size 1
  let lo := n * 262144 + 256 * x.base
  if lo ≤ at_ ∧ at_ < lo + ring then some ((at_ - lo + (ring - k % ring)) % ring) else none

/-- A placed fault of core n's local memory stands in len bytes of a queue from byte k on. -/
def inQueue (n : Nat) (x : QSt) (k len : Nat) (p : Placed) : Bool :=
  decide (p.page = pgCORE n) && decide (p.target = 1) &&
    (match qPlace n x k p.at_ with
     | some d => decide (d < len) || decide (256 * max x.size 1 < d + 4)
     | none => false)

/-- Bytes of a queue are read: faults placed in their words are met (R153, R236). -/
def Chip.qFound (c : Chip) (n : Nat) (x : QSt) (k len : Nat) : Chip :=
  (c.flt.placed.filter (inQueue n x k len)).foldl (fun c p =>
    let i := p.at_ / 4 % 65536
    let t := (c.coreOf n).tag.toNat
    (c.faultFound p t i t i).1) c

/-- Bytes of a queue are written: no fault is left in a word written whole, and an armed one is placed in the first (R539). -/
def Chip.qWritten (c : Chip) (n : Nat) (x : QSt) (k len : Nat) : Chip :=
  let c := { c with flt.placed := c.flt.placed.filter (fun p =>
    !(decide (p.page = pgCORE n) && decide (p.target = 1) &&
      (match qPlace n x k p.at_ with | some d => decide (d + 4 ≤ len) | none => false))) }
  c.injWA (pgCORE n) 1 (qAddr n x k / 4 * 4)

/-- Free bytes of a queue: an entry is freed when its 256th byte is taken (R204, R207). -/
def QSt.free (x : QSt) : Nat := x.size * 256 - (x.claimed - 256 * ((x.taken - x.late - x.late2) / 256))

/-- Capture the entries between two byte counts of a queue, when CORE_CTRL.TRACE_Q and the mask select it (R230, R232). -/
def Chip.traceQ (c : Chip) (n bundle q dir : Nat) (x : QSt) (from_ to_ : Nat) : Chip :=
  let page := pgCORE n
  let d := c.fld page 0x220 5 4
  if c.fld page 0x008 1 1 = 0 ∨ !(bit (c.reg page 0x218) q) ∨ (d ≠ 2 ∧ d ≠ dir) then c
  else
    let k := c.coreOf n
    (List.range (to_ / 256 - from_ / 256)).foldl (fun c j =>
      let e := c.qBytes n x ((from_ / 256 + j) * 256) 256
      if c.fld page 0x220 6 6 = 1 then
        (List.range 6).foldl (fun c p =>
          c.vitWrite (n / 8) 3 (c.vitHead 1 (n % 8) bundle q dir p k.cyc ++ (e.drop (48 * p)).take 48)) c
      else c.vitWrite (n / 8) 3 (c.vitHead 1 (n % 8) bundle q dir 0 k.cyc ++ (e.drop (16 * c.fld page 0x220 3 0)).take 48)) c

/-- Pop len bytes of a queue in this cycle: EMPTY when they are not present, CONFLICT when another operation has popped it (R205,
R206). `old` are the queues popped in this cycle before the operation. -/
def Chip.qTake (c : Chip) (n engine bundle q len : Nat) (old : List Nat := (c.coreOf n).popped) (part : Nat := 0) :
    List (BitVec 8) × Chip :=
  let k := c.coreOf n
  let x := c.qs n q
  let zeros := List.replicate len 0
  if len = 0 then ([], c)
  else if old.contains q then (zeros, c.sfault n engine 3 (some q) bundle part)
  else if x.taken + len > x.present then (zeros, c.sfault n engine 1 (some q) bundle part)
  else
    let bs := c.qBytes n x x.taken len
    let c := c.setCore n { k with popped := q :: k.popped, qs := Tab.put default k.qs q { x with taken := x.taken + len } }
    (bs, ((c.qFound n x x.taken len).traceQ n bundle q 1 x x.taken (x.taken + len)).count (pgCORE n) 16 1)

/-- Bytes read by position from the head of a queue and not popped; EMPTY when they are not present (R139, R164). -/
def Chip.qPeek (c : Chip) (n engine bundle q off len : Nat) : List (BitVec 8) × Chip :=
  let x := c.qs n q
  if len = 0 then ([], c)
  else if x.taken + off + len > x.present then (List.replicate len 0, c.sfault n engine 1 (some q) bundle)
  else (c.qBytes n x (x.taken + off) len, c.qFound n x (x.taken + off) len)

/-- Write bytes at the claim position of a queue. -/
def Chip.qStore (c : Chip) (n : Nat) (x : QSt) (k : Nat) : List (BitVec 8) → Chip
  | [] => c
  | b :: bs => Chip.qStore { c with core.lmem := Mem.write c.core.lmem (qAddr n x k) b } n x (k + 1) bs

/-- Push bytes: their space is claimed in this cycle and they are present from the next (R204, R205). `old` are the queues pushed in
this cycle before the operation; `res` marks a result, `fmt` the format of MX blocks. -/
def Chip.qPush (c : Chip) (n engine bundle q : Nat) (bs : List (BitVec 8)) (old : List Nat := (c.coreOf n).pushed)
    (part : Nat := 1) (fmt : Option Nat := none) : Chip :=
  let k := c.coreOf n
  let x := c.qs n q
  if bs = [] then c
  else if old.contains q then c.sfault n engine 3 (some q) bundle part
  else if bs.length > x.free then c.sfault n engine 2 (some q) bundle part
  else
    let c := (c.qStore n x x.claimed bs).qWritten n x x.claimed bs.length
    let last := if (x.claimed + bs.length) / 256 > x.claimed / 256 then c.time.ns else x.lastIn
    let c := c.setCore n { k with
      pushed := q :: k.pushed, arrive := (q, bs.length, decide (part = 2)) :: k.arrive,
      qs := Tab.put default k.qs q { x with claimed := x.claimed + bs.length, fmt := fmt, lastIn := last } }
    (c.traceQ n bundle q 0 x x.claimed (x.claimed + bs.length)).count (pgCORE n) 15 1

/-- The 64 FP32 values of 256 bytes. -/
def words32 : Nat → List (BitVec 8) → List Nat
  | 0, _ => []
  | n + 1, bs => ofBytes (bs.take 4) :: words32 n (bs.drop 4)

/-- FP32 values as bytes. -/
def bytes32 (vs : List Nat) : List (BitVec 8) := vs.flatMap (toBytes 4)

/-! ## SCU values -/

/-- SCU counter as of the start of the cycle (R203). -/
def Core.ctr (k : Core) (i : Nat) : Nat := ((k.cs[i % 8]?).getD 0).toNat

/-- Parameter Pn (R195). -/
def Core.param (k : Core) (i : Nat) : Nat := ((k.params[i % 16]?).getD 0).toNat

/-! ## LDE and STE addresses (R216, R217) -/

/-- The slice address of the 64-B unit u of an operand; none beyond its tiles (R219). -/
def Opnd.unit (o : Opnd) (u : Nat) : Option Nat := (o.slots[u / 512]?).map (fun s => s * 32768 + (u % 512) * 64)

/-- `len` units of an operand from unit u on; none when one lies beyond its tiles. -/
def Opnd.units (o : Opnd) (u : Nat) : Nat → Option (List (Option Nat))
  | 0 => some []
  | len + 1 => do
    let a ← o.unit u
    let r ← o.units (u + 1) len
    pure (some a :: r)

/-- Rows one after another; a row is a start unit, or none for a row of zeros (or a row that is not written). -/
def Opnd.rows (o : Opnd) (row : Nat) : List (Option Nat) → Option (List (Option Nat))
  | [] => some []
  | r :: rs => do
    let a ← match r with
      | some u => o.units u row
      | none => some (List.replicate row none)
    let b ← o.rows row rs
    pure (a ++ b)

/-- The index words of INDEXED: 4-B words, or the low word of 8-B records. -/
def indexWords (w : Nat) : Nat → List (BitVec 8) → List Nat
  | 0, _ => []
  | n + 1, bs => ofBytes (bs.take 4) :: indexWords w n (bs.drop w)

/-- The row starts that RUNS walks: run r holds rows[r] rows from row r × stride (R216). -/
def runRows (base row stride : Nat) (r : Nat) : List Nat → List (Option Nat)
  | [] => []
  | k :: ks => (List.range k).map (fun j => some (base + (r * stride + j) * row)) ++ runRows base row stride (r + 1) ks

/-- The operation's first unit: OFFSET, plus C[ACTR] when CADD is 1 (R216). -/
def xferBase (k : Core) (slot : Nat) : Nat :=
  bits slot 44 29 + (if bit slot 48 then k.ctr (bits slot 47 45) else 0)

/-- The rows an LDE or STE slot names, with its row length; the index or run table is popped at issue (R216, R217).
`none` rows stand for a fault already raised. -/
def Chip.xferRows (c : Chip) (n engine bundle slot : Nat) : Option (Nat × List (Option Nat)) × Chip :=
  let k := c.coreOf n
  let base := xferBase k slot
  let cnt := k.ctr (bits slot 51 49)
  match bits slot 63 61 with
  | 0 => (some (bits slot 28 13, if bits slot 28 13 = 0 then [] else [some base]), c)
  | 1 =>
    let row := bits slot 28 19
    (some (row, if row = 0 then [] else (List.range cnt).map (fun i => some (base + i * bits slot 18 3))), c)
  | 2 =>
    let row := bits slot 28 19
    let w := if bits slot 12 11 = 0 then 4 else 8
    let gate := bits slot 10 9
    let (bs, c) := c.qTake n engine bundle (bits slot 18 13) (w * cnt)
    let rows := (indexWords w cnt bs).map (fun v =>
      if (gate = 1 ∧ !(bit v 31)) ∨ (gate = 2 ∧ !(bit v 30)) then none else some (base + (v % 32768) * row))
    (some (row, if row = 0 then [] else rows), c)
  | _ =>
    let row := bits slot 28 19
    if bits slot 51 49 = 7 then (none, c.sfault n engine 4 none bundle) else   -- C[CTR + 1] does not exist (log 12)
    let nrun := k.ctr (bits slot 51 49 + 1)
    let (bs, c) := c.qTake n engine bundle (bits slot 18 13) (2 * nrun)
    let runs := (List.range nrun).map (fun r => ofBytes ((bs.drop (2 * r)).take 2))
    let rows := runRows base row (bits slot 12 0) 0 runs
    if rows.length > cnt then (none, c.sfault n engine 4 none bundle)
    else (some (row, if row = 0 then [] else rows ++ List.replicate (cnt - rows.length) none), c)

/-- Issue an LDE (engine 3) or STE (engine 4) operation (R216 to R219): at most 4 outstanding, a range fault at issue. -/
def Chip.xferIssue (c : Chip) (n engine bundle slot : Nat) : Chip :=
  let k := c.coreOf n
  let outst := if engine = 3 then k.ldes.length else k.stes.length
  let c := c.count (pgCORE n) (if engine = 3 then 9 else 11) 1
  if outst ≥ 4 then c.sfault n engine 3 none bundle
  else
    match c.xferRows n engine bundle slot with
    | (none, c) => c
    | (some (_, []), c) => c
    | (some (row, rows), c) =>
      match ((k.opnds[bits slot 54 52]?).getD none).bind (fun o => o.rows row rows) with
      | none => c.sfault n engine 4 none bundle
      | some units =>
        let k := c.coreOf n
        let x : Xfer := ⟨k.cyc + (if engine = 3 then 4 else 2), bits slot 60 55, units, bundle⟩
        if engine = 3 then c.setCore n { k with ldes := k.ldes ++ [x] } else c.setCore n { k with stes := k.stes ++ [x] }

/-- The bytes of LDE units: slice bytes, zeros for a zero row. -/
def Chip.unitBytes (c : Chip) : List (Option Nat) → List (BitVec 8)
  | [] => []
  | some a :: us => Mem.readN c.hom.sram a 64 ++ c.unitBytes us
  | none :: us => List.replicate 64 0 ++ c.unitBytes us

/-- Unused bytes at the end of a tile that holds blocks of a format (R145). -/
def unusedEnd (f : Nat) : Nat := match f with | 0 => 128 | 1 | 2 => 768 | 3 | 4 | 5 => 32 | _ => 0

/-- The bytes of a 64-B unit as the STE writes them: the unused end bytes of a tile of the blocks' format are zero (R145). -/
def endZero (fmt : Option Nat) (a : Nat) (bs : List (BitVec 8)) : List (BitVec 8) :=
  match fmt with
  | some f => (bs.take (32768 - unusedEnd f - a % 32768) ++ List.replicate 64 0).take bs.length
  | none => bs

/-- Write STE units to the slice; a unit of a gated row is taken and not written. A slot written becomes DIRTY (R293). -/
def Chip.unitStore (c : Chip) (fmt : Option Nat) : List (Option Nat) → List (BitVec 8) → Chip
  | [], _ => c
  | none :: us, bs => Chip.unitStore c fmt us (bs.drop 64)
  | some a :: us, bs =>
    let s := a / 32768
    let c := { c with hom.sram := Mem.writeL c.hom.sram a (endZero fmt a (bs.take 64)) }
    Chip.unitStore ((c.setSlot s { c.slotOf s with dirty := true }).sramWrite a 64) fmt us (bs.drop 64)

/-- LDE units are read from the slice: faults placed in their words are met (R153, R236). -/
def Chip.unitFound (c : Chip) (n : Nat) : List (Option Nat) → Chip
  | [] => c
  | some a :: us => (c.sramRead (c.coreOf n).tag.toNat a 64).1.unitFound n us
  | none :: us => c.unitFound n us

/-- An STE's port cycle: the bytes it takes are written to the slice, unless the pop faults (R218, R225). -/
def Chip.stePort (c : Chip) (n : Nat) (y : Xfer) : Chip :=
  let us := y.units.take 16
  let before := (c.coreOf n).faults.length
  let fmt := (c.qs n y.queue).fmt
  let (bs, c) := c.qTake n 4 y.bundle y.queue (64 * us.length) (part := 1)
  if (c.coreOf n).faults.length ≠ before then c
  else
    let c := c.unitStore fmt us bs
    let k := c.coreOf n
    let rest := y.units.drop 16
    (c.setCore n { k with stes := if rest = [] then k.stes.drop 1 else { y with units := rest } :: k.stes.drop 1 }).count
      (pgCORE n) 12 (64 * us.length)

/-- An LDE's port cycle: the bytes read are claimed in its queue (R218). -/
def Chip.ldePort (c : Chip) (n : Nat) (x : Xfer) : Chip :=
  let us := x.units.take 16
  let c := (c.unitFound n us).qPush n 3 x.bundle x.queue (c.unitBytes us)
  let k := c.coreOf n
  let rest := x.units.drop 16
  (c.setCore n { k with ldes := if rest = [] then k.ldes.drop 1 else { x with units := rest } :: k.ldes.drop 1 }).count
    (pgCORE n) 10 (64 * us.length)

/-- The core's port in one cycle: at most 1,024 B of one transfer; with both engines ready, even cycles go to the LDE (R218). -/
def Chip.portCycle (c : Chip) (n : Nat) : Chip :=
  let k := c.coreOf n
  if k.portDone then c
  else
    let c := c.setCore n { k with portDone := true }
    let lde := k.ldes.head?.filter (fun x => x.from_ ≤ k.cyc)
    let ste := k.stes.head?.filter (fun x => x.from_ ≤ k.cyc)
    match lde, ste with
    | none, none => c.count (pgCORE n) 13 1
    | some x, none => c.ldePort n x
    | none, some y => c.stePort n y
    | some x, some y => if k.cyc % 2 = 0 then c.ldePort n x else c.stePort n y

end Sys2Proof.Machine
end

