-- ==== Sys2Proof/Machine/Engine.lean ====
section
/-!
DEFINITION. The engines of a core: MT block steps and captures (R124 to R142, R211), the vector engine (R149 to R152, R213 to
R215) and the SCU (R209, R210). Each issue acts in the core's current cycle; results are queued for the cycle in which they
claim their space (R220).
-/

namespace Sys2Proof.Machine

/-- Queue a result of core n. -/
def Chip.result (c : Chip) (n : Nat) (r : Result) : Chip :=
  let k := c.coreOf n
  c.setCore n { k with results := k.results ++ [r] }

/-! ## MT -/

/-- Rows, columns, tile rows, tile columns of a shape code (R137, R140, R211): codes 6 to 9 are gang shapes. -/
def shapeOf (s : Nat) : Nat × Nat × Nat × Nat :=
  match s with
  | 0 => (16, 8, 16, 8)
  | 1 => (8, 16, 8, 16)
  | 2 => (32, 4, 32, 4)
  | 3 => (4, 32, 4, 32)
  | 4 => (128, 1, 128, 1)
  | 5 => (1, 128, 1, 128)
  | 6 => (32, 32, 16, 8)
  | 7 => (16, 64, 16, 8)
  | 8 => (8, 128, 8, 16)
  | _ => (1, 1024, 1, 128)

/-- Position (tr, tc) of core k's tile in a gang shape (R140). -/
def gangPos (s k : Nat) : Nat × Nat := if s = 6 then (k / 4, k % 4) else (0, k)

/-- A block read from its stream: its elements and its scale byte. -/
abbrev Block := List Nat × Nat

/-- m consecutive blocks of a format from data and scale bytes. -/
def blocksOf (f : Nat) : Nat → List (BitVec 8) → List (BitVec 8) → List Block
  | 0, _, _ => []
  | m + 1, ds, ss =>
    let len := fmtBits f * 4
    (elems (fmtBits f) 32 (ds.take len), ((ss.head?).getD 127).toNat) :: blocksOf f m (ds.drop len) (ss.drop 1)

/-- Pop m blocks of a stream of core n; scales only for formats with block scales (R138). `old` as in qTake. -/
def Chip.popBlocks (c : Chip) (n engine bundle f qd qs m : Nat) (old : List Nat) : List Block × Chip :=
  let (ds, c) := c.qTake n engine bundle qd (m * fmtBits f * 4) old
  if fmtScaled f then
    let (ss, c) := c.qTake n engine bundle qs m old
    (blocksOf f m ds ss, c)
  else (blocksOf f m ds (List.replicate m 127), c)

/-- The held block at the read position of core n (R139). -/
def Chip.heldBlock (c : Chip) (n engine bundle f qd qs : Nat) : List Block × Chip :=
  let p := (c.coreOf n).hold
  let len := fmtBits f * 4
  let (ds, c) := c.qPeek n engine bundle qd (p * len) len
  if fmtScaled f then
    let (ss, c) := c.qPeek n engine bundle qs p 1
    (blocksOf f 1 ds ss, c)
  else (blocksOf f 1 ds [127], c)

/-- The 128 accumulators of a core before a step: kept, +0, or from the init queue (R127). -/
def Chip.accStart (c : Chip) (n engine bundle slot : Nat) (old : List Nat) : List Nat × Chip :=
  match bits slot 11 10 with
  | 0 =>
    let (c, _) := c.injR (pgCORE n) 3 (c.coreOf n).tag.toNat 0
    let k := c.coreOf n
    ((List.range 128).map (fun d => (Tab.get 0 k.acc d).toNat), c)
  | 1 => (List.replicate 128 0, c)
  | _ =>
    let (bs, c) := c.qTake n engine bundle (bits slot 23 18) 512 old
    (words32 128 bs, c)

/-- An armed injection of two data bits into an accumulator, which parity does not see: the bits of accumulator 0 it flips (R524,
R539). -/
def Chip.accFlip (c : Chip) (n : Nat) : Nat :=
  let v := c.reg (pgCORE n) 0x018
  if c.fld pgFLT 0x008 0 0 = 1 ∧ bit v 31 ∧ bits v 23 20 = 3 ∧ bits v 30 29 = 1 then 2 ^ bits v 19 15 + 2 ^ ((bits v 19 15 + 1) % 32) else 0

/-- Store a core's accumulators. -/
def Chip.accSet (c : Chip) (n : Nat) (vs : List Nat) : Chip :=
  let m := c.accFlip n
  let c := (c.rewritten (pgCORE n) 3 0 512).injW (pgCORE n) 3
  let k := c.coreOf n
  let vs := if m = 0 then vs else (vs.headD 0 ^^^ m) :: vs.tail
  let t := (List.zip (List.range 128) vs).filter (fun p => decide (p.2 ≠ 0))
  c.setCore n { k with acc := t.map (fun p => (p.1, BitVec.ofNat 32 p.2)) }

/-- One tile's step: DPU d takes row block rowOf d and column block d mod C (R136, R140). -/
def tileStep (fr fc tc : Nat) (rowOf : Nat → Nat) (accs : List Nat) (rows cols : List Block) : List Nat :=
  (List.zip (List.range 128) accs).map (fun p =>
    let r := (rows[rowOf p.1]?).getD ([], 127)
    let q := (cols[p.1 % tc]?).getD ([], 127)
    blockStep p.2 fr fc r.1 q.1 r.2 q.2)

/-- Finish a tile's step: accumulators stored, and at END the capture queued (R127). -/
def Chip.tileEnd (c : Chip) (n engine bundle slot s lat : Nat) (accs : List Nat) : Chip :=
  let c := (c.accSet n accs).count (pgCORE n) 4 1
  let c := c.count (pgCORE n) 5 s
  if bit slot 9 then
    (c.result n ⟨(c.coreOf n).cyc + s + lat - 1, engine, bundle, [], [(bits slot 17 12, bytes32 accs)], none, none⟩).count (pgCORE n) 6 1
  else c

/-- A STEP of a single-core kernel on its own tile (R124 to R139). -/
def Chip.mtTile (c : Chip) (n bundle slot s : Nat) : Chip :=
  let fr := bits slot 55 52
  let fc := bits slot 51 48
  let (R, C, _, tc) := shapeOf (bits slot 59 56)
  let hold := bit slot 8
  let before := (c.coreOf n).faults.length
  let old := (c.coreOf n).popped
  let (rows, c) := if hold && R = 1 then c.heldBlock n 0 bundle fr (bits slot 47 42) (bits slot 41 36)
    else c.popBlocks n 0 bundle fr (bits slot 47 42) (bits slot 41 36) R old
  let (cols, c) := if hold && C = 1 then c.heldBlock n 0 bundle fc (bits slot 35 30) (bits slot 29 24)
    else c.popBlocks n 0 bundle fc (bits slot 35 30) (bits slot 29 24) C old
  let (accs, c) := c.accStart n 0 bundle slot old
  if (c.coreOf n).faults.length ≠ before then c
  else
    let c := c.tileEnd n 0 bundle slot s 5 (tileStep fr fc tc (fun d => d / tc) accs rows cols)
    let k := c.coreOf n
    c.setCore n { k with mtUntil := k.cyc + s, hold := if hold then (if bit slot 9 then 0 else k.hold + 1) else k.hold }

/-- A STEP of a gang kernel: row blocks from core 0, column blocks of tile column tc from core tc, every tile in the same
cycle (R140, R141). -/
def Chip.mtGang (c : Chip) (cl bundle slot s : Nat) : Chip :=
  let fr := bits slot 55 52
  let fc := bits slot 51 48
  let shape := bits slot 59 56
  let (R, _, _, tcn) := shapeOf shape
  let n0 := cl * 8
  let hold := bit slot 8
  let before := ((List.range 8).map (fun k => (c.coreOf (n0 + k)).faults.length)).sum
  let old := fun (k : Nat) => ((((List.range 8).map (fun j => (c.coreOf (n0 + j)).popped))[k]?).getD [])
  let (rows, c) := if hold then c.heldBlock n0 7 bundle fr (bits slot 47 42) (bits slot 41 36)
    else c.popBlocks n0 7 bundle fr (bits slot 47 42) (bits slot 41 36) R (old 0)
  let ncol := if shape = 6 then 4 else 8
  let (colss, c) := (List.range ncol).foldl (fun (acc : List (List Block) × Chip) t =>
    let (b, c) := acc.2.popBlocks (n0 + t) 7 bundle fc (bits slot 35 30) (bits slot 29 24) tcn (old t)
    (acc.1 ++ [b], c)) ([], c)
  let (accss, c) := (List.range 8).foldl (fun (acc : List (List Nat) × Chip) k =>
    let (a, c) := acc.2.accStart (n0 + k) 7 bundle slot (old k)
    (acc.1 ++ [a], c)) ([], c)
  if ((List.range 8).map (fun k => (c.coreOf (n0 + k)).faults.length)).sum ≠ before then c
  else
    let c := (List.range 8).foldl (fun c k =>
      let (tr, tc) := gangPos shape k
      let accs := tileStep fr fc tcn (fun d => 16 * tr + d / tcn) ((accss[k]?).getD []) rows ((colss[tc]?).getD [])
      let c := c.tileEnd (n0 + k) 7 bundle slot s 7 accs
      let x := c.coreOf (n0 + k)
      c.setCore (n0 + k) { x with mtUntil := x.cyc + s }) c
    let x := c.coreOf n0
    let c := c.setCore n0 { x with hold := if hold then (if bit slot 9 then 0 else x.hold + 1) else x.hold }
    let c := ((((c.injW (pgGNG cl) 0).injR (pgGNG cl) 0 (c.coreOf n0).tag.toNat 0).1).count (pgGNG cl) 2 1).setFld (pgGNG cl) 0x00C 7 5 (shape - 5)
    let c := if bit slot 9 then c.count (pgGNG cl) 3 1 else c
    if hold then c.count (pgGNG cl) 4 1 else c

/-- Issue an MT slot: CONFLICT while the MT is busy or the tile belongs to the SIU (R171, R220). -/
def Chip.mtIssue (c : Chip) (n bundle slot : Nat) : Chip :=
  let k := c.coreOf n
  match stepLen (bits slot 55 52) (bits slot 51 48) with
  | none => c
  | some s =>
    if k.mtUntil > k.cyc ∨ k.tileSiu > k.cyc then c.sfault n (if k.gang then 7 else 0) 3 none bundle
    else if k.gang then c.mtGang (n / 8) bundle slot s
    else c.mtTile n bundle slot s

/-! ## VE -/

/-- Pairwise sums of one level: positions 2i and 2i + 1; an odd last element passes up (R52, R150, R167). -/
def pairSums : List Nat → List Nat
  | a :: b :: t => fadd a b :: pairSums t
  | l => l

/-- The pairwise tree over a list, level by level (fuel bounds the levels). -/
def treeSum : Nat → List Nat → Nat
  | 0, l => l.headD 0
  | _ + 1, [] => 0
  | _ + 1, [a] => a
  | f + 1, l => treeSum f (pairSums l)

/-- Smaller of two FP32 values: NaN if either is NaN; a between −0 and +0 (R214). -/
def fmin (a b : Nat) : Nat := if fnan a ∨ fnan b then 0x7FC00000 else if fless b a then b else a
/-- Larger of two FP32 values, as fmin. -/
def fmax (a b : Nat) : Nat := if fnan a ∨ fnan b then 0x7FC00000 else if fless a b then b else a

/-- A binary operation lane by lane. -/
def lanes2 (f : Nat → Nat → Nat) : List Nat → List Nat → List Nat
  | a :: as, b :: bs => f a b :: lanes2 f as bs
  | _, _ => []

/-- Lowest lane with the largest value, the lowest NaN lane counting as largest (R150). -/
def argmax (vs : List Nat) : Nat :=
  (vs.foldl (fun (acc : Nat × Option (Nat × Nat)) v =>
    match acc.2 with
    | none => (acc.1 + 1, some (acc.1, v))
    | some (j, w) =>
      if !(fnan w) && (fnan v || fless w v) then (acc.1 + 1, some (acc.1, v)) else (acc.1 + 1, some (j, w))) (0, none)).2.elim 0 (·.1)

/-- ⌊x⌋ of an exact value. -/
def FV.floor : FV → Int
  | .fin n m e =>
    let v : Int := if e ≥ 0 then ((m <<< e.toNat : Nat) : Int) else ((m >>> (-e).toNat : Nat) : Int)
    let exact := if e ≥ 0 then true else m % 2 ^ (-e).toNat = 0
    if n then (if exact then -v else -v - 1) else v
  | _ => 0

/-- fma of an exact value with FP32 factors, rounded once. -/
def ffmaV (a : Nat) (x : FV) (c : Nat) : Nat := (FV.add (FV.mul (f32 a) x) (f32 c)).toF32

/-- The cubic of segment t at an exact x; `last` is the exact value of its last fma, not yet rounded (R152). -/
def segEval (tb : List (BitVec 8)) (t : Nat) (x : FV) : FV :=
  let co := fun (j : Nat) => ofBytes ((tb.drop (292 + 16 * t + 4 * j)).take 4)
  let y := ffmaV (co 3) x (co 2)
  let y := ffmaV y x (co 1)
  FV.add (FV.mul (f32 y) x) (f32 (co 0))

/-- The cubic of segment t at an exact x, formed exactly: EXP2 rounds p(g) × 2ⁿ once (R152). -/
def polyExact (tb : List (BitVec 8)) (t : Nat) (x : FV) : FV :=
  let co := fun (j : Nat) => f32 (ofBytes ((tb.drop (292 + 16 * t + 4 * j)).take 4))
  FV.add (FV.mul (FV.add (FV.mul (FV.add (FV.mul (co 3) x) (co 2)) x) (co 1)) x) (co 0)

/-- The segment that holds an exact x: BRK[t] ≤ x < BRK[t + 1]. -/
def segFind (tb : List (BitVec 8)) (x : FV) : Nat → Nat → Nat
  | 0, t => t
  | f + 1, t => if FV.less x (f32 (ofBytes ((tb.drop (32 + 4 * (t + 1))).take 4))) then t else segFind tb x f (t + 1)

/-- The low and high rules of a table: a constant, the identity, zero (R151). -/
def tblRule (rule v x : Nat) : Nat := if rule = 0 then v else if rule = 1 then x else 0

/-- A table applied to x (R151, R152). -/
def tblEval (tb : List (BitVec 8)) (x : Nat) : Nat :=
  let at_ := fun (o n : Nat) => ofBytes ((tb.drop o).take n)
  let nseg := at_ 1 1
  if fnan x then 0x7FC00000
  else if fless x (at_ 32 4) then tblRule (at_ 2 1) (at_ 4 4) x
  else if !(fless x (at_ (32 + 4 * nseg) 4)) then tblRule (at_ 3 1) (at_ 8 4) x
  else if at_ 0 1 = 0 then (segEval tb (segFind tb (f32 x) (nseg - 1) 0) (f32 x)).toF32
  else
    match f32 x with
    | .inf _ => 0
    | v =>
      let k := v.floor
      let g := FV.add v (.fin (decide (k > 0)) k.natAbs 0)
      match polyExact tb (segFind tb g (nseg - 1) 0) g with
      | .fin n m e => (FV.fin n m (e + k)).toF32
      | w => w.toF32

/-- An output with the zero bytes by which FLUSH fills a part-filled entry (R213, R214). -/
def Chip.vePad (c : Chip) (n q : Nat) (bs : List (BitVec 8)) (flush : Bool) : List (BitVec 8) :=
  let due := ((c.coreOf n).results.flatMap (fun r => r.pushes)).filter (fun p => p.1 = q)
  let fill := (c.qs n q).claimed + (due.map (fun p => p.2.length)).sum + bs.length
  if flush ∧ fill % 256 ≠ 0 then bs ++ List.replicate (256 - fill % 256) 0 else bs

/-- Push a VE result so that it is present from cycle t + lat. -/
def Chip.veOut (c : Chip) (n bundle q lat : Nat) (bs : List (BitVec 8)) (flush : Bool) : Chip :=
  c.result n ⟨(c.coreOf n).cyc + lat - 1, 1, bundle, [], [(q, c.vePad n q bs flush)], none, none⟩

/-- The three FP32 inputs of a lane operation: A, B (or the parameter of SCAL) and C. -/
def Chip.veA (c : Chip) (n bundle slot : Nat) : List Nat × Chip :=
  let (bs, c) := c.qTake n 1 bundle (bits slot 57 52) 256
  (words32 64 bs, c)
def Chip.veB (c : Chip) (n bundle slot : Nat) (old : List Nat) : List Nat × Chip :=
  if bit slot 16 then (List.replicate 64 ((c.coreOf n).param (bits slot 51 46 % 16) % 2 ^ 32), c)
  else
    let (bs, c) := c.qTake n 1 bundle (bits slot 51 46) 256 old
    (words32 64 bs, c)
def Chip.veC (c : Chip) (n bundle slot : Nat) (old : List Nat) : List Nat × Chip :=
  let (bs, c) := c.qTake n 1 bundle (bits slot 45 40) 256 old
  (words32 64 bs, c)

/-- The rounding of lane l of the entry this issue converts (R131, R215). -/
def Chip.veRnd (c : Chip) (n slot : Nat) (l : Nat) : Rnd :=
  if bit slot 29 then
    let k := c.coreOf n
    let a := bits slot 24 21
    .sr (srWord (k.param a) (k.param (a + 1) % 2 ^ 32) k.job ((k.convBase + 64 * k.conv + l) % 2 ^ 50))
  else .rne

/-- Elements packed w bits each into bytes (R147). -/
def packElems (w : Nat) (vs : List Nat) : List (BitVec 8) :=
  toBytes (w * vs.length / 8) (vs.foldr (fun v acc => v + acc <<< w) 0)

/-- One reduction issue: its value joins the part-filled entry, which is pushed when lane 63 is filled or at FLUSH (R214). -/
def Chip.veReduce (c : Chip) (n bundle slot : Nat) (f : List Nat → Nat) (idx : Nat) (lastIss : Bool) : Chip :=
  let (a, c) := c.veA n bundle slot
  let k := c.coreOf n
  let red := ((k.red ++ List.replicate 64 0).take 64).set (idx % 64) (BitVec.ofNat 32 (f a))
  if idx % 64 = 63 ∨ (lastIss ∧ bit slot 17) then
    let c := c.setCore n { k with red := [] }
    c.veOut n bundle (bits slot 39 34) 8 (bytes32 (red.map BitVec.toNat)) false
  else c.setCore n { k with red := red }

/-- A lane operation of two inputs. -/
def Chip.veLane2 (c : Chip) (n bundle slot lat : Nat) (f : Nat → Nat → Nat) (fl : Bool) : Chip :=
  let old := (c.coreOf n).popped
  let (a, c) := c.veA n bundle slot
  let (b, c) := c.veB n bundle slot old
  c.veOut n bundle (bits slot 39 34) lat (bytes32 (lanes2 f a b)) fl

/-- A VE bundle's visit begins: the entries that it has converted and summed are none, and the base index of its stochastic rounding
is read (R214, R215). -/
def Chip.veOpen (c : Chip) (n slot : Nat) : Chip :=
  let k := c.coreOf n
  c.setCore n { k with
    lsum := none, conv := 0, convBase := k.param (bits slot 24 21 + 2) % 2 ^ 50 + 64 * k.ctr (bits slot 20 18) }

/-- Issue a VE operation (R214); `idx` is the bundle's issue index, `lastIss` marks its last. -/
def Chip.veIssue (c : Chip) (n bundle slot idx : Nat) (lastIss : Bool) : Chip :=
  let c := if idx = 0 then c.veOpen n slot else c
  let k := c.coreOf n
  let old := k.popped
  let op := bits slot 63 58
  if k.veUntil > k.cyc then c.sfault n 1 3 none bundle
  else
    let fl := bit slot 17 && lastIss
    let qd := bits slot 39 34
    let fmt := bits slot 33 30
    let k := { k with veUntil := k.cyc + (if op = 9 then 3 else 1) }
    let c := (c.setCore n k).count (pgCORE n) 7 1
    match op with
    | 0 => c.veLane2 n bundle slot 4 fadd fl
    | 1 => c.veLane2 n bundle slot 4 fsub fl
    | 2 => c.veLane2 n bundle slot 4 fmul fl
    | 3 =>
      let (a, c) := c.veA n bundle slot
      let (b, c) := c.veB n bundle slot old
      let (d, c) := c.veC n bundle slot old
      c.veOut n bundle qd 5 (bytes32 ((List.zip (List.zip a b) d).map (fun p => ffma p.1.1 p.1.2 p.2))) fl
    | 4 => c.veLane2 n bundle slot 4 fmin fl
    | 5 => c.veLane2 n bundle slot 4 fmax fl
    | 6 => c.veLane2 n bundle slot 4 (fun a b => if fless a b then 0x3F800000 else 0) fl
    | 7 =>
      let (a, c) := c.veA n bundle slot
      let (b, c) := c.veB n bundle slot old
      let (d, c) := c.veC n bundle slot old
      c.veOut n bundle qd 4 (bytes32 ((List.zip (List.zip a b) d).map (fun p => if fzero p.2 then p.1.2 else p.1.1))) fl
    | 8 =>
      let (a, c) := c.veA n bundle slot
      c.veOut n bundle qd 4 (bytes32 a) fl
    | 9 =>
      let (a, c) := c.veA n bundle slot
      let tb := Mem.readN c.core.tbl (n * 12288 + bits slot 27 25 * 1536) 1536
      (c.veOut n bundle qd 9 (bytes32 (a.map (tblEval tb))) fl).count (pgCORE n) 8 1
    | 10 => c.veReduce n bundle slot (treeSum 7) idx lastIss
    | 11 => c.veReduce n bundle slot (fun a => a.tail.foldl fmax (a.headD 0)) idx lastIss
    | 12 => c.veReduce n bundle slot (fun a => a.tail.foldl fmin (a.headD 0)) idx lastIss
    | 13 => c.veReduce n bundle slot (fun a => (FV.fin false (argmax a) 0).toF32) idx lastIss
    | 14 =>
      let (a, c) := c.veA n bundle slot
      let k := c.coreOf n
      let s := match k.lsum with
        | some p => lanes2 fadd (p.map BitVec.toNat) a
        | none => a
      if lastIss then (c.setCore n { k with lsum := none }).veOut n bundle qd 5 (bytes32 s) fl
      else c.setCore n { k with lsum := some (s.map (BitVec.ofNat 32)) }
    | 15 =>
      let (bs, c) := c.qTake n 1 bundle (bits slot 57 52) (fmtBits fmt * 8)
      let es := elems (fmtBits fmt) 64 bs
      if fmtScaled fmt then
        let (ss, c) := c.qTake n 1 bundle (bits slot 51 46) 2 old
        let sc := fun (j : Nat) => ((ss[j / 32]?).getD 127).toNat
        c.veOut n bundle qd 4 (bytes32 ((List.zip (List.range 64) es).map (fun p => widen fmt p.2 (some (sc p.1))))) fl
      else c.veOut n bundle qd 4 (bytes32 (es.map (fun v => widen fmt v none))) fl
    | 16 =>
      let (a, c) := c.veA n bundle slot
      let out := (List.zip (List.range 64) a).map (fun p => narrow fmt (bit slot 28) (c.veRnd n slot p.1) p.2)
      let k := c.coreOf n
      (c.setCore n { k with conv := k.conv + 1 }).veOut n bundle qd 4 (packElems (fmtBits fmt) out) fl
    | _ =>
      let (a, c) := c.veA n bundle slot
      let lo := mxPack fmt (fun i => c.veRnd n slot i) (a.take 32)
      let hi := mxPack fmt (fun i => c.veRnd n slot (32 + i)) (a.drop 32)
      let k := c.coreOf n
      let c := c.setCore n { k with conv := k.conv + 1 }
      let qc := bits slot 45 40
      let data := packElems (fmtBits fmt) (lo.2 ++ hi.2)
      let scales := toBytes 1 lo.1 ++ toBytes 1 hi.1
      let pushes := if qd = qc then [(qd, c.vePad n qd (data ++ scales) fl)] else [(qd, c.vePad n qd data fl), (qc, c.vePad n qc scales fl)]
      c.result n ⟨k.cyc + 5, 1, bundle, [], pushes, none, some fmt⟩

/-! ## SCU (R209, R210) -/

/-- The comparison REL on unsigned values. -/
def relHolds (r a b : Nat) : Bool :=
  match r with
  | 0 => decide (a = b)
  | 1 => decide (a ≠ b)
  | 2 => decide (a < b)
  | 3 => decide (a ≤ b)
  | 4 => decide (a > b)
  | _ => decide (a ≥ b)

/-- Issue an SCU operation: it writes at the end of its issue cycle (R203). -/
def Chip.scuIssue (c : Chip) (n bundle slot : Nat) : Chip :=
  let k := c.coreOf n
  if k.scuAt = some k.cyc then c.sfault n 5 3 none bundle
  else
    let d := bits slot 59 57
    let imm := bits slot 31 0
    let b := if bit slot 47 then imm else k.ctr (bits slot 53 51)
    let k := { k with scuAt := some k.cyc }
    let set := fun (v : Nat) => { k with csNext := k.csNext ++ [(d, BitVec.ofNat 32 v)] }
    let k := match bits slot 63 60 with
      | 0 => k
      | 1 => set imm
      | 2 => set (k.ctr (bits slot 56 54) + b)
      | 3 => set (k.ctr (bits slot 56 54) + (2 ^ 32 - b))
      | 4 => set (if bit imm 4 then k.param (imm % 16) >>> 32 else k.param (imm % 16) % 2 ^ 32)
      | 5 => { k with ksNext := k.ksNext ++ [(d, .rel (bits slot 56 54) (bits slot 50 48) (bits slot 53 51)
                (if bit slot 47 then some (BitVec.ofNat 32 imm) else none))] }
      | _ => { k with ksNext := k.ksNext ++ [(d, .const (bit imm 0))] }
    (c.setCore n k).count (pgCORE n) 14 1

/-- The value a comparator has at the start of a cycle. -/
def cmpVal (cs : List (BitVec 32)) (s : CmpSrc) : Bool :=
  match s with
  | .const v => v
  | .rel a r b imm =>
    let g := fun (i : Nat) => ((cs[i % 8]?).getD 0).toNat
    relHolds r (g a) (match imm with | some v => v.toNat | none => g b)

end Sys2Proof.Machine
end

