-- ==== Sys2Proof/Machine/Sparse.lean ====
section
/-!
DEFINITION. The sparse index unit (R157 to R190): KBH units, matching and packing, the dealing of packs to the DPUs and the
merge pass, PROBE, JOIN and MASK.
-/

namespace Sys2Proof.Machine

/-- A stored block of a row: block column, bitmap of its elements, scale byte, the 32 elements (0 where not stored). -/
structure KBlock where
  col : Nat
  map : Nat
  scale : Nat
  elems : List Nat
  deriving DecidableEq, Repr, Inhabited

/-- Bits set among the low 32 of a word, lowest first. -/
def bitList (m : Nat) : List Nat := (List.range 32).filter (fun i => bit m i)

/-- Put stored elements at the positions a bitmap names. -/
def spread (m : Nat) : Nat → List Nat → List Nat
  | 0, _ => []
  | k + 1, es => if bit m (32 - (k + 1)) then es.headD 0 :: spread m k es.tail else 0 :: spread m k es

/-- A level-0 record at the head of the bytes: the block and the bytes it takes (R162). -/
def recAt (f col : Nat) (bs : List (BitVec 8)) : KBlock × Nat :=
  let m := ofBytes (bs.take 4)
  let sc := if fmtScaled f then 1 else 0
  let k := (bitList m).length
  let len := 4 + sc + (k * fmtBits f + 7) / 8
  let es := elems (fmtBits f) k ((bs.drop (4 + sc)).take ((k * fmtBits f + 7) / 8))
  (⟨col, m, if sc = 1 then ((bs[4]?).getD 0).toNat else 127, spread m 32 es⟩, (len + 3) / 4 * 4)

/-- The records of one row: for each marked block column whose level-1 word has the row's bit. -/
def rowRecs (f i : Nat) (bs : List (BitVec 8)) (off : Nat) : List (Nat × Nat) → List (KBlock × Nat) × Nat
  | [] => ([], off)
  | (col, l1) :: t =>
    if bit l1 i then
      let (b, len) := recAt f col (bs.drop off)
      let (r, e) := rowRecs f i bs (off + len) t
      ((b, off) :: r, e)
    else rowRecs f i bs off t

/-- Rows i to 31 of a unit. -/
def unitRows (f : Nat) (bs : List (BitVec 8)) (cols : List (Nat × Nat)) : Nat → Nat → List (List (KBlock × Nat)) × Nat
  | 0, off => ([], off)
  | k + 1, off =>
    let (r, e) := rowRecs f (32 - (k + 1)) bs off cols
    let (rs, e') := unitRows f bs cols k e
    (r :: rs, e')

/-- A KBH unit parsed as its bits are written (R161, R163): 32 rows of blocks, the bytes it takes, the word offsets of form
errors. Blocks at or beyond KB and records with an empty bitmap are left out; `rows` are the operation's rows of the unit, beyond which a
row is no error. -/
def parseUnit (f kb rows : Nat) (bs : List (BitVec 8)) : List (List KBlock) × Nat × List Nat :=
  let nw := (kb + 31) / 32
  let l2 := (List.range nw).flatMap (fun c => (bitList (ofBytes ((bs.drop (4 * c)).take 4))).map (fun b => (32 * c + b, c)))
  let cols := (List.zip (List.range l2.length) l2).map (fun p => (p.2.1, ofBytes ((bs.drop (4 * nw + 4 * p.1)).take 4)))
  let (rs, e) := unitRows f bs cols 32 (4 * nw + 4 * l2.length)
  let errs := (l2.filter (fun p => decide (p.1 ≥ kb))).map (fun p => p.2) ++
    ((rs.take rows).flatMap (fun r => (r.filter (fun b => b.1.map = 0)).map (fun b => b.2 / 4)))
  let good := rs.map (fun r => (r.map (fun b => b.1)).filter (fun b => b.map ≠ 0 && decide (b.col < kb)))
  (good, (e + 255) / 256 * 256, errs)

/-- Units one after another. -/
def parseUnits (f kb : Nat) : Nat → Nat → List (BitVec 8) → List (List (List KBlock) × Nat × List Nat)
  | 0, _, _ => []
  | k + 1, rows, bs =>
    let u := parseUnit f kb (min rows 32) bs
    u :: parseUnits f kb k (rows - 32) (bs.drop u.2.1)

/-- An element's encoding is neither +0 nor −0 (R165). -/
def elemNonZero (f v : Nat) : Bool :=
  if f = 5 then decide (v ≠ 0) else decide (v % 2 ^ (fmtBits f - 1) ≠ 0)

/-- A dense row of H as blocks whose bitmap marks its non-zero elements (R148, R165). -/
def denseRow (f kb : Nat) (bs : List (BitVec 8)) : List KBlock :=
  let w := fmtBits f * 4
  (List.range kb).map (fun k =>
    let es := elems (fmtBits f) 32 ((bs.drop (k * w)).take w)
    let m := (List.zip (List.range 32) es).foldl (fun m p => if elemNonZero f p.2 then m + 2 ^ p.1 else m) 0
    ⟨k, m, if fmtScaled f then ((bs[kb * w + k]?).getD 0).toNat else 127, es⟩)

/-- Bytes of a dense row of 32 × kb elements, padded to 64 (R148). -/
def rowBytes (f kb : Nat) : Nat := ((kb * fmtBits f * 4 + (if fmtScaled f then kb else 0)) + 63) / 64 * 64

/-- The block of a row at a block column. -/
def blockAt (row : List KBlock) (w : Nat) : KBlock := (row.find? (fun b => b.col = w)).getD ⟨w, 0, 127, []⟩

/-- The lowest t set bits of a word, and the index after the t-th. -/
def lowBits (m t : Nat) : Nat × Nat :=
  let l := (bitList m).take t
  (l.foldl (fun a i => a + 2 ^ i) 0, match l.getLast? with | some i => i + 1 | none => 0)

/-- One pack from block column w, element j: its segments and where the next pack starts (R166). -/
def packOne (kb w0 : Nat) (mb : Nat → Nat) : Nat → Nat → Nat → Nat → List (Nat × Nat) → List (Nat × Nat) × Nat × Nat
  | 0, w, j, _, segs => (segs, w, j)
  | f + 1, w, j, n, segs =>
    if w < w0 + 8 ∧ w < kb ∧ n < 32 then
      let m := (mb w >>> j) <<< j
      let p := (bitList m).length
      let t := min p (32 - n)
      let (lo, nx) := lowBits m t
      let segs := if t > 0 then segs ++ [(w, lo)] else segs
      if t < p then (segs, w, nx) else packOne kb w0 mb f (w + 1) 0 (n + t) segs
    else (segs, w, j)

/-- The packs of one output (R166); fuel bounds their number. -/
def packsOf (kb : Nat) (mb : Nat → Nat) : Nat → Nat → Nat → List (List (Nat × Nat))
  | 0, _, _ => []
  | f + 1, w, j =>
    if w < kb then
      let (segs, w', j') := packOne kb w mb 9 w j 0 []
      segs :: packsOf kb mb f w' j'
    else []

/-- The value V of a pack (R168). -/
def packV (fs fh : Nat) (rowS rowH : List KBlock) (segs : List (Nat × Nat)) : FV :=
  let v := segs.foldl (fun acc g =>
    let a := blockAt rowS g.1
    let b := blockAt rowH g.1
    if (fmtScaled fs && a.scale = 255) || (fmtScaled fh && b.scale = 255) then FV.nan
    else
      let p := (bitList g.2).foldl (fun s i =>
        FV.add s (FV.mul (decodeElem fs ((a.elems[i]?).getD 0)) (decodeElem fh ((b.elems[i]?).getD 0)))) (.fin false 0 0)
      FV.add acc (FV.scale ((if fmtScaled fs then e8m0 a.scale else 0) + (if fmtScaled fh then e8m0 b.scale else 0)) p))
    (.fin false 0 0)
  match v with
  | .fin _ 0 _ => .fin false 0 0
  | v => v

/-- A DPU's run of packs: its partials as (output, value), in order (R167). -/
def dpuRun : List (Nat × FV) → Option (Nat × Nat) → List (Nat × Nat)
  | [], none => []
  | [], some p => [p]
  | (o, v) :: t, none => dpuRun t (some (o, (FV.add (.fin false 0 0) v).toF32))
  | (o, v) :: t, some (p, a) =>
    if o = p then dpuRun t (some (p, (FV.add (f32 a) v).toF32))
    else (p, a) :: dpuRun t (some (o, (FV.add (.fin false 0 0) v).toF32))

/-- The partials of every DPU, in ascending DPU: pack q goes to DPU d when f(d) ≤ q < f(d + 1) (R167). -/
def dealPacks (ps : List (Nat × FV)) : List (Nat × Nat) :=
  let P := ps.length
  (List.range 128).flatMap (fun d => dpuRun ((ps.drop (d * P / 128)).take ((d + 1) * P / 128 - d * P / 128)) none)

/-- Outputs 0 to n − 1: the pairwise merge of each output's partials; an output without a pack is +0 (R167). -/
def mergeOuts (n : Nat) (parts : List (Nat × Nat)) : List Nat :=
  (List.range n).map (fun o => treeSum 8 ((parts.filter (fun p => p.1 = o)).map (fun p => p.2)))

/-- What an SPSTEP computes before any timing: outputs, number of packs and of empty packs, pairs, walked outputs, split
outputs, largest span. -/
structure SpOut where
  outs : List Nat
  packs : Nat
  empty : Nat
  pairs : Nat
  walked : Nat
  split : Nat
  span : Nat
  deriving DecidableEq, Repr

/-- The SPSTEP of ROWS × NV outputs (R165 to R168): S rows, H vectors, the walked rows and the element mask. -/
def spCompute (fs fh kb : Nat) (rows : List (List KBlock)) (vecs : List (List KBlock)) (walk : Nat → Bool) (kmask : Nat → Nat) :
    SpOut :=
  let nv := vecs.length
  let packs := ((List.zip (List.range rows.length) rows).filter (fun r => walk r.1)).flatMap (fun r =>
    (List.zip (List.range nv) vecs).flatMap (fun v =>
      (packsOf kb (fun w => (blockAt r.2 w).map &&& (blockAt v.2 w).map &&& kmask w) (kb * 32 + 1) 0 0).map (fun segs =>
        (r.1 * nv + v.1, segs, packV fs fh r.2 v.2 segs))))
  let parts := dealPacks (packs.map (fun p => (p.1, p.2.2)))
  let spans := (List.range (rows.length * nv)).map (fun o => (parts.filter (fun p => p.1 = o)).length)
  { outs := mergeOuts (rows.length * nv) parts
    packs := packs.length
    empty := (packs.filter (fun p => p.2.1.isEmpty)).length
    pairs := (packs.map (fun p => (p.2.1.map (fun g => (bitList g.2).length)).sum)).sum
    walked := ((List.range rows.length).filter walk).length * nv
    split := (spans.filter (fun s => decide (s > 1))).length
    span := spans.foldl max 0 }

/-- Bit j of a mask string (R164). -/
def maskBit (bs : List (BitVec 8)) (j : Nat) : Bool := bit ((bs[j / 8]?).getD 0).toNat (j % 8)

/-- Record an SIU operation's summary in the Vitrine when SIU_CTRL.TRACE is 1 (R230, R232). -/
def Chip.siuTrace (c : Chip) (n bundle op : Nat) : Chip :=
  let page := pgSIU n
  if c.fld page 0x008 0 0 = 0 then c
  else
    c.vitWrite (n / 8) 4 (c.vitHead 2 (n % 8) bundle 0 0 0 (c.coreOf n).cyc ++ toBytes 8 (c.reg page 0x200) ++
      toBytes 8 (c.reg page 0x208) ++ toBytes 8 (c.reg page 0x210) ++ toBytes 8 (c.reg page 0x218) ++ toBytes 1 op)

/-- The SIU is busy with operation `op` until a cycle. -/
def Chip.siuBusy (c : Chip) (n op until_ : Nat) : Chip :=
  let k := c.coreOf n
  c.setCore n { k with siuUntil := until_, siuOp := op }

/-- The audit counts of a KMASK SPSTEP (R180): PREDICTED, FALSE_POS, AUDITED, MISSES. -/
def auditCounts (kb : Nat) (vecs : List (List KBlock)) (mask shadow : Nat → Bool) : Nat × Nat × Nat × Nat :=
  (List.range (32 * kb)).foldl (fun a k =>
    vecs.foldl (fun a v =>
      let nz := bit (blockAt v (k / 32)).map (k % 32)
      (a.1 + b2n (mask k), a.2.1 + b2n (mask k && !nz), a.2.2.1 + b2n (shadow k), a.2.2.2 + b2n (shadow k && nz))) a) (0, 0, 0, 0)

/-- Issue an SPSTEP (R164 to R172, R180, R183). -/
def Chip.spIssue (c : Chip) (n bundle slot : Nat) : Chip :=
  let k := c.coreOf n
  let page := pgSIU n
  let cb := bits slot 23 21
  let steps := k.ctr cb
  let rows := k.ctr (cb + 1)
  let kb := k.ctr (cb + 2)
  let phase := k.ctr (cb + 3)
  let nv := bits slot 27 24
  let fs := bits slot 35 32
  let fh := bits slot 31 28
  let mode := bits slot 11 10
  if k.siuUntil > k.cyc ∨ k.mtUntil > k.cyc then c.sfault n 2 3 none bundle
  else if rows > 65536 ∨ kb > 8192 then c.sfault n 2 4 none bundle
  else
    let c := c.count page 0 1
    if rows = 0 ∨ nv = 0 ∨ kb = 0 then c
    else
      let (c, _) := (c.injW page 0).injR page 0 k.tag.toNat 0
      let before := (c.coreOf n).faults.length
      let q := c.qs n (bits slot 59 54)
      let avail := q.present - q.taken
      let units := parseUnits fs kb ((rows + 31) / 32) rows (c.qBytes n q q.taken avail)
      let slen := (units.map (fun u => u.2.1)).sum
      let (_, c) := c.qPeek n 2 bundle (bits slot 59 54) 0 slen
      let qh := c.qs n (bits slot 53 48)
      let hlen := if bit slot 9 then nv * rowBytes fh kb
        else (parseUnit fh kb nv (c.qBytes n qh qh.taken (qh.present - qh.taken))).2.1
      let (hb, c) := c.qPeek n 2 bundle (bits slot 53 48) 0 hlen
      let mlen := if mode = 0 then 0 else if mode = 1 then (rows + 7) / 8 else 4 * kb
      let (mb, c) := c.qPeek n 2 bundle (bits slot 47 42) 0 mlen
      if (c.coreOf n).faults.length ≠ before then c
      else
        let srows := ((units.flatMap (fun u => u.1)).take rows)
        let hu := parseUnit fh kb nv hb
        let vecs := if bit slot 9 then (List.range nv).map (fun v => denseRow fh kb (hb.drop (v * rowBytes fh kb)))
          else hu.1.take nv
        let aud := bit slot 4
        let am := 2 ^ bits slot 8 5
        let shadow := fun (j : Nat) => aud && !(maskBit mb j) && decide (j % am = phase % am)
        let walk := fun (r : Nat) => if mode = 1 then maskBit mb r || shadow r else true
        let kmask := fun (w : Nat) => if mode = 2 then ofBytes ((mb.drop (4 * w)).take 4) else 2 ^ 32 - 1
        let o := spCompute fs fh kb srows vecs walk kmask
        let s := (stepLen fs fh).getD 1
        let t := (c.coreOf n).cyc
        let need := (o.packs + 127) / 128
        let errs := (List.zip (List.range units.length) units).flatMap (fun u => u.2.2.2.map (fun w => (u.1, w))) ++
          (if bit slot 9 then [] else hu.2.2.map (fun w => (0, w)))
        let tag := (c.coreOf n).tag.toNat
        let c := errs.foldl (fun c e => (c.err page 4 tag (e.1 <<< 16 + e.2 % 65536)).count page 18 1) c
        let c := (c.count page 3 steps).count page 4 (steps - need)
        let c := ((c.count page 5 o.packs).count page 6 o.empty).count page 7 o.pairs
        let c := ((c.count page 8 (o.walked * 32 * kb)).count page 9 o.split).count page 17 (srows.length - o.walked / nv)
        let c := (c.count page 21 slen).setReg page 0x200 (o.packs <<< 32 + need <<< 8 + min 255 o.span)
        let c := if mode = 2 ∧ aud then
            let a := auditCounts kb vecs (maskBit mb) shadow
            let c := (c.setReg page 0x208 (a.1 <<< 32 + a.2.1)).setReg page 0x210 (a.2.2.1 <<< 32 + a.2.2.2)
            (((c.count page 13 a.1).count page 14 a.2.1).count page 15 a.2.2.1).count page 16 a.2.2.2
          else c
        let c := (c.siuTrace n bundle 0).accSet n []
        if need > steps then
          let left := ((List.range 128).map (fun d => ((d + 1) * o.packs / 128 - d * o.packs / 128) - steps)).sum
          let c := (c.result n ⟨t + 8 + steps * s, 2, bundle, [], [], some left, none⟩).siuBusy n 1 (t + 24 + steps * s)
          let k := c.coreOf n
          c.setCore n { k with tileSiu := t + 24 + steps * s }
        else
          let outs := o.outs ++ List.replicate ((64 - o.outs.length % 64) % 64) 0
          let c := c.result n ⟨t + 23 + steps * s, 2, bundle, [(bits slot 59 54, slen)], [(bits slot 41 36, bytes32 outs)], none, none⟩
          let c := c.siuBusy n 1 (t + 24 + steps * s)
          let k := c.coreOf n
          c.setCore n { k with tileSiu := t + 24 + steps * s }

/-- Keys of a list with a mark on each that breaks ascending order: compared with the last key kept (R178). -/
def keepKeys (last : Option Nat) (pos : Nat) : List Nat → List (Nat × Nat × Bool)
  | [] => []
  | k :: ks =>
    let bad := match last with | some l => decide (k ≤ l) | none => false
    (k, pos, bad) :: keepKeys (if bad then last else some k) (pos + 1) ks

/-- The merged records of JOIN: ascending keys, A first on equal keys (R176). -/
def joinMerge : Nat → List (Nat × Nat) → List (Nat × Nat) → List Nat
  | 0, _, _ => []
  | f + 1, a :: as, b :: bs =>
    if a.1 = b.1 then
      (a.1 <<< 32 + 2 ^ 30 + a.2) :: (b.1 <<< 32 + 2 ^ 31 + 2 ^ 30 + b.2) :: joinMerge f as bs
    else if a.1 < b.1 then (a.1 <<< 32 + a.2) :: joinMerge f as (b :: bs)
    else (b.1 <<< 32 + 2 ^ 31 + b.2) :: joinMerge f (a :: as) bs
  | f + 1, a :: as, [] => (a.1 <<< 32 + a.2) :: joinMerge f as []
  | f + 1, [], b :: bs => (b.1 <<< 32 + 2 ^ 31 + b.2) :: joinMerge f [] bs
  | _ + 1, [], [] => []

/-- Issue a PROBE or JOIN (R174 to R178, R184). -/
def Chip.mergeIssue (c : Chip) (n bundle slot : Nat) (join : Bool) : Chip :=
  let k := c.coreOf n
  let page := pgSIU n
  let na := k.ctr (bits slot 41 39)
  let nb := k.ctr (bits slot 41 39 + 1)
  if k.siuUntil > k.cyc then c.sfault n 2 3 none bundle
  else if na > 32768 ∨ nb > 32768 then c.sfault n 2 4 none bundle
  else
    let c := c.count page 1 1
    if na = 0 ∧ nb = 0 then c
    else
      let before := (c.coreOf n).faults.length
      let (ab, c) := c.qPeek n 2 bundle (bits slot 59 54) 0 (4 * na)
      let (bb, c) := c.qPeek n 2 bundle (bits slot 53 48) 0 (4 * nb)
      if (c.coreOf n).faults.length ≠ before then c
      else
        let as := keepKeys none 0 (words32 na ab)
        let bs := keepKeys none 0 (words32 nb bb)
        let ka := (as.filter (fun x => !x.2.2)).map (fun x => (x.1, x.2.1))
        let kbs := (bs.filter (fun x => !x.2.2)).map (fun x => (x.1, x.2.1))
        let drops := (as.filter (fun x => x.2.2)).map (fun x => (false, x.1, x.2.1)) ++
          (bs.filter (fun x => x.2.2)).map (fun x => (true, x.1, x.2.1))
        let matched := (ka.filter (fun x => kbs.any (fun y => y.1 = x.1))).length
        let out := if join then
            (joinMerge (na + nb + 1) ka kbs ++ drops.map (fun (d : Bool × Nat × Nat) => d.2.1 <<< 32 + (b2n d.1) <<< 31 + 2 ^ 29 + d.2.2)).flatMap (toBytes 8)
          else as.flatMap (fun x => toBytes 4 (if x.2.2 then 2 ^ 30
            else match kbs.find? (fun y => y.1 = x.1) with | some y => 2 ^ 31 + y.2 | none => 0))
        let tag := (c.coreOf n).tag.toNat
        let c := drops.foldl (fun (c : Chip) (d : Bool × Nat × Nat) => c.err page 3 tag ((b2n d.1) <<< 31 + d.2.2)) c
        let c := ((c.count page 10 (na + nb)).count page 11 matched).count page 12 drops.length
        let c := c.setReg page 0x218 (matched <<< 32 + (drops.length % 65536) <<< 16)
        let t := (c.coreOf n).cyc + (na + nb + 31) / 32 + 6
        let c := c.siuTrace n bundle (if join then 2 else 1)
        (c.result n ⟨t - 1, 2, bundle, [(bits slot 59 54, 256 * ((na + 63) / 64)), (bits slot 53 48, 256 * ((nb + 63) / 64))],
          [(bits slot 47 42, out)], none, none⟩).siuBusy n (if join then 3 else 2) t

/-- a ranks above b among scores: larger, with a NaN below every number (R179). -/
def scoreAbove (a b : Nat) : Bool := if fnan a then false else if fnan b then true else fless b a

/-- The mask bits of one group: the N largest scores, a tie going to the lower index (R179). -/
def maskGroup (N : Nat) (vs : List Nat) : List Bool :=
  let ix := List.zip (List.range vs.length) vs
  ix.map (fun p => decide ((ix.filter (fun r => scoreAbove r.2 p.2 || (!(scoreAbove p.2 r.2) && decide (r.1 < p.1)))).length < N))

/-- The groups of G scores, one after another (fuel: the number of scores). -/
def maskGroups (N G : Nat) : Nat → List Nat → List Bool
  | 0, _ => []
  | f + 1, vs => if vs = [] then [] else maskGroup N (vs.take G) ++ maskGroups N G f (vs.drop G)

/-- Issue a MASK (R179, R185). -/
def Chip.maskIssue (c : Chip) (n bundle slot : Nat) : Chip :=
  let k := c.coreOf n
  let page := pgSIU n
  let m := k.ctr (bits slot 41 39)
  let N := k.ctr (bits slot 41 39 + 1)
  let G := k.ctr (bits slot 41 39 + 2)
  if k.siuUntil > k.cyc then c.sfault n 2 3 none bundle
  else
    let c := c.count page 2 1
    if m = 0 then c
    else
      let before := (c.coreOf n).faults.length
      let (bs, c) := c.qPeek n 2 bundle (bits slot 59 54) 0 (4 * m)
      if (c.coreOf n).faults.length ≠ before then c
      else
        let sel := if G = 0 then [] else maskGroups N G m (words32 m bs)
        let v := (List.zip (List.range sel.length) sel).foldl (fun a p => if p.2 then a + 2 ^ p.1 else a) 0
        let t := (c.coreOf n).cyc + (m + 31) / 32 + 8
        let c := c.siuTrace n bundle 3
        (c.result n ⟨t - 1, 2, bundle, [(bits slot 59 54, 256 * ((m + 63) / 64))],
          [(bits slot 47 42, toBytes (256 * ((m + 2047) / 2048)) v)], none, none⟩).siuBusy n 4 t

/-- Issue an SIU slot by its OP (R182). -/
def Chip.siuIssue (c : Chip) (n bundle slot : Nat) : Chip :=
  match bits slot 63 60 with
  | 0 => c.spIssue n bundle slot
  | 1 => c.mergeIssue n bundle slot false
  | 2 => c.mergeIssue n bundle slot true
  | _ => c.maskIssue n bundle slot

end Sys2Proof.Machine
end

