-- ==== Sys2Proof/Machine/Kernel.lean ====
section
/-!
DEFINITION. The sequencer of a core (R199 to R208), one kernel cycle (R204, R205, R218, R220), the end of a kernel (R222),
scheduling faults (R224 to R226, R142), debug (R227 to R229) and the Vitrine's own commands (R230 to R234).
-/

namespace Sys2Proof.Machine

/-! ## Bundles (R199 to R201) -/

/-- Instruction-memory word w of core n. -/
def Chip.imemWord (c : Chip) (n w : Nat) : Nat := ofBytes (Mem.readN c.core.imem (n * 65536 + 4 * w) 4)

/-- Header of bundle b of core n. -/
def Chip.bundleHdr (c : Chip) (n b : Nat) : Nat := c.imemWord n (((c.coreOf n).starts[b]?).getD 0)

/-- The slot at place `e` (0 MT, 1 VE, 2 SIU, 3 LDE, 4 STE, 5 SCU) of a bundle, when it is present (R200). -/
def Chip.bundleSlot (c : Chip) (n b e : Nat) : Option Nat :=
  let h := c.bundleHdr n b
  if ¬ bit h (26 + e) then none
  else
    let before := ((List.range e).filter (fun j => bit h (26 + j))).length
    let w := ((c.coreOf n).starts[b]?).getD 0 + 1 + 2 * before
    some (c.imemWord n w + (c.imemWord n (w + 1)) <<< 32)

/-- A bundle's issue interval (R201, R220). -/
def Chip.interval (c : Chip) (n b : Nat) : Nat :=
  let mt := match c.bundleSlot n b 0 with
    | some s => (stepLen (bits s 55 52) (bits s 51 48)).getD 1
    | none => 1
  let ve := match c.bundleSlot n b 1 with
    | some s => if bits s 63 58 = 9 then 3 else 1
    | none => 1
  max mt ve

/-- The last bundle of the block that bundle b opens (R202); fuel counts bundles. -/
def Chip.closeOf (c : Chip) (n : Nat) : Nat → Nat → Int → Nat
  | 0, b, _ => b
  | f + 1, b, depth =>
    let h := c.bundleHdr n b
    let d := depth + (if bit h 7 then 1 else 0) - (bits h 6 5 : Nat)
    if d ≤ 0 then b else c.closeOf n f (b + 1) d

/-! ## The unit that runs together -/

/-- The cores that run with core n: all 8 of the cluster for a gang kernel (R142). -/
def Chip.unit (c : Chip) (n : Nat) : List Nat := if (c.coreOf n).gang then (List.range 8).map (· + n / 8 * 8) else [n]

/-- Whether core n has control to do that takes no cycle: a block check, or the end of a bundle (R202). -/
def Chip.ctlDue (c : Chip) (n : Nat) : Bool :=
  let k := c.coreOf n
  decide (k.b < k.starts.length) && decide (k.at_ = k.cyc) && (!k.entered || decide (k.i ≥ bits (c.bundleHdr n k.b) 25 14))

/-- Whether core n has an issue to make in the current cycle. -/
def Chip.issueDue (c : Chip) (n : Nat) : Bool :=
  let k := c.coreOf n
  decide (k.b < k.starts.length) && decide (k.at_ = k.cyc) && k.entered && decide (k.i < bits (c.bundleHdr n k.b) 25 14)

/-- The bundle after closing `j` blocks: the stack left and the next bundle (R202). -/
def closeBlocks (next : Nat) : Nat → List (Nat × Nat) → Nat × List (Nat × Nat)
  | 0, stk => (next, stk)
  | _ + 1, [] => (next, [])
  | j + 1, (s, l) :: stk => if l > 1 then (s, (s, l - 1) :: stk) else closeBlocks next j stk

/-- The block stack is read: a fault placed in it is met, at a word address that R236 does not place (free, log 7). -/
def Chip.stackFound (c : Chip) (n : Nat) : Chip :=
  if c.flt.placed.any (fun p => decide (p.page = pgCORE n) && decide (p.target = 4)) then
    let (v, c) := c.freeVal 16
    (c.injR (pgCORE n) 4 (c.coreOf n).tag.toNat v).1
  else c

/-- A bundle is read from instruction memory: faults placed in its words are met (R236). -/
def Chip.bundleFound (c : Chip) (n b : Nat) : Chip :=
  let w := ((c.coreOf n).starts[b]?).getD 0
  let len := 4 + 8 * ((List.range 6).filter (fun e => bit (c.bundleHdr n b) (26 + e))).length
  (c.faultsIn (pgCORE n) 0 (n * 65536 + 4 * w) len).foldl (fun c p =>
    let i := 2 ^ 31 + p.at_ / 4 % 16384
    let t := (c.coreOf n).tag.toNat
    (c.faultFound p t i t i).1) c

/-- One piece of control (R202): the block check on entering a bundle, or its end. -/
def Chip.ctlStep (c : Chip) (n : Nat) : Chip :=
  let k := c.coreOf n
  let h := c.bundleHdr n k.b
  if ¬ k.entered then
    let inside : Bool := match k.stk with | (s, _) :: _ => decide (s = k.b) | [] => false
    if bit h 7 && !inside then
      let m := k.ctr (bits h 4 2)
      if m = 0 then c.setCore n { k with b := c.closeOf n k.starts.length k.b 0 + 1 }
      else ((c.setCore n { k with stk := (k.b, m) :: k.stk, entered := true, i := 0 }).rewritten (pgCORE n) 4 0 4).injW (pgCORE n) 4
    else c.setCore n { k with entered := true, i := 0 }
  else
    let c := if bits h 6 5 > 0 then c.stackFound n else c
    let (next, stk) := closeBlocks (k.b + 1) (bits h 6 5) k.stk
    c.setCore n { k with b := next, stk := stk, entered := false, i := 0 }

/-- One issue of the bundle at which core n stands (R202, R224). -/
def Chip.issueBundle (c : Chip) (n : Nat) : Chip :=
  let k := c.coreOf n
  let h := c.bundleHdr n k.b
  let c := c.bundleFound n k.b
  let pm := bits h 13 12
  let kv := ((k.ks[bits h 11 9]?).map (fun x => x.val)).getD false
  let on := if pm = 0 then true else if k.i = 0 ∨ bit h 8 then decide (kv = decide (pm = 1)) else k.on
  let lastIss := decide (k.i + 1 = bits h 25 14)
  let page := pgCORE n
  let c := c.setCore n { k with on := on, last := k.b, passed := false }
  let c := if c.fld page 0x008 0 0 = 1 then
      c.vitWrite (n / 8) 2 (c.vitHead 0 (n % 8) k.b 0 0 0 k.cyc ++ toBytes 4 h ++ toBytes 4 k.i ++ toBytes 1 (b2n on))
    else c
  let c := c.count page (if on then 2 else 3) 1
  let slot := fun (e : Nat) => c.bundleSlot n k.b e
  let c := match slot 1 with | some s => if k.i = 0 then c.veOpen n s else c | none => c
  let c' := if ¬ on then c else
    let d := match slot 0 with | some s => c.mtIssue n k.b s | none => c
    let d := match slot 1 with | some s => d.veIssue n k.b s k.i lastIss | none => d
    let d := match slot 2 with | some s => d.siuIssue n k.b s | none => d
    let d := match slot 3 with | some s => d.xferIssue n 3 k.b s | none => d
    let d := match slot 4 with | some s => d.xferIssue n 4 k.b s | none => d
    match slot 5 with | some s => d.scuIssue n k.b s | none => d
  let k' := c'.coreOf n
  c'.setCore n { k' with i := k.i + 1, at_ := k.cyc + c.interval n k.b }

/-! ## One cycle -/

/-- Pops of a result that claims in this cycle (R220). -/
def Chip.resultPops (c : Chip) (n : Nat) (r : Result) : Chip :=
  let old := (c.coreOf n).popped
  r.pops.foldl (fun c p => (c.qTake n r.engine r.bundle p.1 p.2 old 2).2) c

/-- Pushes of a result that claims in this cycle, or its OVERRUN (R170, R205). -/
def Chip.resultPushes (c : Chip) (n : Nat) (r : Result) : Chip :=
  match r.overrun with
  | some left => ((c.err (pgSIU n) 2 (c.coreOf n).tag.toNat left).count (pgSIU n) 19 1).sfault n 2 5 none r.bundle 2
  | none =>
    let old := (c.coreOf n).pushed
    r.pushes.foldl (fun c p => c.qPush n r.engine r.bundle p.1 p.2 old 2 r.fmt) c

/-- The work of the current cycle of core n outside its issues: results, port, claims. -/
def Chip.cycleWork (c : Chip) (n : Nat) : Chip :=
  let due := (c.coreOf n).results.filter (fun r => decide (r.at_ = (c.coreOf n).cyc))
  let c := due.foldl (fun c r => c.resultPops n r) c
  let c := c.portCycle n
  due.foldl (fun c r => c.resultPushes n r) c

/-- Every queue's bytes that arrived become present, and drained entries age by a cycle (R204, R207). -/
def agedQueues (qs : Tab QSt) (arrive : List (Nat × Nat × Bool)) : Tab QSt :=
  qs.map (fun e =>
    let got := ((arrive.filter (fun a => decide (a.1 = e.1))).map (fun a => a.2.1)).sum
    (e.1, { e.2 with present := e.2.present + got, late2 := e.2.late, late := 0 }))

/-- The SCU writes of a cycle take effect at its end, and the comparators follow (R203, R210). -/
def Core.scuEnd (k : Core) : Core :=
  let cs := k.csNext.foldl (fun cs w => cs.set w.1 w.2) k.cs
  let ks := k.ksNext.foldl (fun ks w => ks.set w.1 ⟨w.2, false⟩) k.ks
  { k with cs := cs, csNext := [], ks := ks.map (fun x => { x with val := cmpVal cs x.src }), ksNext := [] }

/-- The cycle of core n ends and the next begins (R203, R205, R210). -/
def Chip.nextCycle (c : Chip) (n : Nat) : Chip :=
  let k := (c.coreOf n).scuEnd
  (c.setCore n { k with
    cyc := k.cyc + 1, qs := agedQueues k.qs k.arrive, arrive := [], popped := [],
    pushed := [], portDone := false, results := k.results.filter (fun r => decide (r.at_ ≠ k.cyc)),
    siuOp := if k.siuUntil ≤ k.cyc + 1 then 0 else k.siuOp }).count (pgCORE n) 1 1

/-! ## Stopping a kernel -/

/-- Lock a tile where it is (R298). -/
def Chip.lockTile (c : Chip) (t : Nat) : Chip :=
  let x := c.tileOf t
  if x.tier then c.setSlot x.slot { c.slotOf x.slot with locks := (c.slotOf x.slot).locks + 1 }
  else { c with hom.imgLocks := Tab.put 0 c.hom.imgLocks t (Tab.get 0 c.hom.imgLocks t + 1) }

/-- Drop a lock (R300). -/
def Chip.unlockTile (c : Chip) (t : Nat) : Chip :=
  let x := c.tileOf t
  if x.tier then c.setSlot x.slot { c.slotOf x.slot with locks := (c.slotOf x.slot).locks - 1 }
  else { c with hom.imgLocks := Tab.put 0 c.hom.imgLocks t (Tab.get 0 c.hom.imgLocks t - 1) }

/-- A launch's locks drop. -/
def Chip.dropLocks (c : Chip) (q : Nat) (i : BitVec 32) : Chip :=
  match c.cmd? q i with
  | some k => (k.locks.foldl (fun c t => c.unlockTile t) c).modCmd q i (fun k => { k with locks := [] })
  | none => c

/-- Whether a running ROUTE drains queue q of the cores of a cluster (R207). -/
def Chip.laneDrained (c : Chip) (cl q : Nat) : Bool :=
  c.rd.routes.any (fun r => decide (bits r.op.toNat 262 262 = 0) && decide (bits r.op.toNat 259 254 = q) &&
    r.clus.any (fun x => decide (x.cluster = cl)))

/-- Entries of a queue that still hold a byte (R208). -/
def QSt.entries (x : QSt) : Nat := (x.claimed + 255) / 256 - x.taken / 256

/-- Discard what queue q of core n holds (R207, R208). -/
def Chip.discardQ (c : Chip) (n q : Nat) : Chip :=
  let x := c.qs n q
  (c.setQs n q { x with taken := 0, present := 0, claimed := 0, late := 0, late2 := 0 }).count (pgCORE n) 17 x.entries

/-- At a kernel's end, entries of RTE_LANE queues that no running ROUTE drains are discarded (R207). -/
def Chip.laneDiscard (c : Chip) (n : Nat) : Chip :=
  (c.coreOf n).qs.foldl (fun c e =>
    if e.2.kind = 1 ∧ e.2.claimed > e.2.taken ∧ ¬ c.laneDrained (n / 8) e.1 then c.discardQ n e.1 else c) c

/-- The queues of a core that stops: bytes transferred in its last cycle arrive, results that were not yet present are discarded and
give up the space they claimed (R225). -/
def stoppedQueues (k : Core) : Tab QSt :=
  let lost := k.arrive.filter (fun a => a.2.2)
  (agedQueues k.qs (k.arrive.filter (fun a => !a.2.2))).map (fun e =>
    (e.1, { e.2 with claimed := e.2.claimed - ((lost.filter (fun a => decide (a.1 = e.1))).map (fun a => a.2.1)).sum }))

/-- Core n stops: nothing outstanding is kept (R225). -/
def Chip.coreStop (c : Chip) (n : Nat) : Chip :=
  let k := c.coreOf n
  (c.setCore n { k with
    st := 0, cmd := none, gang := false, qs := stoppedQueues k, arrive := [], results := [], ldes := [], stes := [], csNext := [], ksNext := [],
    popped := [], pushed := [], portDone := false, mtUntil := 0, veUntil := 0, siuUntil := 0, tileSiu := 0, siuOp := 0, scuAt := none,
    red := [], lsum := none, faults := [], held := false, passed := false, stepping := false }).laneDiscard n

/-- The kernel of core n's unit ends with a status: its cores stop, its command's work ends. -/
def Chip.kernelEnds (c : Chip) (n : Nat) (st : Status) (info : Nat) : Chip :=
  let cmd := (c.coreOf n).cmd
  let c := (c.unit n).foldl (fun c m => c.coreStop m) c
  match cmd with
  | some (q, i) => c.endWork q i st info
  | none => c

/-! ## Scheduling faults (R224 to R226) -/

/-- CORE_FAULT of a core's faults of one cycle: the lowest ENGINE code, MULTI when there are several (R224, R226, R235). -/
def faultWord (cyc : Nat) (fs : List SFault) : Nat :=
  match fs with
  | [] => 0
  | f :: t =>
    let g := t.foldl (fun (b : SFault) x => if x.engine < b.engine then x else b) f
    g.bundle <<< 50 + (g.queue.getD 0) <<< 44 + g.engine <<< 41 + g.cause <<< 37 + (b2n (!t.isEmpty)) <<< 36 +
      (b2n g.queue.isSome) <<< 35 + cyc % 2 ^ 32

/-- Record a core's scheduling faults (R224, R226). -/
def Chip.reportFault (c : Chip) (n : Nat) : Chip :=
  let k := c.coreOf n
  if k.faults = [] then c
  else ((c.setReg (pgCORE n) 0x210 (faultWord k.cyc k.faults)).err (pgCORE n) 2 k.tag.toNat 0).count (pgCORE n) 18 1

/-- The fault cycle of a unit ends: its SCU writes take effect, its cores halt and the command fails with SCHEDULE, now or, with HOLD_FAULT, at RESUME
(R142, R225, R229). -/
def Chip.faultEnds (c : Chip) (n : Nat) : Chip :=
  let ms := c.unit n
  let bad := ms.filter (fun m => decide ((c.coreOf m).faults ≠ []))
  let c := ms.foldl (fun c m => (c.setCore m (c.coreOf m).scuEnd).reportFault m) c
  if bad.any (fun m => c.fld (pgCORE m) 0x228 4 4 = 1) then
    ms.foldl (fun c m =>
      let k := c.coreOf m
      c.setCore m { k with st := if bad.contains m then 3 else 5, faults := [], held := true }) c
  else c.kernelEnds n .schedule 0

/-- Whether some core of a unit has faulted. -/
def Chip.unitFault (c : Chip) (n : Nat) : Bool := (c.unit n).any (fun m => decide ((c.coreOf m).faults ≠ []))

/-- One cycle of a unit: the work beside the issues, then the faults or the next cycle. -/
def Chip.unitCycle (c : Chip) (n : Nat) : Chip :=
  let ms := c.unit n
  let c := ms.foldl (fun c m => c.cycleWork m) c
  let c := if (c.coreOf n).gang then c.count (pgGNG (n / 8)) 1 1 else c
  let c := if (c.vitOf (n / 8)).fifo.isEmpty then c else c.vitDrain (n / 8) (c.fclkIn (c.coreOf n).cyc)
  if c.unitFault n then (ms.foldl (fun c m => c.count (pgCORE m) 1 1) c).faultEnds n
  else ms.foldl (fun c m => c.nextCycle m) c

/-- Cycles until some core of the unit has an issue or control due, or its list has ended, or cycle C is reached, or a fence is due. -/
def Chip.runOn (c : Chip) (n : Nat) : Nat → Chip
  | 0 => c
  | f + 1 =>
    let k := c.coreOf n
    if k.st ≠ 2 ∨ k.cyc ≥ k.declared ∨ c.flt.due ≠ [] ∨ (c.unit n).any (fun m => decide ((c.coreOf m).at_ = k.cyc)) then c
    else (c.unitCycle n).runOn n f

/-! ## Debug stops (R227, R228) -/

/-- The unit freezes: core n in state BREAK, its gang peers FROZEN (R227, R228). -/
def Chip.freeze (c : Chip) (n : Nat) : Chip :=
  let c := (c.unit n).foldl (fun c m =>
    let k := c.coreOf m
    c.setCore m { k with st := if m = n then 4 else 5, passed := false, stepping := false }) c
  c.count (pgCORE n) 19 1

/-- Core n has to stop before the first issue of the bundle it stands at (R227). -/
def Chip.bundleBreak (c : Chip) (n : Nat) : Bool :=
  let k := c.coreOf n
  let page := pgCORE n
  c.issueDue n && decide (k.i = 0) && !k.passed && decide (c.fld page 0x228 2 2 = 1) && decide (c.fld page 0x238 13 0 = k.b) &&
    (decide (c.fld page 0x228 3 3 = 0) || decide (c.reg page 0x234 = k.tag.toNat))

/-- A stop asked for by the break registers before cycle 0 (R227). -/
def Chip.launchBreak (c : Chip) (n : Nat) : Bool :=
  let page := pgCORE n
  (decide (c.fld page 0x228 0 0 = 1) && decide (c.reg page 0x230 = c.reg page 0x240)) ||
    (decide (c.fld page 0x228 1 1 = 1) && decide (c.reg page 0x234 = (c.coreOf n).tag.toNat))

/-! ## The commands of the sequencer -/

/-- The command of core n's kernel has been told to stop at the end of its bundle (R266). -/
def Chip.abortAsked (c : Chip) (n : Nat) : Bool :=
  match (c.coreOf n).cmd with
  | some (q, i) => ((c.cmd? q i).map (fun k => k.fin)).getD false
  | none => false

/-- The cores of a unit whose list has ended below cycle C: SHORT in this cycle (R222). -/
def Chip.shortCores (c : Chip) (n : Nat) : List Nat :=
  (c.unit n).filter (fun m =>
    let x := c.coreOf m
    decide (x.b ≥ x.starts.length) && decide (x.at_ ≤ x.cyc) && decide (x.cyc < x.declared))

/-- A cycle of a unit in which something issues or a list has ended short: SHORT is raised where it is due, the bundles due issue, and
the cycle's work follows (R222, R225). -/
def Chip.issueCycle (c : Chip) (n : Nat) : Chip :=
  let short := c.shortCores n
  let due := (c.unit n).filter (fun m => c.issueDue m)
  let c := short.foldl (fun c m => c.sfault m 6 7 none (c.coreOf m).last) c
  (due.foldl (fun c m => c.issueBundle m) c).unitCycle n

/-- BUNDLE (R202): the unit of core n does the control it has due, or stops at a break, or issues what is due in this cycle
and runs on to the next cycle in which something is due. -/
def Chip.bundle (c : Chip) (n : Nat) : Chip :=
  let ms := c.unit n
  if (c.coreOf n).st ≠ 2 then c
  else if c.unitFault n then c.unitCycle n
  else
    let ctl := ms.filter (fun m => c.ctlDue m)
    if ctl ≠ [] then
      let ends := c.abortAsked n && ctl.any (fun m => (c.coreOf m).entered)
      let c := ctl.foldl (fun c m => c.ctlStep m) c
      if ends then c.kernelEnds n .aborted 0 else c
    else
      match ms.find? (fun m => c.bundleBreak m) with
      | some m =>
        let c := c.freeze m
        c.setCore m { (c.coreOf m) with passed := true }
      | none =>
        let k := c.coreOf n
        if ms.all (fun m => !(c.issueDue m)) ∨ k.cyc ≥ k.declared then c
        else
          let stepping := ms.any (fun m => (c.coreOf m).stepping)
          let c := (c.issueCycle n).runOn n 8
          if stepping ∧ (c.coreOf n).st = 2 then
            (c.unit n).foldl (fun c m =>
              let k := c.coreOf m
              c.setCore m { k with st := if m = n then 4 else 5, passed := false, stepping := false }) c
          else c

/-- No issue is left to core n's list: the control that stands between its last issue and the list's end is followed, with the
counters as they stand; fuel counts pieces of control. -/
def Chip.listDone (c : Chip) (n : Nat) : Nat → Bool
  | 0 => false
  | f + 1 =>
    let k := c.coreOf n
    if k.b ≥ k.starts.length then true
    else if !k.entered || decide (k.i ≥ bits (c.bundleHdr n k.b) 25 14) then (c.ctlStep n).listDone n f
    else false

/-- KERNEL_END (R222): SHORT, LONG or TAIL, or the kernel completes at cycle C. -/
def Chip.kernelEnd (c : Chip) (n : Nat) : Chip :=
  let ms := c.unit n
  let k := c.coreOf n
  if k.st ≠ 2 ∨ ms.any (fun m => c.ctlDue m) then c
  else if c.unitFault n then c.unitCycle n
  else
    if c.shortCores n ≠ [] then c.issueCycle n
    else if k.cyc < k.declared then c
    else
      let done := fun (m : Nat) => c.listDone m (5 * (c.coreOf m).starts.length + 8)
      let late := ms.filter (fun m => !(done m))
      let busy := ms.filter (fun m =>
        let x := c.coreOf m
        done m && (decide (x.mtUntil > x.cyc) || decide (x.veUntil > x.cyc) || decide (x.siuUntil > x.cyc) || !x.results.isEmpty ||
          !x.ldes.isEmpty || !x.stes.isEmpty))
      if late ≠ [] ∨ busy ≠ [] then
        let c := late.foldl (fun c m => c.sfault m 6 6 none (c.coreOf m).last) c
        (busy.foldl (fun c m => c.sfault m 6 8 none (c.coreOf m).last) c).unitCycle n
      else c.kernelEnds n .ok 0

/-- An engine operation given to core n in its current cycle (R211 to R219): the row's OP stands in the slot. -/
def Chip.slotOp (c : Chip) (n : Nat) (f : Chip → Chip) : Chip := if (c.coreOf n).st = 2 then f c else c

/-- PORT_TRANSFER (R218). -/
def Chip.portTransfer (c : Chip) (n : Nat) : Chip := c.slotOp n (fun c => c.portCycle n)

/-- DBG_HALT (R227): the core stops at this cycle boundary. -/
def Chip.dbgHalt (c : Chip) (n : Nat) : Chip := if (c.coreOf n).st = 2 then c.freeze n else c

/-- DBG_RESUME (R228, R229): a frozen unit goes on; a held fault is reported. -/
def Chip.dbgResume (c : Chip) (n : Nat) : Chip :=
  let k := c.coreOf n
  if k.st < 3 then c
  else if k.held then c.kernelEnds n .schedule 0
  else (c.unit n).foldl (fun c m => let x := c.coreOf m; c.setCore m { x with st := 2 }) c

/-- Sequencer commands until the unit freezes again (fuel: what has not run by then runs on under BUNDLE). -/
def Chip.stepOn (c : Chip) (n : Nat) : Nat → Chip
  | 0 => c
  | f + 1 => if (c.coreOf n).st = 2 ∧ (c.coreOf n).stepping then ((c.bundle n).kernelEnd n).stepOn n f else c

/-- DBG_STEP (R229): a frozen unit runs through its next issue interval and freezes again. -/
def Chip.dbgStep (c : Chip) (n : Nat) : Chip :=
  let k := c.coreOf n
  if (k.st = 4 ∨ k.st = 5) ∧ ¬ k.held then
    let c := (c.unit n).foldl (fun c m => let x := c.coreOf m; c.setCore m { x with st := 2, stepping := true, passed := true }) c
    c.stepOn n (5 * k.starts.length + 8)
  else c

/-! ## Vitrine (R230, R234, R238) -/

/-- VIT_MARK. -/
def Chip.vitMark (c : Chip) (k v : Nat) : Chip := c.vitWrite k 7 (c.vitHead 5 0 0 0 0 0 0 ++ toBytes 4 v)

/-- VIT_CTRL.CLEAR: the buffer is empty and VIT_WPTR is 0. -/
def Chip.vitClear (c : Chip) (k : Nat) : Chip := c.setVit k { c.vitOf k with recs := [], wptr := 0, wrapped := false, stopped := false, n := 0 }

/-- VIT_RD_IDX: one whole record is copied; zeros where it holds an uncorrectable error (R234, R239). -/
def Chip.vitRead (c : Chip) (k i : Nat) : Chip :=
  let c := c.setFld (pgVIT k) 0x208 13 0 i
  let (c, ue) := (c.faultsIn (pgVIT k) 0 (64 * i) 64).foldl (fun (r : Chip × Bool) p =>
    let (c, ue) := r.1.faultFound p i 0 i 0
    (c, r.2 || ue)) (c, false)
  let v := c.vitOf k
  c.setVit k { v with rd := if ue then List.replicate 64 0 else Tab.get (List.replicate 64 0) v.recs i }

end Sys2Proof.Machine
end

