-- ==== Sys2Proof/Machine/Front.lean ====
section
/-!
DEFINITION. The command front-end (chapter 07): sync counters, queues and descriptors, waits, issue, completion and signals,
admission, contexts and their swaps, COPY and COUNTER commands.
-/

namespace Sys2Proof.Machine

/-! ## Sync counters (R259 to R262) -/

/-- A command stands at the head of its queue and its waits are judged (R263). -/
def Cmd.isHead (k : Cmd) : Bool := decide (k.phase = .waiting) && k.headAt.isSome

/-- Every wait registered on counter k that the counter's value meets is reached (R263). -/
def Chip.judge (c : Chip) (k : Nat) : Chip :=
  let v := (c.ctrOf k).value.toNat
  { c with fe.queues := c.fe.queues.map (fun e => (e.1, { e.2 with cmds := e.2.cmds.map (fun m =>
      if m.isHead then
        { m with waits := m.waits.map (fun w => if w.ctr = k ∧ w.target.toNat ≤ v then { w with reached := true } else w) }
      else m) })) }

/-- Address of a counter's word in the storage of its cluster's counter unit, and of its wait list's (log 179). -/
def ctrAt (k : Nat) : Nat := 4 * (k % 1024)

/-- The storage of a counter (target 0) or of its wait list (target 1) is read: a fault placed there is met (R283). -/
def Chip.ctrFound (c : Chip) (k target : Nat) : Chip :=
  (c.faultsIn (pgCNT (k / 1024)) target (ctrAt k) 4).foldl (fun c p => (c.faultFound p k 0 k 0).1) c

/-- The storage is written (R538, R539). -/
def Chip.ctrStored (c : Chip) (k target : Nat) : Chip :=
  (c.rewritten (pgCNT (k / 1024)) target (ctrAt k) 4).injWA (pgCNT (k / 1024)) target (ctrAt k)

/-- The exact result of the open cycle: the SET that applies, or the value before it, and the sum of its ADDs (R261). -/
def Ctr.exact (x : Ctr) : Nat := (x.top.getD x.base).toNat + x.adds

/-- The FCLK cycle that is open on counter k ends: its wraps are recorded and its waits judged (R260, R261, R263). -/
def Chip.ctrClose (c : Chip) (k : Nat) : Chip :=
  let x := c.ctrOf k
  let page := pgCNT (k / 1024)
  if x.openAt.isNone then c
  else
    let wraps := x.exact / 2 ^ 32
    let c := c.setCtr k ⟨x.value, x.wrap || decide (0 < wraps), none, 0, none, 0⟩
    let c := if 0 < wraps then (c.count page 4 wraps).err page 3 k 0 else c
    let c := if c.allCmds.any (fun m => m.isHead && m.waits.any (fun w => decide (w.ctr = k) && !w.met)) then c.ctrFound k 1 else c
    c.judge k

/-- Every open cycle ends: the clock has moved, or the front-end looks at its waits later than it (R263). -/
def Chip.ctrsClose (c : Chip) : Chip :=
  (c.fe.ctrs.filter (fun e => e.2.openAt.isSome)).foldl (fun c e => c.ctrClose e.1) c

/-- Whether an operation or read at this moment falls into the cycle that is open on counter k: while the clock has not moved since
that cycle's operations, a free value says (log 40). -/
def Chip.ctrSame (c : Chip) (k : Nat) : Bool × Chip :=
  if (c.ctrOf k).openAt = some c.time.ns then
    let (v, c) := c.freeVal 1
    (decide (v = 1), c)
  else (false, c)

/-- An operation reaches counter k: in the open cycle, or in a new one. -/
def Chip.ctrOpen (c : Chip) (k : Nat) : Chip :=
  let (same, c) := c.ctrSame k
  if same then c
  else
    let c := (c.ctrClose k).ctrFound k 0
    let x := c.ctrOf k
    c.setCtr k { x with openAt := some c.time.ns, base := x.value, top := none, adds := 0 }

/-- The counter's value follows from the open cycle's operations (R260, R261). -/
def Chip.ctrPut (c : Chip) (k : Nat) (x : Ctr) : Chip := (c.setCtr k { x with value := BitVec.ofNat 32 x.exact }).ctrStored k 0

/-- SET (R260); a fenced cluster's counter refuses it (R532). -/
def Chip.ctrSet (c : Chip) (k v : Nat) : Chip :=
  if c.clFenced (k / 1024) then c
  else
    let c := c.ctrOpen k
    let x := c.ctrOf k
    (c.ctrPut k { x with top := some (BitVec.ofNat 32 (max (v % 2 ^ 32) ((x.top.getD 0).toNat))) }).count (pgCNT (k / 1024)) 0 1

/-- ADD (R260, R261); a fenced cluster's counter refuses it (R532). -/
def Chip.ctrAdd (c : Chip) (k v : Nat) : Chip :=
  if c.clFenced (k / 1024) then c
  else
    let c := c.ctrOpen k
    let x := c.ctrOf k
    (c.ctrPut k { x with adds := x.adds + v % 2 ^ 32 }).count (pgCNT (k / 1024)) 1 1

/-- The counter as a read finds it: in the open cycle, its value from before the cycle (R260). -/
def Chip.ctrSample (c : Chip) (k : Nat) : Nat × Chip :=
  let (same, c) := c.ctrSame k
  let c := c.ctrFound k 0
  if same then ((c.ctrOf k).base.toNat, c) else let c := c.ctrClose k; ((c.ctrOf k).value.toNat, c)

/-- A fabric operation on a counter is checked against the range of the context bound to the packet's job (R262). -/
def Chip.ctrFabric (c : Chip) (job node k : Nat) (set : Bool) (v : Nat) : Chip :=
  let page := pgCNT (k / 1024)
  let ok := match c.ctxOfJob job with
    | some (_, x) => x.hasCtrs k 1
    | none => false
  if ok then ((if set then c.ctrSet k v else c.ctrAdd k v)).count page 2 1
  else (c.count page 5 1).err page 2 k node

/-! ## Heads of queues (R241, R263) -/

/-- The command with index HEAD, when it has been read and waits. -/
def Queue.headCmd (x : Queue) : Option Cmd := x.cmds.find? (fun k => decide (k.index = x.head) && decide (k.phase = .waiting))

/-- HEAD passes commands that have completed or failed at their descriptor read (R251); fuel counts them. -/
def Queue.skipHead (x : Queue) : Nat → Queue
  | 0 => x
  | f + 1 =>
    if x.head ≠ x.tail ∧ (x.doneSet.contains x.head ∨ x.cmds.any (fun k => decide (k.index = x.head) && !(decide (k.phase = .waiting)))) then
      ({ x with head := x.head + 1 }).skipHead f
    else x

/-- The head command's waits are judged in the cycle in which it becomes the head (R263). -/
def Chip.headJudge (c : Chip) (q : Nat) : Chip :=
  let y := c.queueOf q
  let x := y.skipHead (y.cmds.length + y.doneSet.length)
  let c := c.setQueue q x
  match x.headCmd with
  | none => c
  | some k =>
    if k.headAt.isSome then c
    else
      let c := k.waits.foldl (fun c w => (c.ctrClose w.ctr).ctrFound w.ctr 0) c
      let ws := k.waits.map (fun w =>
        if w.target.toNat ≤ (c.ctrOf w.ctr).value.toNat ∧ ¬ c.clFenced (w.ctr / 1024) then { w with reached := true, met := true } else w)
      let c := ws.foldl (fun c w => if w.met then c else c.ctrStored w.ctr 1) c
      c.setCmd { k with waits := ws, headAt := some c.time.ns, metAt := if ws.all (fun w => w.met) then c.time.ns else k.metAt }

/-- The queue's head is judged; one that waits on a counter of a fenced cluster fails with FENCED, and the next becomes the head
(R283, R532). Fuel counts the commands read. -/
def Chip.headGo (c : Chip) (q : Nat) : Nat → Chip
  | 0 => c
  | f + 1 =>
    let c := c.headJudge q
    match (c.queueOf q).headCmd with
    | none => c
    | some k =>
      if k.waits.any (fun w => !w.met && c.clFenced (w.ctr / 1024)) then
        (((c.setQueue q { c.queueOf q with head := (c.queueOf q).head + 1 }).fixStatus k .fenced 0).headGo q f)
      else c

/-- A command becomes the head of its queue. -/
def Chip.newHead (c : Chip) (q : Nat) : Chip := c.headGo q ((c.queueOf q).cmds.length + 1)

/-- Commands in flight (R243). -/
def Queue.inFlight (x : Queue) : Nat := (x.cmds.filter (fun k => k.inFlight)).length

/-- A queue holds no posted, unissued command. -/
def Queue.isEmpty (x : Queue) : Bool := decide (x.head = x.tail)

/-! ## Contexts (R267 to R270) -/

/-- Queues bound to a context, in use. -/
def Chip.ctxQueues (c : Chip) (x : Nat) : List (Nat × Queue) := c.fe.queues.filter (fun e => decide (c.qCtx e.1 = x))

/-- A command of a context is in flight, issued and not completed (R243, R268): its context is that of its queue at issue. -/
def Chip.ctxInFlight (c : Chip) (x : Nat) : Bool := c.allCmds.any (fun k => k.inFlight && decide (k.ctx = x))

/-- A resident context is blocked (R268). -/
def Chip.ctxBlocked (c : Chip) (x : Nat) : Bool :=
  match c.ctxOf x with
  | none => false
  | some k => k.slot.isSome && !(c.ctxInFlight x) && (c.ctxQueues x).all (fun e =>
      e.2.isEmpty || e.2.failed || (match e.2.headCmd with | some m => m.waits.any (fun w => !w.met) | none => false))

/-- A swapped-out context is runnable (R268). -/
def Chip.ctxRunnable (c : Chip) (x : Nat) : Bool :=
  match c.ctxOf x with
  | none => false
  | some k => k.slot.isNone && (c.ctxQueues x).any (fun e =>
      match e.2.headCmd with | some m => m.waits.all (fun w => w.met) | none => false)

/-- Block times and runnable times follow the queues (R268, R269). -/
def Chip.ctxRefresh (c : Chip) : Chip :=
  { c with fe.ctxs := c.fe.ctxs.map (fun e => (e.1, e.2.map (fun k =>
      let b := c.ctxBlocked e.1
      let r := c.ctxRunnable e.1
      { k with blocked := b, blockTime := if b && !k.blocked then c.time.tb else k.blockTime,
               runnableAt := if r then (k.runnableAt.or (some c.time.ns)) else none }))) }

/-- Resident slots not occupied, one of them kept for a swap's incoming context. -/
def Chip.freeSlots (c : Chip) : List Nat :=
  let free := (List.range 16).filter (fun s => (c.ctxInSlot s).isNone)
  match c.fe.swap with
  | some w => if w.inn.isSome then free.drop 1 else free
  | none => free

/-- Address of a context's record in the system area (R290). -/
def ctxRecAt (x : Nat) : Nat := 0xBFF0000000 + 0xC000000 + x * 0x800

/-- A context leaves its slot; its 2 KiB record lands in the system area, with bytes the spec does not give (R270, R290). -/
def Chip.ctxOut (c : Chip) (x : Nat) : Chip :=
  match c.ctxOf x with
  | none => c
  | some k =>
    let (bs, c) := (List.range 256).foldl (fun (p : List (BitVec 8) × Chip) _ =>
      let (v, c) := p.2.freeVal 64
      (p.1 ++ toBytes 8 v, c)) ([], c)
    let c := c.lpWrite 0 (ctxRecAt x) 2048
    let c := { c with hom.lp := Mem.writeL c.hom.lp (ctxRecAt x) bs }
    (c.setCtx x (some { k with slot := none })).count pgFE 9 1

/-- A context takes a slot; its record is read (R270). -/
def Chip.ctxIn (c : Chip) (x s : Nat) : Chip :=
  match c.ctxOf x with
  | none => c
  | some k => ((c.lpRead 0 (ctxRecAt x) 2048).setCtx x (some { k with slot := some s, runnableAt := none })).count pgFE 10 1

/-- The runnable context that has been runnable longest, lower number on a tie (R269). -/
def Chip.longestRunnable (c : Chip) : Option Nat :=
  (c.fe.ctxs.foldl (fun (b : Option (Nat × Nat)) e =>
    match e.2 with
    | some k => match k.runnableAt with
      | some t => match b with
        | some (_, u) => if t < u then some (e.1, t) else b
        | none => some (e.1, t)
      | none => b
    | none => b) none).map (fun p => p.1)

/-- The resident context with the earliest block time, lower slot on a tie (R269). -/
def Chip.longestBlocked (c : Chip) : Option Nat :=
  ((List.range 16).foldl (fun (b : Option (Nat × Nat)) s =>
    match c.ctxInSlot s with
    | some (x, k) => match b with
      | some (_, t) => if k.blockTime.toNat < t then some (x, k.blockTime.toNat) else b
      | none => some (x, k.blockTime.toNat)
    | none => b) none).map (fun p => p.1)

/-- SWAP_CHECK (R269). -/
def Chip.swapCheck (c : Chip) : Chip :=
  let c := c.ctxRefresh
  if c.fe.swap.isSome then c
  else
    match c.longestRunnable with
    | none => c
    | some x =>
      if c.freeSlots ≠ [] then { c with fe.swap := some ⟨none, some x, c.time.ns + 1770⟩ }
      else if c.fe.ctxs.all (fun e => match e.2 with | some k => k.slot.isNone || k.blocked | none => true) then
        match c.longestBlocked with
        | some y => { (c.ctxOut y) with fe.swap := some ⟨some y, some x, c.time.ns + 2473⟩ }
        | none => c
      else c

/-- SWAP_DONE (R270). -/
def Chip.swapDone (c : Chip) : Chip :=
  match c.fe.swap with
  | none => c
  | some w =>
    if c.time.ns < w.until_ then c
    else
      let c := { c with fe.swap := none }
      let c := match w.inn, c.freeSlots with
        | some x, s :: _ => c.ctxIn x s
        | _, _ => c
      c.ctxRefresh

/-! ## Descriptors (R247 to R251) -/

/-- A wait entry as read (R249). -/
def waitOf (w : Nat) : WaitE := ⟨BitVec.ofNat 32 (bits w 127 96), bits w 95 80, bits w 79 75, false, false, false⟩

/-- A signal entry as read (R250). -/
def sigOf (w : Nat) : SigE :=
  ⟨BitVec.ofNat 32 (bits w 127 96), bits w 95 78, bits w 77 62, bits w 61 60, bits w 59 58⟩

/-- A command that ends at its descriptor read (R242, R251). -/
def Cmd.atOnce (k : Cmd) (st : Status) (info : Nat) : Cmd :=
  { k with phase := .signalling, status := st, info := BitVec.ofNat 32 info, mute := true }

/-- A command with nothing read. -/
def cmdInit (q : Nat) (i : BitVec 32) : Cmd :=
  { queue := q, index := i, tag := 0, type := 0, serial := false, cont := false, irq := true, waits := [], sigs := [], op := 0,
    bad := false, headAt := none, metAt := 0, ctx := 0, lc := false, charge := 0, phase := .waiting, status := .ok, info := 0,
    sigPos := 0, sigWait := false, mute := false, pos := 0, left := 0, locks := [], seqNo := 0, fin := false, went := false, brought := [], endAt := 0 }

/-- Operation codes that a command TYPE defines; those above are reserved encodings (R11, R253). -/
def opCount (type : Nat) : Nat :=
  match type with
  | 2 | 3 | 8 => 3
  | 5 => 6
  | 6 => 10
  | 7 => 5
  | _ => 1

/-- The command that a descriptor's 256 bytes give, and whether an entry check fails (R248 to R251). -/
def Chip.parseDesc (c : Chip) (q : Nat) (i : BitVec 32) (bs : List (BitVec 8)) : Cmd × Bool :=
  let h := ofBytes (bs.take 64)
  let nw := bits h 459 457
  let ns := bits h 456 454
  let ent := fun (base j : Nat) => ofBytes ((bs.drop (base + 16 * j)).take 16)
  let ws := (List.range 4).map (ent 64)
  let ss := (List.range 4).map (ent 128)
  let x := c.ctxOf (c.qCtx q)
  let inRange := fun (k : Nat) => match x with | some y => y.hasCtrs k 1 | none => false
  let badW := (List.range 4).any (fun j =>
    let w := (ws[j]?).getD 0
    if j < nw then decide (bits w 74 0 ≠ 0) || !(inRange (bits w 95 80)) else decide (w ≠ 0))
  let badS := (List.range 4).any (fun j =>
    let w := (ss[j]?).getD 0
    if j < ns then decide (bits w 57 0 ≠ 0) || decide (bits w 61 60 > 1) || decide (bits w 59 58 > 2) ||
      (decide (bits w 95 78 = c.node) && !(inRange (bits w 77 62)))
    else decide (w ≠ 0))
  let k : Cmd := { cmdInit q i with
    tag := BitVec.ofNat 32 (bits h 511 480), type := bits h 463 460, serial := bit h 453, cont := bit h 452, irq := bit h 451,
    waits := (ws.take nw).map waitOf, sigs := (ss.take ns).map sigOf, op := BitVec.ofNat 512 (ofBytes (bs.drop 192)),
    bad := decide (bits h 479 464 ≠ i.toNat % 65536) || decide (bits h 463 460 > 8) || decide (bits h 450 32 ≠ 0) ||
      decide (opCount (bits h 463 460) ≤ bits (ofBytes (bs.drop 192)) 7 0) }
  (k, decide (nw > 4) || decide (ns > 4) || badW || badS)

/-- Add a read command to its queue. -/
def Chip.addCmd (c : Chip) (k : Cmd) : Chip :=
  let x := c.queueOf k.queue
  let k := { k with endAt := c.time.tb }
  (c.setQueue k.queue { x with cmds := x.cmds ++ [k] }).queueFail k

/-- The next posted index whose descriptor has not been read, within `span` of HEAD (R242). -/
def Queue.nextRead (x : Queue) (span : Nat) : Option (BitVec 32) :=
  let idx := (List.range span).map (fun d => x.head + BitVec.ofNat 32 d)
  idx.find? (fun i => decide ((i - x.head).toNat < (x.tail - x.head).toNat) && !(x.doneSet.contains i) && !(x.cmds.any (fun k => k.index = i)))

/-- Read and check the descriptor of an index (R242, R251). -/
def Chip.readDesc (c : Chip) (q : Nat) (i : BitVec 32) : Chip :=
  let a := c.reg (cmdqPage q) (cmdqOff q 0) + 256 * (i.toNat % 2 ^ c.qLog2 q)
  let (r, bs, c) := c.mread 0 a 256
  let raw := q + (i.toNat % 65536) <<< 16
  match r with
  | .held => c
  | .poisoned =>
    let at_ := q + ((c.queueOf q).head.toNat % 65536) <<< 16
    (((c.count pgFE 0 1).err pgFE 3 0 at_).addCmd ((cmdInit q i).atOnce .poisoned at_)).newHead q
  | .ok =>
    let c := c.count pgFE 0 1
    let (k, badEntry) := c.parseDesc q i bs
    if crc32 ([0, 0, 0, 0] ++ bs.drop 4) ≠ ofBytes (bs.take 4) then
      ((c.err pgFE 0 k.tag.toNat raw).addCmd ({ k with irq := true, cont := false }.atOnce .malformed raw)).newHead q
    else if badEntry then ((c.err pgFE 1 k.tag.toNat raw).addCmd (k.atOnce .malformed raw)).newHead q
    else
      let c := if k.bad then c.err pgFE 1 k.tag.toNat raw else c
      (c.addCmd k).newHead q

/-- Abort the posted, unissued command at the head (R266): read it where it has not been read, and end it, whatever that read found.
The answer is whether a MOVING tile holds the read. -/
def Chip.abortFirst (c : Chip) (q : Nat) (st : Cmd → Status) : Bool × Chip :=
  let i := (c.queueOf q).head
  let unread := !((c.queueOf q).cmds.any (fun k => decide (k.index = i)))
  let c := if unread then c.readDesc q i else c
  match c.cmd? q i with
  | none => (unread, c)
  | some k =>
    let x := c.queueOf q
    let c := c.setQueue q { x with head := if x.head = i then i + 1 else x.head }
    (false, ((c.fixStatus k (st k) 0).count pgFE 14 1).newHead q)

/-- The abort that a queue has under way goes on: every posted, unissued command below its end completes in index order, WAIT_EXPIRED
where ABORT_HEAD finds a wait of it expired and ABORTED otherwise (R266). Fuel counts the commands. -/
def Chip.abortGo (c : Chip) (q : Nat) : Nat → Chip
  | 0 => c
  | f + 1 =>
    let x := c.queueOf q
    match x.abort with
    | none => c
    | some (e, all) =>
      if x.isEmpty ∨ (e - x.done).toNat ≤ (x.head - x.done).toNat then c.setQueue q { x with abort := none }
      else
        let (held, c) := c.abortFirst q (fun k => if !all && k.waits.any (fun w => w.expired) then .waitExpired else .aborted)
        if held then c else c.abortGo q f

/-- Aborts held by a MOVING tile go on after its move. -/
def Chip.abortsGo (c : Chip) : Chip :=
  (c.fe.queues.filter (fun e => e.2.abort.isSome)).foldl (fun c e => c.abortGo e.1 ((e.2.tail - e.2.head).toNat + 1)) c

/-- DESC_READ (R251). -/
def Chip.descRead (c : Chip) (q : Nat) : Chip :=
  let x := c.queueOf q
  if ¬ x.enabled then c
  else if x.abort.isSome then (c.abortGo q ((x.tail - x.head).toNat + 1)).ctxRefresh
  else
    match x.nextRead 4 with
    | none => c
    | some i => if (x.cmds.filter (fun k => decide (k.phase = .waiting))).length < 4 then (c.readDesc q i).ctxRefresh else c

/-- CMDQ_TAIL (R241). -/
def Chip.cmdqTail (c : Chip) (q : Nat) (t : BitVec 32) : Chip :=
  let x := c.queueOf q
  let d := (t - x.done).toNat
  if (x.head - x.done).toNat ≤ d ∧ d ≤ 2 ^ c.qLog2 q then (c.setQueue q { x with tail := t }).ctxRefresh
  else c.err pgFE 2 0 (q + (t.toNat % 65536) <<< 16)

/-! ## Waits (R263, R264) -/

/-- WAIT_MET (R263). -/
def Chip.waitMet (c : Chip) (q j : Nat) : Chip :=
  let c := c.ctrsClose
  match (c.queueOf q).headCmd with
  | none => c
  | some k =>
    match k.waits[j]? with
    | none => c
    | some w =>
      if w.reached ∧ ¬ w.met then
        let ws := k.waits.set j { w with met := true }
        let c := c.setCmd { k with waits := ws, metAt := if ws.all (fun w => w.met) then c.time.ns else k.metAt }
        (c.count (pgCNT (w.ctr / 1024)) 3 1).ctxRefresh
      else c

/-- WAIT_EXPIRED (R264): the timer of an unmet wait of the head command runs out. -/
def Chip.waitExpired (c : Chip) (q j : Nat) : Chip :=
  let c := c.ctrsClose
  match (c.queueOf q).headCmd with
  | none => c
  | some k =>
    match k.waits[j]?, k.headAt with
    | some w, some t =>
      if w.reached ∨ w.expired ∨ w.code = 31 ∨ c.time.ns < t + 2 ^ w.code * 1000 then c
      else
        let rec_ := [q, w.code, j, w.ctr, w.target.toNat, (c.ctrOf w.ctr).value.toNat]
        let c := c.setCmd { k with waits := k.waits.set j { w with expired := true } }
        let c := { c with fe.wrec := rec_, fe.qwrec := Tab.put [] c.fe.qwrec q rec_ }
        let c := (c.count pgFE 5 1).err pgFE 4 k.tag.toNat k.feInfo
        c.raise 264
    | _, _ => c

/-! ## Issue (R243, R271 to R276) -/

/-- Time of a number of ACLK cycles in ns, rounded up (R273). -/
def Chip.cycNs (c : Chip) (n : Nat) : Nat := ceilDiv (n * 1000) c.aclkMHz

/-- Image header, argument block length and argument block of a launch, when they can be read (R192, R255). -/
def Chip.launchBlocks (c : Chip) (k : Cmd) : Option (Nat × List (BitVec 8) × List (BitVec 8)) :=
  let img := k.f 63 18
  let arg := k.f 109 64
  match c.mread 0 img 320, c.ctxOf k.ctx with
  | (.ok, hb, _), some x =>
    let lists := bits (ofBytes (hb.take 64)) 463 460
    let n := 128 + 128 * lists
    match c.mread 0 arg n with
    | (.ok, ab, _) => if x.covers img 320 ∧ x.covers arg n then some (lists, hb, ab) else none
    | _ => none
  | _, _ => none

/-- A launch's blocks lie in a MOVING tile: its C, which its arbitration needs, waits for the move (R273, R294). -/
def Chip.launchHeld (c : Chip) (k : Cmd) : Bool :=
  let img := k.f 63 18
  let n := 128 + 128 * bits (ofBytes ((c.bytesAt img 320).take 64)) 463 460
  decide (k.type = 0) && (match c.ctxOf k.ctx with
    | some x => (x.covers img 320 && decide (c.accRes img 320 = .held)) ||
        (x.covers (k.f 109 64) n && decide (c.accRes img 320 = .ok) && decide (c.accRes (k.f 109 64) n = .held))
    | none => false)

/-- The core count and C of a launch, before any row count replaces its unit parameter (R273). -/
def Chip.launchCycles (c : Chip) (k : Cmd) : Option (Nat × Nat) :=
  match c.launchBlocks k with
  | none => none
  | some (lists, hb, ab) =>
    let h := ofBytes (hb.take 64)
    let d := ofBytes ((hb.drop 64).take 32)
    if crc32 ((toBytes 64 h).drop 4) ≠ bits h 31 0 ∨ crc32 ab ≠ k.f 187 156 then none
    else
      let p := ofBytes ((ab.drop (8 * bits h 454 451)).take 8)
      some (if lists = 8 then 8 else 1, bits d 162 123 + bits d 122 99 * (p % 2 ^ 32))

/-- Charge in ns of core time (R273). -/
def Chip.chargeOf (c : Chip) (k : Cmd) : Nat :=
  if k.type ≠ 0 then 0 else match c.launchCycles k with | some (n, cy) => c.cycNs (n * cy) | none => 0

/-- Core time charged by the service queues in this window. -/
def Chip.svcUsed (c : Chip) : Nat := ((c.fe.queues.filter (fun e => decide (256 ≤ e.1))).map (fun e => e.2.used)).sum

/-- Whether the head command of a queue may be granted now (R243). -/
def Chip.ready (c : Chip) (q : Nat) (x : Queue) : Option Cmd :=
  match x.headCmd, c.ctxOf (c.qCtx q) with
  | some k, some y =>
    if x.enabled ∧ ¬ x.failed ∧ y.slot.isSome ∧ k.waits.all (fun w => w.met) ∧ x.inFlight < 16 ∧ x.abort.isNone ∧
        (¬ k.serial ∨ x.cmds.all (fun m => decide ((m.index - k.index).toNat < 2 ^ 31))) then some k
    else none
  | _, _ => none

/-- Level of a command (R271, R273, R274). -/
def Chip.level (c : Chip) (q : Nat) (x : Queue) (charge : Nat) : Bool :=
  match c.qClass q with
  | 0 => decide (charge = 0) || decide (x.used + charge ≤ 1000 * c.qBudget q)
  | 1 => false
  | _ => decide (c.qShare q ≠ 0) &&
      decide ((c.svcUsed + charge) * 256 ≤ 1000 * c.fld pgFE 0x20C 15 8 * c.reg pgFE 0x204)

/-- Rank among the ready heads of service queues: USED ÷ SHARE, then the queue number (R274). -/
def Chip.svcBefore (c : Chip) (a b : Nat × Cmd × Bool × Nat) : Bool :=
  let ua := (c.queueOf a.1).used
  let ub := (c.queueOf b.1).used
  let sa := c.qShare a.1
  let sb := c.qShare b.1
  if sa = 0 ∨ sb = 0 then (if sa = 0 ∧ sb = 0 then a.1 < b.1 else sb = 0)
  else if ua * sb ≠ ub * sa then ua * sb < ub * sa else a.1 < b.1

/-- Rank by the time the waits were all met, then the queue number (R271). -/
def metBefore (a b : Nat × Cmd × Bool × Nat) : Bool :=
  if a.2.1.metAt ≠ b.2.1.metAt then a.2.1.metAt < b.2.1.metAt else a.1 < b.1

/-- The first of a list under an order. -/
def firstBy {α : Type} (before : α → α → Bool) : List α → Option α
  | [] => none
  | x :: xs =>
    match firstBy before xs with
    | none => some x
    | some y => if before y x then some y else some x

/-- The ready heads with their level and charge. -/
def Chip.readyHeads (c : Chip) : List (Nat × Cmd × Bool × Nat) :=
  c.fe.queues.filterMap (fun e => (c.ready e.1 e.2).bind (fun k =>
    let k := { k with ctx := c.qCtx e.1 }
    if c.launchHeld k then none else some (e.1, k, c.level e.1 e.2 (c.chargeOf k), c.chargeOf k)))

/-- The command that arbitration grants (R271, R274). -/
def Chip.grantOf (c : Chip) : Option (Nat × Cmd × Bool × Nat) :=
  let pick := fun (l : Bool) =>
    let hs := c.readyHeads.filter (fun h => h.2.2.1 == l)
    let svc := firstBy c.svcBefore (hs.filter (fun h => decide (256 ≤ h.1)))
    firstBy metBefore (hs.filter (fun h => decide (h.1 < 256)) ++ svc.toList)
  (pick true).or (pick false)

/-- Nothing issues: the front-end is disabled, a die-level error holds the die, or the boot counts as not completed (R278, R536, R570). -/
def Chip.issueOff (c : Chip) : Bool := decide (c.fld pgFE 0x008 0 0 = 0) || c.flt.dieAt.isSome || !c.pwr.booted

/-- ISSUE (R271): at most one command. -/
def Chip.issue (c : Chip) : Chip :=
  if c.issueOff then c
  else
    match c.grantOf with
    | none => c
    | some (q, k, lc, charge) =>
      let x := c.queueOf q
      let be := c.fld pgFE 0x20C 4 0
      let cores := match c.launchCycles k with | some (n, _) => n | none => 1
      let tooLong := decide (k.type = 0) && !lc && decide (be ≠ 31) && decide (charge > cores * 2 ^ be * 1000)
      let c := c.setQueue q { x with head := x.head + 1, used := x.used + charge }
      let k := { k with lc := lc, charge := charge, phase := .issued, went := true, seqNo := c.fe.issueSeq }
      let c := { (c.setCmd k) with fe.issueSeq := c.fe.issueSeq + 1 }
      let c : Chip := (c.count pgFE 1 1).count pgFE (if lc then 6 else 7) 1
      let c : Chip := if c.qClass q = 0 && !lc then c.count pgFE 8 1 else c
      let c := if k.bad then c.endWork q k.index .malformed k.feInfo
        else if tooLong then ((c.count pgFE 13 1).err pgFE 8 k.tag.toNat k.feInfo).endWork q k.index .aborted k.feInfo
        else c
      (c.newHead q).ctxRefresh

/-- ACCT_WINDOW (R273). -/
def Chip.acctWindow (c : Chip) : Chip :=
  if c.time.ns < c.fe.winStart + 2 ^ c.fld pgFE 0x200 4 0 * 1000 then c
  else { c with fe.winStart := c.time.ns, fe.queues := c.fe.queues.map (fun e => (e.1, { e.2 with used := 0 })) }

/-! ## Completion (R244, R245, R250 to R252) -/

/-- Whether a signal entry is performed under a status (R250, R251). -/
def SigE.due (s : SigE) (st : Status) : Bool :=
  match s.cond with
  | 0 => true
  | 1 => decide (st = .ok)
  | _ => decide (st ≠ .ok)

/-- Perform the signals that are left until a remote one is in flight (R252). A signal to a counter of a fenced cluster turns OK
into FENCED (R532). -/
def Chip.signals (c : Chip) (q : Nat) (i : BitVec 32) : Nat → Chip
  | 0 => c
  | f + 1 =>
    match c.cmd? q i with
    | none => c
    | some k =>
      if k.sigWait ∨ k.mute then c
      else
        match k.sigs[k.sigPos]? with
        | none => c
        | some s =>
          if ¬ s.due k.status then (c.setCmd { k with sigPos := k.sigPos + 1 }).signals q i f
          else if s.node = c.node then
            let lost := c.clFenced (s.ctr / 1024)
            let turn := lost && decide (k.status = .ok)
            let k' := { k with sigPos := k.sigPos + 1, status := if turn then .fenced else k.status, endAt := c.time.tb }
            let c := c.setCmd k'
            let c := if turn then c.queueFail k' else c
            let c := if lost then c else if s.op = 1 then c.ctrSet s.ctr s.value.toNat else c.ctrAdd s.ctr s.value.toNat
            (c.count pgFE 11 1).signals q i f
          else
            let a := 0x120000000000 + 16 * s.ctr + (if s.op = 1 then 0 else 4)
            let job := ((c.ctxOf k.ctx).map (fun y => y.job)).getD 0
            let c := (c.setCmd { k with sigWait := true }).count pgFE 12 1
            (c.txn (.signal q i) (mkHdr 0 s.node a job 4 0 none true) (toBytes 4 s.value.toNat) k.lc none).signals q i f

/-- DONE passes the commands that have completed (R241). -/
def Queue.advance (x : Queue) : Nat → Queue
  | 0 => x
  | f + 1 => if x.doneSet.contains x.done then ({ x with done := x.done + 1, doneSet := x.doneSet.erase x.done }).advance f else x

/-- The completion record of a command (R245). -/
def Cmd.record (k : Cmd) : Nat :=
  k.tag.toNat <<< 96 + k.status.code <<< 88 + (k.type % 16) <<< 84 + (k.endAt.toNat % 2 ^ 40) <<< 40 + k.info.toNat <<< 8 + 1

/-- The completion record is written and the command leaves its queue (R244 stage 3, R245). -/
def Chip.complete (c : Chip) (q : Nat) (i : BitVec 32) : Chip :=
  match c.cmd? q i with
  | none => c
  | some k =>
    if k.phase ≠ .signalling ∨ k.sigWait ∨ (¬ k.mute ∧ k.sigPos < k.sigs.length) then c
    else
      let a := c.reg (cmdqPage q) (cmdqOff q 8) + 16 * (i.toNat % 2 ^ c.qLog2 q)
      let (r, c) := c.mwrite k.tag.toNat a (toBytes 16 k.record)
      if r = .held then c
      else
        let c := c.dropLocks q i
        let x := c.queueOf q
        let old := decide (2 ^ 31 ≤ (i - x.done).toNat)
        let x := { x with cmds := x.cmds.filter (fun m => !(decide (m.index = i))), doneSet := if old then x.doneSet else i :: x.doneSet }
        let c := c.setQueue q (x.advance x.doneSet.length)
        let c := c.count pgFE (if k.status = .ok then 2 else 3) 1
        let c := if k.status = .malformed then c.count pgFE 4 1 else c
        let c := if k.irq then c.raise q else c
        (c.newHead q).ctxRefresh

/-- COMMAND_COMPLETE (R244): the command's status is fixed; its signals and its record follow. -/
def Chip.commandComplete (c : Chip) (q : Nat) (i : BitVec 32) : Chip :=
  match c.cmd? q i with
  | none => c
  | some k => if k.phase = .signalling then (c.signals q i 5).complete q i else c

/-! ## Queue control (R266, R276, R281, R282) -/

/-- Σ BUDGET over enabled LC queues (FE_LC_SUM). -/
def Chip.lcSum (c : Chip) : Nat :=
  ((c.fe.queues.filter (fun e => e.2.enabled && decide (c.qClass e.1 = 0))).map (fun e => c.qBudget e.1)).sum

/-- Whether an admitted sum from these values exceeds CAPACITY (R276), with everything times 256. -/
def overCap (lc cap svc : Nat) : Bool := decide (256 * lc + svc * cap > 256 * cap)

def Chip.cap (c : Chip) : Nat := c.reg pgFE 0x204
def Chip.svcCap (c : Chip) : Nat := c.fld pgFE 0x20C 15 8

/-- ERR_INFO1 of a register write that concerns a queue (R279). -/
def Chip.qInfo (c : Chip) (q : Nat) : Nat := q + ((c.queueOf q).head.toNat % 65536) <<< 16

/-- CMDQ_CTRL ENABLE (R240, R276, R282). -/
def Chip.cmdqEnable (c : Chip) (q : Nat) : Chip :=
  let x := c.queueOf q
  if x.enabled then c
  else
    let n := 2 ^ c.qLog2 q
    let base := c.reg (cmdqPage q) (cmdqOff q 0)
    let cpl := c.reg (cmdqPage q) (cmdqOff q 8)
    let ringOk : Bool := match c.ctxOf (c.qCtx q) with
      | none => false
      | some k => decide (base % 256 = 0) && decide (cpl % 16 = 0) && k.covers base (256 * n) && k.covers cpl (16 * n) &&
          c.pinnedRange base (256 * n) && c.pinnedRange cpl (16 * n)
    if ¬ ringOk then c.err pgFE 3 0 (c.qInfo q)
    else if c.qClass q = 0 ∧ c.qBudget q > 0 ∧ overCap (c.lcSum + c.qBudget q) c.cap c.svcCap then c.err pgFE 5 0 (c.qInfo q)
    else (c.setQueue q { x with enabled := true, head := x.tail, done := x.tail, doneSet := [],
                                abort := none, cmds := x.cmds.filter (fun k => !(decide (k.phase = .waiting))) }).ctxRefresh

/-- CMDQ_CTRL DISABLE. -/
def Chip.cmdqDisable (c : Chip) (q : Nat) : Chip := (c.setQueue q { c.queueOf q with enabled := false }).ctxRefresh

/-- CMDQ_CTRL RESUME. -/
def Chip.cmdqResume (c : Chip) (q : Nat) : Chip := ((c.setQueue q { c.queueOf q with failed := false }).newHead q).ctxRefresh

/-- An abort of the posted commands of a queue: the first, or all (R266). -/
def Chip.abortPosted (c : Chip) (q : Nat) (all : Bool) : Chip :=
  let x := c.queueOf q
  if x.isEmpty then c
  else
    let e := if all then x.tail else (match x.abort with | some (e, a) => if a || e = x.tail then e else e + 1 | none => x.head + 1)
    let c := c.setQueue q { x with abort := some (e, all || (match x.abort with | some (_, a) => a | none => false)) }
    c.abortGo q ((x.tail - x.head).toNat + 1)

/-- CMDQ_CTRL ABORT_HEAD (R266). -/
def Chip.abortHead (c : Chip) (q : Nat) : Chip := (c.abortPosted q false).ctxRefresh

/-- CMDQ_CFG (R276, R281). -/
def Chip.cmdqCfg (c : Chip) (q v : Nat) : Chip :=
  let on := (c.queueOf q).enabled
  let old := c.reg (cmdqPage q) (cmdqOff q 0x10)
  let clsOk := if q < 256 then decide (bits v 55 54 ≤ 1) else decide (bits v 55 54 = 2)
  let clsLock := on && decide (bits v 55 54 ≠ bits old 55 54)
  let logOk := decide (bits v 53 49 ≤ 16)
  let logLock := on && decide (bits v 53 49 ≠ bits old 53 49)
  let cls := if clsOk && !clsLock then bits v 55 54 else bits old 55 54
  let lg := if logOk && !logLock then bits v 53 49 else bits old 53 49
  let new := bits v 63 56 <<< 56 + cls <<< 54 + lg <<< 49 + bits v 48 41 <<< 41 + bits v 25 0
  let lc0 := c.lcSum
  let lc1 := if on ∧ bits old 55 54 = 0 then lc0 - bits old 25 0 + bits v 25 0 else lc0
  if lc1 > lc0 ∧ overCap lc1 c.cap c.svcCap then c.err pgFE 5 0 (c.qInfo q)
  else
    let c := if clsOk && !clsLock && logOk && !logLock then c else c.err pgFE 7 0 (c.qInfo q)
    (c.setReg (cmdqPage q) (cmdqOff q 0x10) new).ctxRefresh

/-- CMDQ_BASE and CMDQ_CPL_BASE (R240, R281). -/
def Chip.cmdqBase (c : Chip) (q : Nat) (cpl : Bool) (v : Nat) : Chip :=
  let off := cmdqOff q (if cpl then 8 else 0)
  let v := v % 2 ^ 46
  if (c.queueOf q).enabled ∧ v ≠ c.reg (cmdqPage q) off then c.err pgFE 7 0 (c.qInfo q) else c.setReg (cmdqPage q) off v

/-- FE_ADMIT (R276). -/
def Chip.feAdmit (c : Chip) (v : Nat) : Chip :=
  let raise_ := decide (256 * c.lcSum + c.svcCap * v > 256 * c.lcSum + c.svcCap * c.cap) || decide (v < c.cap)
  if raise_ ∧ overCap c.lcSum v c.svcCap then c.err pgFE 5 0 0x1FF else c.setReg pgFE 0x204 v

/-- FE_SCHED (R276). -/
def Chip.feSched (c : Chip) (v : Nat) : Chip :=
  if bits v 15 8 * c.cap > c.svcCap * c.cap ∧ overCap c.lcSum c.cap (bits v 15 8) then c.err pgFE 5 0 0x1FF
  else c.setReg pgFE 0x20C (bits v 15 8 <<< 8 + bits v 4 0)

/-- Code of CMDQ_STATE.STATE (R281). -/
def Chip.qState (c : Chip) (q : Nat) : Nat :=
  let x := c.queueOf q
  if ¬ x.enabled then 0
  else if x.failed then 5
  else if ((c.ctxOf (c.qCtx q)).bind (fun k => k.slot)).isNone then 6
  else
    match x.headCmd with
    | none => if x.isEmpty then 1 else 2
    | some k =>
      if k.waits.any (fun w => w.expired && !w.met) then 4 else if k.waits.any (fun w => !w.met) then 2 else 3

/-! ## COUNTER and COPY commands (R257, R258) -/

/-- COUNTER NOP. -/
def Chip.counterNop (c : Chip) (q : Nat) (i : BitVec 32) : Chip :=
  match c.issuedCmd q i 8 0 with
  | none => c
  | some k => if k.f 511 119 = 0 then c.endWork q i .ok 0 else c.malformed k

/-- The range check of a COUNTER command (R258). -/
def Chip.ctrRangeOk (c : Chip) (k : Cmd) : Bool :=
  decide (k.f 511 119 = 0) && decide (k.f 40 24 ≤ 65536) &&
    (match c.ctxOf k.ctx with | some x => x.hasCtrs (k.f 23 8) (k.f 40 24) | none => false)

/-- A counter of the range belongs to a fenced cluster, which refuses every operation (R532). -/
def Chip.ctrRangeFenced (c : Chip) (k : Cmd) : Bool :=
  (List.range 64).any (fun cl => c.clFenced cl && decide (k.f 40 24 ≠ 0) && decide (k.f 23 8 < 1024 * (cl + 1)) && decide (1024 * cl < k.f 23 8 + k.f 40 24))

/-- SET_RANGE. -/
def Chip.setRange (c : Chip) (q : Nat) (i : BitVec 32) : Chip :=
  match c.issuedCmd q i 8 1 with
  | none => c
  | some k =>
    if ¬ c.ctrRangeOk k then c.malformed k
    else if c.ctrRangeFenced k then c.endWork q i .fenced 0
    else ((List.range (k.f 40 24)).foldl (fun c j => c.ctrSet (k.f 23 8 + j) (k.f 72 41)) c).endWork q i .ok 0

/-- READ_RANGE from counter number `pos` of the range on, 16 counters a write; a MOVING tile holds it (R258, R294). -/
def Chip.readRangeGo (c : Chip) (k : Cmd) : Nat → Chip
  | 0 => c
  | f + 1 =>
    match c.cmd? k.queue k.index with
    | none => c
    | some m =>
      let n := min 16 (k.f 40 24 - m.pos)
      if n = 0 then c.endWork k.queue k.index .ok 0
      else
        let a := k.f 118 73 + 4 * m.pos
        if c.accRes a (4 * n) = .held then c else
        let (vs, c) := (List.range n).foldl (fun (p : List (BitVec 8) × Chip) j =>
          let (v, c) := p.2.ctrSample (k.f 23 8 + m.pos + j)
          (p.1 ++ toBytes 4 v, c)) ([], c)
        let (r, c) := c.mwrite k.tag.toNat a vs
        match r with
        | .held => c
        | .poisoned => c.endWork k.queue k.index .poisoned ((k.f 118 73 + 4 * m.pos) / 32768)
        | .ok => (c.setCmd { m with pos := m.pos + n }).readRangeGo k f

/-- READ_RANGE. -/
def Chip.readRange (c : Chip) (q : Nat) (i : BitVec 32) : Chip :=
  match c.issuedCmd q i 8 2 with
  | none => c
  | some k =>
    let ok := c.ctrRangeOk k && (decide (k.f 118 73 % 64 = 0) || decide (k.f 40 24 = 0)) &&
      (match c.ctxOf k.ctx with | some x => x.covers (k.f 118 73) (4 * k.f 40 24) | none => false)
    if ¬ ok then c.malformed k
    else if c.ctrRangeFenced k then c.endWork q i .fenced 0
    else
      let k := { k with phase := .running, pos := 0 }
      (c.setCmd k).readRangeGo k (k.f 40 24 / 16 + 2)

/-- A local COPY from byte `pos` on, a piece at a time; a MOVING tile holds it (R257, R294). -/
def Chip.copyLocal (c : Chip) (k : Cmd) : Nat → Chip
  | 0 => c
  | f + 1 =>
    match c.cmd? k.queue k.index with
    | none => c
    | some m =>
      let n := min 2048 (k.f 157 118 - m.pos)
      if n = 0 then c.endWork k.queue k.index .ok 0
      else
        let src := k.f 53 8 + m.pos
        let dst := k.f 99 54 + m.pos
        if c.accRes src n = .held ∨ c.accRes dst n = .held then c
        else
          let (r, bs, c) := c.mread k.tag.toNat src n
          match r with
          | .ok =>
            let (r, c) := c.mwrite k.tag.toNat dst bs
            if r = .poisoned then c.endWork k.queue k.index .poisoned (dst / 32768)
            else (c.setCmd { m with pos := m.pos + n }).copyLocal k f
          | _ => c.endWork k.queue k.index .poisoned (src / 32768)

/-- The packets of a COPY or a MAILBOX command that still wait for a tag are withdrawn; the answer counts them. -/
def Chip.dropPackets (c : Chip) (q : Nat) (i : BitVec 32) : Nat × Chip :=
  let mine := fun (b : TagBy) => match b with | .copy r j | .unit r j => decide (r = q) && decide (j = i) | _ => false
  ((c.fab.wait.filter (fun r => mine r.by_)).length, c.dropWait mine)

/-- A remote COPY from byte `pos` on: packets of up to 2,048 B while tags are left (R257, R377); nothing more goes after a loss. -/
def Chip.copyRemote (c : Chip) (k : Cmd) : Nat → Chip
  | 0 => c
  | f + 1 =>
    match c.cmd? k.queue k.index with
    | none => c
    | some m =>
      let n := min 2048 (k.f 157 118 - m.pos)
      if n = 0 ∨ m.status ≠ .ok then
        let (gone, c) := if m.status = .ok then (0, c) else c.dropPackets k.queue k.index
        let c := c.setCmd { m with fin := true, left := m.left - gone }
        if m.left - gone = 0 then c.endWork k.queue k.index m.status m.info.toNat else c
      else if ¬ c.mayAsk (.copy k.queue k.index) then c
      else
        let src := k.f 53 8 + m.pos
        let (r, bs, c) := c.mread k.tag.toNat src n
        match r with
        | .held => c
        | .poisoned => (c.setCmd { m with status := .poisoned, info := BitVec.ofNat 32 (src / 32768) }).copyRemote k f
        | .ok =>
          let job := ((c.ctxOf k.ctx).map (fun y => y.job)).getD 0
          let c := c.setCmd { m with pos := m.pos + n, left := m.left + 1 }
          let c := c.txn (.copy k.queue k.index) (mkHdr 0 (k.f 117 100) (k.f 99 54 + m.pos) job n 0 none false) bs k.lc none
          c.copyRemote k f

/-- A running COPY goes on as far as it can. -/
def Chip.copyGo (c : Chip) (k : Cmd) : Chip :=
  let fuel := k.f 157 118 / 2048 + 3
  if k.f 117 100 = c.node then c.copyLocal k fuel else c.copyRemote k fuel

/-- COPYs that run; at most 4 do (R257). -/
def Chip.copiesRunning (c : Chip) : Nat := (c.allCmds.filter (fun m => decide (m.type = 1) && decide (m.phase = .running))).length

/-- COPY (R257): checks, then a copy engine, LC level first. -/
def Chip.copyCmd (c : Chip) (q : Nat) (i : BitVec 32) : Chip :=
  match c.issuedCmd q i 1 0 with
  | none => c
  | some k =>
    let n := k.f 157 118
    let src := k.f 53 8
    let dst := k.f 99 54
    let here := decide (k.f 117 100 = c.node)
    let ok := decide (k.f 511 158 = 0) && decide (n % 64 = 0) &&
      (decide (n = 0) || (decide (src % 64 = 0) && decide (dst % 64 = 0))) &&
      (match c.ctxOf k.ctx with | some x => x.covers src n && (!here || x.covers dst n) | none => false) &&
      !(here && decide (src < dst + n) && decide (dst < src + n))
    let behind := !k.lc && c.allCmds.any (fun m => decide (m.type = 1) && decide (m.phase = .issued) && m.lc)
    if ¬ ok then c.malformed k
    else if c.copiesRunning ≥ 4 ∨ (c.copiesRunning = 3 ∧ behind) then c
    else
      let k := { k with phase := .running, pos := 0, left := 0 }
      (c.setCmd k).copyGo k

/-- Every running COPY and READ_RANGE goes on, after a move has completed or tags have come free. -/
def Chip.copiesGo (c : Chip) : Chip :=
  (c.allCmds.filter (fun m => decide (m.phase = .running))).foldl (fun c m =>
    if m.type = 1 then c.copyGo m
    else if m.type = 8 then c.readRangeGo m (m.f 40 24 / 16 + 2)
    else c) c

end Sys2Proof.Machine
end

