-- ==== Sys2Proof/Machine/Launch.lean ====
section
/-!
DEFINITION. Kernel launches (chapters 03, 06, 07, 08): the checks of an image (R196), the pen predicate (R99 to R101),
resolution of tiles (R298 to R300), loading and preloading (R197, R198).
-/

namespace Sys2Proof.Machine

/-! ## Wakes (R509) -/

/-- A command needs a gated cluster: a wake is asked for, once. -/
def Chip.askWake (c : Chip) (cl : Nat) (lc : Bool) : Chip :=
  if c.clGated cl && !(c.clFenced cl) && !(c.pwr.wakeQ.any (fun w => decide (w.cluster = cl))) &&
      !(c.pwr.waking.any (fun w => decide (w.1 = cl))) then
    { c with pwr.wakeQ := c.pwr.wakeQ ++ [WakeReq.mk cl lc c.time.ns] }
  else c

/-! ## Slots of a bundle (R196, R199, R209 to R219, R182 to R185) -/

/-- MT slot: no reserved encoding or reserved field (R211, R212, R141). -/
def mtOk (s : Nat) (gang : Bool) (list : Nat) : Bool :=
  let sh := bits s 59 56
  decide (bits s 63 60 = 0) && decide (sh ≤ 9) && (stepLen (bits s 55 52) (bits s 51 48)).isSome && decide (bits s 11 10 ≠ 3) &&
    decide (bits s 7 0 = 0) && (!(bit s 8) || decide (sh = 4) || decide (sh = 5) || decide (sh = 9)) &&
    (if gang then decide (6 ≤ sh) && decide (list = 0) else decide (sh ≤ 5))

/-- VE slot (R186, R213, R214): FMT and RNGP hold no value that their Meaning does not define, whatever the operation. -/
def veOk (s : Nat) : Bool :=
  let op := bits s 63 58
  let f := bits s 33 30
  decide (op ≤ 17) && decide (bits s 15 0 = 0) && decide (f ≤ 8) && decide (bits s 24 21 ≤ 13) &&
    (decide (op ≠ 16) || decide (6 ≤ f)) && (decide (op ≠ 17) || decide (f ≤ 5))

/-- SIU slot (R182 to R185); an SPSTEP stands in no gang kernel (R171). -/
def siuOk (s : Nat) (gang : Bool) : Bool :=
  match bits s 63 60 with
  | 0 => !gang && (stepLen (bits s 35 32) (bits s 31 28)).isSome && decide (bits s 27 24 ≤ 8) && decide (bits s 23 21 ≤ 4) &&
      decide (bits s 20 12 = 0) && decide (bits s 11 10 ≠ 3) && decide (bits s 3 0 = 0)
  | 1 | 2 => decide (bits s 41 39 ≤ 6) && decide (bits s 38 0 = 0)
  | 3 => decide (bits s 53 48 = 0) && decide (bits s 41 39 ≤ 5) && decide (bits s 38 0 = 0)
  | _ => false

/-- LDE or STE slot (R216). -/
def xferOk (s : Nat) (ste : Bool) : Bool :=
  match bits s 63 61 with
  | 0 => decide (bits s 12 0 = 0)
  | 1 => decide (bits s 2 0 = 0)
  | 2 => decide (bits s 12 11 ≤ 1) && decide (bits s 10 9 ≠ 3) && decide (bits s 8 0 = 0)
  | 3 => !ste
  | _ => false

/-- SCU slot (R209, R210). -/
def scuOk (s : Nat) : Bool :=
  let op := bits s 63 60
  decide (op ≤ 6) && decide (bits s 46 32 = 0) && (decide (op ≠ 5) || decide (bits s 50 48 ≤ 5)) &&
    (decide (op ≠ 4) || decide (bits s 31 5 = 0)) && (decide (op ≠ 6) || decide (bits s 31 1 = 0))

/-- A slot at place e of a bundle holds no reserved encoding or non-zero reserved field. -/
def slotOk (e s : Nat) (gang : Bool) (list : Nat) : Bool :=
  match e with
  | 0 => mtOk s gang list
  | 1 => veOk s
  | 2 => siuOk s gang
  | 3 => xferOk s false
  | 4 => xferOk s true
  | _ => scuOk s

/-- Queues that a slot uses as inputs and as outputs, each with the list whose core holds it (R141, R196). -/
def slotQueues (e s list : Nat) : List (Nat × Nat) × List (Nat × Nat) :=
  let own := fun (qs : List Nat) => qs.map (fun q => (list, q))
  match e with
  | 0 =>
    let sh := bits s 59 56
    let cores := if sh < 6 then [list] else List.range 8
    let cols := if sh < 6 then [list] else if sh = 6 then List.range 4 else List.range 8
    let rowQ := bits s 47 42 :: (if fmtScaled (bits s 55 52) then [bits s 41 36] else [])
    let colQ := bits s 35 30 :: (if fmtScaled (bits s 51 48) then [bits s 29 24] else [])
    (own rowQ ++ cols.flatMap (fun t => colQ.map (fun q => (t, q))) ++ (if bits s 11 10 = 2 then cores.map (fun t => (t, bits s 23 18)) else []),
      if bit s 9 then cores.map (fun t => (t, bits s 17 12)) else [])
  | 1 =>
    let op := bits s 63 58
    let b := op ≤ 7 ∧ ¬ bit s 16 ∨ (op = 15 ∧ fmtScaled (bits s 33 30))
    let cIn := op = 3 ∨ op = 7
    (own (bits s 57 52 :: (if b then [bits s 51 46] else []) ++ (if cIn then [bits s 45 40] else [])),
      own (bits s 39 34 :: (if op = 17 then [bits s 45 40] else [])))
  | 2 =>
    match bits s 63 60 with
    | 0 => (own ([bits s 59 54, bits s 53 48] ++ (if bits s 11 10 = 0 then [] else [bits s 47 42])), own [bits s 41 36])
    | 3 => (own [bits s 59 54], own [bits s 47 42])
    | _ => (own [bits s 59 54, bits s 53 48], own [bits s 47 42])
  | 3 => (own (if 2 ≤ bits s 63 61 then [bits s 18 13] else []), own [bits s 60 55])
  | 4 => (own (bits s 60 55 :: (if bits s 63 61 = 2 then [bits s 18 13] else [])), [])
  | _ => ([], [])

/-! ## Images (R191 to R196) -/

/-- An image as the front-end reads it. -/
structure Image where
  bytes : List (BitVec 8)
  lists : Nat
  gang : Bool
  rowParam : Nat
  unitParam : Nat
  mask : Nat

/-- n bytes of an image from an offset. -/
def Image.at_ (im : Image) (o n : Nat) : List (BitVec 8) := (im.bytes.drop o).take n

/-- Directory entry k (R193). -/
def Image.dir (im : Image) (k : Nat) : Nat := ofBytes (im.at_ (64 + 32 * k) 32)

/-- Words of list k. -/
def Image.words (im : Image) (k : Nat) : List Nat :=
  let d := im.dir k
  words32 (bits d 223 209) (im.at_ (bits d 255 224 + 256) (4 * bits d 223 209))

/-- Queue table entry q of list k (R194). -/
def Image.queue (im : Image) (k q : Nat) : Nat := ofBytes (im.at_ (bits (im.dir k) 255 224 + 4 * q) 4)

/-- Numbers of the activation tables present, ascending (R191). -/
def Image.tables (im : Image) : List Nat := (List.range 8).filter (fun t => bit im.mask t)

/-- Bytes of the j-th table present. -/
def Image.table (im : Image) (j : Nat) : List (BitVec 8) := im.at_ (512 + 1536 * j) 1536

/-- C of list k under parameter values (R195). -/
def Image.cycles (im : Image) (k : Nat) (ps : List (BitVec 64)) : Nat :=
  bits (im.dir k) 162 123 + bits (im.dir k) 122 99 * (((ps[im.unitParam]?).getD 0).toNat % 2 ^ 32)

/-- Slots present in a bundle header, with their word offsets in the bundle. -/
def hdrSlots (h : Nat) : List (Nat × Nat) :=
  ((List.range 6).filter (fun e => bit h (26 + e))).zipIdx.map (fun p => (p.1, 1 + 2 * p.2))

/-- Words of a bundle (R200). -/
def bundleLen (h : Nat) : Nat := 1 + 2 * (hdrSlots h).length

/-- Start words of the bundles that words parse into, up to n of them; none when they do not parse into exactly n (R196). -/
def bundleStarts : Nat → Nat → List Nat → Option (List Nat)
  | 0, _, [] => some []
  | 0, _, _ => none
  | _ + 1, _, [] => none
  | n + 1, o, h :: t =>
    let len := bundleLen h
    if t.length + 1 < len then none else (bundleStarts n (o + len) (t.drop (len - 1))).map (fun r => o :: r)

/-- An activation table passes R151. -/
def tableOk (tb : List (BitVec 8)) : Bool :=
  let b := fun (i : Nat) => ((tb[i]?).getD 0).toNat
  let brk := fun (i : Nat) => ofBytes ((tb.drop (32 + 4 * i)).take 4)
  decide (b 0 ≤ 1) && decide (1 ≤ b 1) && decide (b 1 ≤ 64) && decide (b 2 ≤ 2) && decide (b 3 ≤ 2) &&
    decide (crc32 (tb.take 28 ++ (tb.drop 32).take 1284) = ofBytes ((tb.drop 28).take 4)) &&
    (List.range (b 1)).all (fun i => fless (brk i) (brk (i + 1)))

/-- A queue table: BASE + SIZE at most 1,024, KIND 0 or 1, reserved bits zero, no shared entry (R194, R196). -/
def Image.queuesOk (im : Image) (k : Nat) : Bool :=
  let es := (List.range 64).map (fun q => im.queue k q)
  let live := es.filter (fun e => decide (bits e 21 11 ≠ 0))
  es.all (fun e => decide (bits e 31 22 + bits e 21 11 ≤ 1024) && decide (bits e 10 9 ≤ 1) && decide (bits e 8 0 = 0)) &&
    decide (live.Pairwise (fun a b => bits a 31 22 + bits a 21 11 ≤ bits b 31 22 ∨ bits b 31 22 + bits b 21 11 ≤ bits a 31 22))

/-- Whether the bundle whose words are given passes R196 in list k, with `open_` blocks open before it. -/
def Image.bundleOk (im : Image) (k : Nat) (ws : List Nat) (open_ : Nat) (opnds : List (Option Bool)) : Bool :=
  let h := (ws.head?).getD 0
  let depth := open_ + b2n (bit h 7)
  decide (bits h 31 26 ≠ 0) && decide (bits h 13 12 ≠ 3) && decide (bits h 1 0 = 0) && decide (depth ≤ 4) && decide (bits h 6 5 ≤ depth) &&
    (hdrSlots h).all (fun p =>
      let s := ((ws[p.2]?).getD 0) + ((ws[p.2 + 1]?).getD 0) <<< 32
      let (ins, outs) := slotQueues p.1 s k
      slotOk p.1 s im.gang k &&
        ins.all (fun x => decide (bits (im.queue x.1 x.2) 21 11 ≠ 0) && decide (bits (im.queue x.1 x.2) 10 9 = 0)) &&
        outs.all (fun x => decide (bits (im.queue x.1 x.2) 21 11 ≠ 0)) &&
        (if p.1 = 3 then ((opnds[bits s 54 52]?).getD none).isSome
         else if p.1 = 4 then decide ((opnds[bits s 54 52]?).getD none = some false) else true))

/-- The first bundle of list k that fails R196, from bundle number b on; an open block at the end fails at the last bundle. -/
def Image.firstBad (im : Image) (k : Nat) (ws : List Nat) (opnds : List (Option Bool)) : Nat → Nat → List Nat → Option Nat
  | b, open_, [] => if open_ = 0 then none else some (b - 1)
  | b, open_, s :: ss =>
    let x := ws.drop s
    let h := (x.head?).getD 0
    if ¬ im.bundleOk k x open_ opnds then some b
    else im.firstBad k ws opnds (b + 1) (open_ + b2n (bit h 7) - bits h 6 5) ss

/-- Word for "outside the bundles" in ERR_INFO1 of LOAD_CHECK (R236). -/
def outside : Nat := 0x3FFF

/-- Every check of list k (R196): the answer is the offending bundle. -/
def Image.listBad (im : Image) (k : Nat) (opnds : List (Option Bool)) : Option Nat :=
  let d := im.dir k
  let o := bits d 255 224
  let n := bits d 223 209
  if o % 256 ≠ 0 ∨ o + 256 + 4 * n > im.bytes.length ∨ n > 16384 ∨ bits d 98 0 ≠ 0 ∨
      crc32 (im.at_ o (256 + 4 * n)) ≠ bits d 194 163 ∨ ¬ im.queuesOk k then some outside
  else
    match bundleStarts (bits d 208 195) 0 (im.words k) with
    | none => some outside
    | some ss => im.firstBad k (im.words k) opnds 0 0 ss

/-- The first list and bundle at which an image fails R196 for a launch that supplies these operands. -/
def Image.bad (im : Image) (ps : List (BitVec 64)) (opnds : Nat → List (Option Bool)) : Option (Nat × Nat) :=
  let tabs := im.tables.zipIdx.all (fun p => tableOk (im.table p.2))
  let tail := (im.at_ (64 + 32 * im.lists) (512 - 64 - 32 * im.lists)).all (fun b => decide (b = 0))
  let same := (List.range im.lists).all (fun k => decide (im.cycles k ps = im.cycles 0 ps))
  if ¬ tabs ∨ ¬ tail ∨ ¬ same then some (0, outside)
  else (List.range im.lists).findSome? (fun k => (im.listBad k (opnds k)).map (fun b => (k, b)))

/-- The image of a launch: bytes from IMG_ADDR, with the header's fields. -/
def Chip.imageOf (c : Chip) (k : Cmd) : Image :=
  let h := ofBytes (c.bytesAt (k.f 63 18) 64)
  { bytes := c.bytesAt (k.f 63 18) (bits h 511 480), lists := bits h 463 460, gang := bit h 459, rowParam := bits h 458 455,
    unitParam := bits h 454 451, mask := bits h 450 443 }

/-- The header itself passes R196. -/
def imageHdrOk (h : Nat) : Bool :=
  decide (bits h 479 464 = 0x4B4E) && decide (crc32 ((toBytes 64 h).drop 4) = bits h 31 0) && decide (bits h 442 32 = 0) &&
    ((decide (bits h 463 460 = 1) && !(bit h 459)) || (decide (bits h 463 460 = 8) && bit h 459)) && decide (512 ≤ bits h 511 480)

/-! ## Operands (R255) -/

/-- Operand entry j of list k of an argument block. -/
def opndAt (ab : List (BitVec 8)) (k j : Nat) : Nat := ofBytes ((ab.drop (128 + 128 * k + 16 * j)).take 16)

/-- Supplied operands of list k: RO where supplied. -/
def opndRo (ab : List (BitVec 8)) (k : Nat) : List (Option Bool) :=
  (List.range 8).map (fun j => let e := opndAt ab k j; if bit e 15 then some (bit e 16) else none)

/-- Tiles of the supplied operands of list k, each once, in order. -/
def opndTiles (ab : List (BitVec 8)) (k : Nat) : List Nat :=
  ((List.range 8).flatMap (fun j => let e := opndAt ab k j
    if bit e 15 then (List.range (bits e 32 17)).map (fun i => bits e 63 33 + i) else [])).dedup

/-- Cores of a launch with their lists. -/
def launchCores (k : Cmd) (lists : Nat) : List (Nat × Nat) := (List.range lists).map (fun j => (k.f 17 9 + j, j))

/-- The core's tiles total of list k, with no tile counted once. -/
def opndTotal (ab : List (BitVec 8)) (k : Nat) : Nat :=
  ((List.range 8).map (fun j => let e := opndAt ab k j; if bit e 15 then bits e 32 17 else 0)).sum

/-- The argument block of a launch. -/
def Chip.argBlock (c : Chip) (k : Cmd) (lists : Nat) : List (BitVec 8) := c.bytesAt (k.f 109 64) (128 + 128 * lists)

/-- The parameters of a launch, with the row count of its predicate (R195). -/
def Chip.launchParams (c : Chip) (k : Cmd) (im : Image) : List (BitVec 64) :=
  let ab := c.argBlock k im.lists
  let ps := (List.range 16).map (fun j => BitVec.ofNat 64 (ofBytes ((ab.drop (8 * j)).take 8)))
  if k.f 8 8 = 1 then ps.set im.rowParam (BitVec.ofNat 64 k.pos) else ps

/-! ## The pen predicate (R99 to R101) -/

/-- HDR_STRIDE (R84). -/
def hdrStride (qmax : Nat) : Nat := (32 + 4 * qmax + 31) / 32 * 32

/-- The CRC of a header record over its block header and its tag entries (R86). -/
def hdrCrcOk (h : Nat) (tags : List (BitVec 8)) : Bool :=
  decide (crc32 ([0, 0, 0, 0] ++ (toBytes 32 h).drop 4 ++ tags) = bits h 31 0)

/-- What a predicate's walk over the sources finds: the COUNT of each, a failure, or a MOVING tile. -/
inductive PredRes where
  | counts (ns : List Nat)
  | fail (bit : Nat) (st : Status) (rank : Nat)
  | poisoned
  | held
  deriving DecidableEq, Repr

/-- Step 1 of R100: the headers of sources r on are read and checked, with the counts so far (R101). -/
def Chip.predWalk (c : Chip) (tag p : Nat) : Nat → Nat → List Nat → PredRes × Chip
  | 0, _, ns => (.counts ns, c)
  | n + 1, r, ns =>
    let a := bits p 255 210 + r * hdrStride (bits p 191 176)
    let (x, bs, c) := c.mread tag a (32 + 4 * bits p 191 176)
    match x with
    | .held => (.held, c)
    | .poisoned => (.poisoned, c)
    | .ok =>
      let h := ofBytes (bs.take 32)
      let cnt := bits h 175 160
      if cnt > bits p 191 176 then (.fail 4 .malformed r, c)
      else if ¬ hdrCrcOk h ((bs.drop 32).take (4 * cnt)) then (.fail 2 .malformed r, c)
      else if bits h 199 184 ≠ bits p 175 160 then (.fail 3 .epoch r, c)
      else Chip.predWalk c tag p n (r + 1) (ns ++ [cnt])

/-- Step 2 of R100: the count vector is written. -/
def Chip.predWrite (c : Chip) (tag p : Nat) (ns : List Nat) : AccRes × Chip :=
  if ns = [] then (.ok, c) else c.mwrite tag (bits p 159 114) (ns.flatMap (toBytes 2))

/-! ## Resolution (R297 to R300) -/

/-- What a launch has to lock: operand tiles with their core, then image tiles. -/
def Chip.launchNeeds (c : Chip) (k : Cmd) (im : Image) : List (Nat × Option Nat) :=
  let ab := c.argBlock k im.lists
  let ops := (launchCores k im.lists).flatMap (fun p => (opndTiles ab p.2).map (fun t => (t, some p.1)))
  let img := (tilesOf (k.f 63 18) im.bytes.length).filter (fun t => !(ops.any (fun o => decide (o.1 = t))))
  ops ++ img.map (fun t => (t, none))

/-- Whether a LAUNCH move of a tile has been asked for by this command. -/
def Chip.asked (c : Chip) (k : Cmd) (t : Nat) : Bool :=
  let x := c.shuOf (t % 16)
  x.waiting.any (fun r => decide (r.tile = t) && decide (r.by_ = .cmd k.queue k.index)) || x.flight.any (fun m => decide (m.tile = t))

/-- A launch fails at its resolution and releases its locks and waiting moves (R299). -/
def Chip.launchFails (c : Chip) (q : Nat) (i : BitVec 32) (st : Status) (info : Nat) : Chip :=
  ((c.dropBy (fun b => decide (b = .cmd q i))).dropLocks q i).endWork q i st info

/-- Resolve the tiles of a launch that are left, in order; the answer says whether every one is locked. -/
def Chip.resolveTiles (c : Chip) (k : Cmd) : List (Nat × Option Nat) → Bool → Bool × Chip
  | [], all => (all, c)
  | (t, core) :: rest, all =>
    match c.cmd? k.queue k.index with
    | none => (false, c)
    | some m =>
      if ¬ m.working then (false, c)
      else if m.locks.contains t then c.resolveTiles k rest all
      else
        let x := c.tileOf t
        let lock := fun (c : Chip) =>
          let (o, c) := c.nextOrder
          let c := if x.tier then c.setSlot x.slot { c.slotOf x.slot with lastUse := o } else c
          ((c.lockTile t).modCmd k.queue k.index (fun m => { m with locks := m.locks ++ [t] }))
        match x.st, core with
        | .poisoned, _ => (false, (c.poisonRefuse k.tag.toNat (t * 32768) 1).launchFails k.queue k.index .poisoned t)
        | .moving, _ => c.resolveTiles k rest false
        | _, none => (lock c).resolveTiles k rest all
        | st, some n =>
          if x.tier ∧ x.slot / 128 = n then ((lock c).count pgHOM 2 (if m.brought.contains t then 0 else 1)).resolveTiles k rest all
          else if st = .pinned then (false, (c.err pgHOM 4 k.tag.toNat t).launchFails k.queue k.index .aborted t)
          else if c.asked k t then c.resolveTiles k rest false
          else
            let c := (c.reqMove t (.core n) 1 k.lc false (.cmd k.queue k.index)).count pgHOM 3 1
            (c.modCmd k.queue k.index (fun m => { m with brought := t :: m.brought })).resolveTiles k rest false

/-- Slots of a core that are FREE, evictable, or locked only by the kernel that runs there, for a launch's other tiles: the slots
that hold tiles of its own are kept (R299). -/
def Chip.slotsFor (c : Chip) (own : List Nat) (n : Nat) : Nat :=
  let run := match (c.coreOf n).cmd with | some (q, i) => ((c.cmd? q i).map (fun (m : Cmd) => m.locks)).getD [] | none => ([] : List Nat)
  ((List.range 128).filter (fun j =>
    let s := c.slotOf (n * 128 + j)
    match s.st with
    | .free => true
    | .held => !s.pinned && !(own.contains s.tile) && (decide (s.locks = 0) || (decide (s.locks = 1) && run.contains s.tile))
    | _ => false)).length

/-- Tiles of a launch still to place in a core. -/
def Chip.toPlace (c : Chip) (needs : List (Nat × Option Nat)) (n : Nat) : Nat :=
  (needs.filter (fun p => decide (p.2 = some n) && !(let x := c.tileOf p.1; x.tier && decide (x.slot / 128 = n)))).length

/-- Resolution goes on: a move that failed ends the launch; with every tile locked the launch waits for its core (R298). -/
def Chip.resolve (c : Chip) (q : Nat) (i : BitVec 32) : Chip :=
  match c.cmd? q i with
  | none => c
  | some k =>
    if k.type ≠ 0 ∨ k.phase ≠ .resolving then c
    else if k.fin then c.launchFails q i k.status k.info.toNat
    else
      let (done, c) := c.resolveTiles k (c.launchNeeds k (c.imageOf k)) true
      if done then c.modCmd q i (fun m => if m.phase = .resolving then { m with phase := .ready } else m) else c

/-- The launch starts to resolve (R298, R299). -/
def Chip.resolveStart (c : Chip) (k : Cmd) (im : Image) : Chip :=
  let needs := c.launchNeeds k im
  let c := (c.count pgHOM 0 1).count pgHOM 1 (needs.filter (fun p => p.2.isSome)).length
  let c := c.setCmd { k with phase := .resolving }
  match (launchCores k im.lists).find? (fun p => decide (c.slotsFor (needs.filterMap (fun x => if x.2 = some p.1 then some x.1 else none)) p.1 < c.toPlace needs p.1)) with
  | some p => (c.err pgHOM 3 k.tag.toNat p.1).launchFails k.queue k.index .aborted p.1
  | none => c.resolve k.queue k.index

/-! ## KERNEL (R254 to R256) -/

/-- Operand entries of every list are well formed and in the window, and no core gets more than 128 tiles (R255, R256). -/
def Chip.opndsOk (x : Ctx) (ab : List (BitVec 8)) (lists : Nat) : Bool :=
  (List.range lists).all (fun k => decide (opndTotal ab k ≤ 128) && (List.range 8).all (fun j =>
    let e := opndAt ab k j
    decide (bits e 127 64 = 0) && decide (bits e 14 0 = 0) && decide (bits e 32 17 ≤ 128) &&
      (!(bit e 15) || x.hasTiles (bits e 63 33) (bits e 32 17))))

/-- The predicate of a launch is evaluated, then its tiles are resolved (R100). -/
def Chip.kernelPred (c : Chip) (k : Cmd) (x : Ctx) (im : Image) : Chip :=
  if k.f 8 8 = 0 then c.resolveStart k im
  else
    let (r, bs, c) := c.mread k.tag.toNat (k.f 155 110) 32
    let p := ofBytes bs
    let n := bits p 209 192
    match r with
    | .held => c
    | .poisoned => c.endWork k.queue k.index .poisoned (k.f 155 110 / 32768)
    | .ok =>
      if crc32 (bs.drop 4) ≠ bits p 31 0 ∨ bits p 113 32 ≠ 0 ∨ bits p 255 210 % 32 ≠ 0 ∨ bits p 159 114 % 64 ≠ 0 ∨
          ¬ x.covers (bits p 255 210) (n * hdrStride (bits p 191 176)) ∨ ¬ x.covers (bits p 159 114) (2 * n) then c.malformed k
      else
        let (res, c) := c.predWalk k.tag.toNat p n 0 []
        match res with
        | .held => c
        | .poisoned => (c.count pgDWT 7 1).endWork k.queue k.index .poisoned (bits p 255 210 / 32768)
        | .fail b st rank => (((c.count pgDWT 7 1).count pgDWT 9 1).errFree pgDWT b rank).endWork k.queue k.index st rank
        | .counts ns =>
          let (y, c) := c.predWrite k.tag.toNat p ns
          match y with
          | .held => c
          | .poisoned => (c.count pgDWT 7 1).endWork k.queue k.index .poisoned (bits p 159 114 / 32768)
          | .ok =>
            if ns.sum = 0 then ((c.count pgDWT 7 1).count pgDWT 8 1).endWork k.queue k.index .ok 0
            else (c.count pgDWT 7 1).resolveStart { k with pos := ns.sum } im

/-- KERNEL (R256). -/
def Chip.kernel (c : Chip) (q : Nat) (i : BitVec 32) : Chip :=
  match c.issuedCmd q i 0 0, (c.cmd? q i).bind (fun k => c.ctxOf k.ctx) with
  | some k, some x =>
    let img := k.f 63 18
    let arg := k.f 109 64
    let n := k.f 17 9
    if k.f 511 188 ≠ 0 ∨ img % 256 ≠ 0 ∨ arg % 64 ≠ 0 ∨ ¬ x.covers img 64 then c.malformed k
    else
      let (r, hb, c) := c.mread k.tag.toNat img 64
      let h := ofBytes hb
      match r with
      | .held => c
      | .poisoned => c.endWork q i .poisoned (img / 32768)
      | .ok =>
        if ¬ imageHdrOk h then (c.err (pgCORE n) 3 k.tag.toNat outside).endWork q i .malformed outside
        else
          let im := c.imageOf k
          let len := 128 + 128 * im.lists
          if ¬ x.covers arg len ∨ ¬ x.covers img im.bytes.length ∨ (im.gang ∧ n % 8 ≠ 0) then c.malformed k
          else
            let (r, ab, c) := c.mread k.tag.toNat arg len
            match r with
            | .held => c
            | .poisoned => c.endWork q i .poisoned (arg / 32768)
            | .ok =>
              if crc32 ab ≠ k.f 187 156 ∨ ¬ Chip.opndsOk x ab im.lists then c.malformed k
              else if (launchCores k im.lists).any (fun p => c.coreFenced p.1 || c.clFenced (p.1 / 8)) then c.endWork q i .fenced 0
              else if im.gang ∧ c.fld (pgGNG (n / 8)) 0x008 0 0 = 0 then
                (c.err (pgGNG (n / 8)) 2 k.tag.toNat 0).endWork q i .aborted 0
              else if c.clGated (n / 8) then c.askWake (n / 8) k.lc
              else c.kernelPred k x im
  | _, _ => c

/-! ## Loading (R197, R198, R207, R208) -/

/-- Start words of the running list's bundles give the word after its last bundle. -/
def Chip.listEnd (c : Chip) (n : Nat) : Nat :=
  match (c.coreOf n).starts.getLast? with
  | some s => s + bundleLen (c.imemWord n s)
  | none => 0

/-- Write a list's words into a bank of core n's instruction memory. -/
def Chip.imemLoad (c : Chip) (n bank : Nat) (bs : List (BitVec 8)) : Chip :=
  let a := n * 65536 + bank * 32768
  (({ c with core.imem := Mem.writeL c.core.imem a bs }).rewritten (pgCORE n) 0 a bs.length).injWA (pgCORE n) 0 a

/-- Launches that wait for core n, in the order in which they start: LC level first, then issue order (R256, R271). -/
def Chip.nextLaunch (c : Chip) (n : Nat) : Option Cmd :=
  let ws := c.allCmds.filter (fun m => decide (m.type = 0) && decide (m.phase = .ready) &&
    (launchCores m (c.imageOf m).lists).any (fun p => decide (p.1 = n)))
  firstBy (fun a b => if a.lc ≠ b.lc then a.lc else a.seqNo < b.seqNo) ws

/-- Core n is held for a lane that a running ROUTE drains (R207). -/
def Chip.laneHeld (c : Chip) (n : Nat) : Bool :=
  (c.coreOf n).qs.any (fun e => decide (e.2.kind = 1) && decide (e.2.claimed > e.2.taken) && c.laneDrained (n / 8) e.1)

/-- What earlier kernels left in the queues of core n is discarded at the next launch (R208). -/
def Chip.leftover (c : Chip) (n : Nat) : Chip := c.count (pgCORE n) 17 (((c.coreOf n).qs.map (fun e => e.2.entries)).sum)

/-- Slots of a core's operand in order, and RO (R298). -/
def Chip.opndOf (c : Chip) (ab : List (BitVec 8)) (k j : Nat) : Option Opnd :=
  let e := opndAt ab k j
  if bit e 15 then some ⟨(List.range (bits e 32 17)).map (fun i => (c.tileOf (bits e 63 33 + i)).slot), bit e 16⟩ else none

/-- Core n, list k: queue table, tables and words are loaded; the sequencer stands at bundle 0, cycle 0, LOADING until the load's time
has passed (R197, R198, R235). -/
def Chip.loadCore (c : Chip) (m : Cmd) (im : Image) (n k : Nat) : Chip :=
  let x := c.coreOf n
  let c := c.leftover n
  let d := im.dir k
  let pre := decide (x.preload = some (m.queue, m.index))
  let bank := if pre then 1 - x.bank else 0
  let words := im.words k
  let c := if pre then c else c.imemLoad n bank (im.at_ (bits d 255 224 + 256) (4 * words.length))
  let c := im.tables.zipIdx.foldl (fun c p =>
    { c with core.tbl := Mem.writeL c.core.tbl (n * 12288 + 1536 * p.1) (im.table p.2) }) c
  let far := (tilesOf (m.f 63 18) im.bytes.length).any (fun t => !(c.tileOf t).tier)
  let load := (if pre then 1 else ceilDiv (256 + 4 * words.length) 256) + 6 * im.tables.length + 32 + (if far ∧ ¬ pre then 160 else 0)
  let ps := c.launchParams m im
  let ab := c.argBlock m im.lists
  let qs := (List.range 64).foldl (fun (t : Tab QSt) q =>
    let e := im.queue k q
    Tab.put default t q ⟨bits e 31 22, bits e 21 11, bits e 10 9, 0, 0, 0, 0, 0, none, c.time.ns⟩) []
  let starts := ((bundleStarts (bits d 208 195) 0 words).getD []).map (fun s => s + 8192 * bank)
  let c := c.setCore n { coreInit with
    st := 1, loadAt := c.time.ns + ceilDiv (load * 20) 33, cmd := some (m.queue, m.index), tag := m.tag, queue := m.queue, gang := im.gang,
    job := ((c.ctxOf m.ctx).map (fun y => y.job)).getD 0, declared := im.cycles k ps, starts := starts, qs := qs, params := ps,
    opnds := (List.range 8).map (fun j => c.opndOf ab k j), bank := bank }
  let c := c.setReg (pgCORE n) 0x240 ((c.reg (pgCORE n) 0x240 + 1) % 2 ^ 32)
  let c := ((c.count (pgCORE n) 0 1).count (pgCORE n) 20 1).count (pgCORE n) 22 load
  if pre then c.count (pgCORE n) 21 1 else c

/-- KERNEL_LOAD (R197): the first of the launches that wait for its cores is checked, loaded and started. -/
def Chip.kernelLoad (c : Chip) (q : Nat) (i : BitVec 32) : Chip :=
  match c.cmd? q i with
  | none => c
  | some m =>
    if m.type ≠ 0 ∨ m.phase ≠ .ready then c
    else
      let im := c.imageOf m
      let cores := launchCores m im.lists
      let free := cores.all (fun p => decide ((c.coreOf p.1).st = 0) && !(c.laneHeld p.1) && !(c.clGated (p.1 / 8)) &&
        decide ((c.nextLaunch p.1).map (fun y => (y.queue, y.index)) = some (q, i)) &&
        !(c.pwr.unitResets.any (fun r => if r.cluster then decide (r.target = p.1 / 8) else decide (r.target = p.1))))
      if ¬ free then c
      else
        let (r, _, c) := c.mread m.tag.toNat (m.f 63 18) im.bytes.length
        if r = .poisoned then c.endWork q i .poisoned (m.f 63 18 / 32768) else
        let ab := c.argBlock m im.lists
        match im.bad (c.launchParams m im) (opndRo ab) with
        | some (k, b) =>
          (c.err (pgCORE (m.f 17 9 + k)) 3 m.tag.toNat (k <<< 16 + b)).endWork q i .malformed (k <<< 16 + b)
        | none =>
          let c := c.setCmd { m with phase := .running }
          let c := cores.foldl (fun c p => c.loadCore m im p.1 p.2) c
          if im.gang then
            (c.count (pgGNG (m.f 17 9 / 8)) 0 1).setReg (pgGNG (m.f 17 9 / 8)) 0x200 (m.tag.toNat <<< 32 + m.queue <<< 23)
          else c

/-- The load of core n's unit has ended: its sequencers start at cycle 0, all in one cycle, or stop before it (R142, R198, R227). -/
def Chip.coreStart (c : Chip) (n : Nat) : Chip :=
  let ms := c.unit n
  if (c.coreOf n).st ≠ 1 ∨ ms.any (fun m => decide (c.time.ns < (c.coreOf m).loadAt)) then c
  else
    let c := ms.foldl (fun c m => c.setCore m { c.coreOf m with st := 2 }) c
    match ms.find? (fun m => c.launchBreak m) with
    | some m => c.freeze m
    | none => c

/-- Clock time in ns at which the load of core n's unit ends. -/
def Chip.loadDue (c : Chip) (n : Nat) : Nat := ((c.unit n).map (fun m => (c.coreOf m).loadAt)).foldl max 0

/-- Cores whose load has ended start. -/
def Chip.coresStart (c : Chip) : Chip :=
  (c.core.cores.filter (fun e => decide (e.2.st = 1) && decide (e.2.loadAt ≤ c.time.ns))).foldl (fun c e => c.coreStart e.1) c

/-- KERNEL_PRELOAD (R197): the next launch's bundle words go into the free bank while a kernel runs from the other. -/
def Chip.kernelPreload (c : Chip) (n : Nat) : Chip :=
  let x := c.coreOf n
  match c.nextLaunch n with
  | none => c
  | some m =>
    let im := c.imageOf m
    let k := n - m.f 17 9
    let d := im.dir k
    let len := bits d 223 209
    if x.st < 2 ∨ x.preload.isSome ∨ len > 8192 ∨ c.listEnd n > 8192 * (x.bank + 1) then c
    else (c.imemLoad n (1 - x.bank) (im.at_ (bits d 255 224 + 256) (4 * len))).setCore n { x with preload := some (m.queue, m.index) }

/-- Launches that resolve go on, after a move has completed. -/
def Chip.launchesGo (c : Chip) : Chip :=
  (c.allCmds.filter (fun m => decide (m.type = 0) && decide (m.phase = .resolving))).foldl (fun c m => c.resolve m.queue m.index) c

end Sys2Proof.Machine
end

