-- ==== Sys2Proof/Machine/Tiles.lean ====
section
/-!
DEFINITION. TILE_MOVE commands (R307 to R314), the patrol scrub (R319) and the LPDDR5X controllers (R320).
-/

namespace Sys2Proof.Machine

/-! ## Fields of the operand block (R307) -/

def Cmd.tmFirst (k : Cmd) : Nat := k.f 32 8
def Cmd.tmCount (k : Cmd) : Nat := k.f 57 33

/-- An issued TILE_MOVE command of an operation with its context, its reserved bits zero. -/
def Chip.tmCmd (c : Chip) (q : Nat) (i : BitVec 32) (op : Nat) : Option (Cmd × Ctx) :=
  match c.issuedCmd q i 6 op with
  | none => none
  | some k => (c.ctxOf k.ctx).map (fun x => (k, x))

/-- Its tiles lie in the window (R309). -/
def tmRangeOk (k : Cmd) (x : Ctx) : Bool :=
  decide (k.f 511 206 = 0) && decide (k.tmCount ≤ 25165824) && x.hasTiles k.tmFirst k.tmCount

/-! ## Moves (R308) -/

/-- Ask for the COMMAND moves of a command's tiles. -/
def Chip.tmMoves (c : Chip) (k : Cmd) (to_ : Nat → MoveTo) : Chip :=
  let n := k.tmCount
  if n = 0 then c.endWork k.queue k.index .ok 0
  else
    let c := c.setCmd { k with phase := .running, left := n }
    (List.range n).foldl (fun c j => c.reqMove (k.tmFirst + j) (to_ j) 2 k.lc (k.f 74 74 = 1) (.cmd k.queue k.index)) c

/-- MOVE_IN. -/
def Chip.moveIn (c : Chip) (q : Nat) (i : BitVec 32) : Chip :=
  match c.tmCmd q i 0 with
  | none => c
  | some (k, x) =>
    if ¬ tmRangeOk k x ∨ k.f 73 58 + k.tmCount > 65536 then c.malformed k
    else c.tmMoves k (fun j => .slot (k.f 73 58 + j))

/-- MOVE_OUT. -/
def Chip.moveOut (c : Chip) (q : Nat) (i : BitVec 32) : Chip :=
  match c.tmCmd q i 1 with
  | none => c
  | some (k, x) => if ¬ tmRangeOk k x then c.malformed k else c.tmMoves k (fun _ => .out)

/-! ## Operations on tiles where they are (R308, R309) -/

/-- How one tile takes an operation. -/
inductive TmRes where
  | done
  | wait
  | fail (st : Status)
  deriving DecidableEq, Repr

/-- PIN, UNPIN, CLEAR_POISON or SET_ENC (operations 2 to 5) on one tile. -/
def Chip.tmTile (c : Chip) (k : Cmd) (op t : Nat) : TmRes × Chip :=
  let x := c.tileOf t
  let pinned := fun (b : Bool) =>
    let c := (c.setTile t { x with st := if b then .pinned else .resident }).entryTraffic t false
    if x.tier then c.setSlot x.slot { c.slotOf x.slot with pinned := b } else c
  match op, x.st with
  | 4, .poisoned =>
    (.done, ((({ c with hom.lp := Mem.clear c.hom.lp (t * 32768) 32768 }).lpWrite k.tag.toNat (t * 32768) 32768).setTile t
      { x with st := .resident, tier := false, dir := false, to_ := 0, enc := false, slot := 0 }).entryTraffic t false)
  | 4, _ => (.done, c)
  | _, .moving => (.wait, c)
  | 2, .poisoned => (.fail .poisoned, (c.count pgHOM 15 1).err pgHOM 5 k.tag.toNat t)
  | 2, _ => (.done, pinned true)
  | 3, .pinned => (.done, pinned false)
  | 3, _ => (.done, c)
  | _, _ =>
    if x.tier then (.fail .aborted, c)
    else (.done, (c.setTile t { x with enc := k.f 74 74 = 1, kgen := k.f 75 75 = 1 }).entryTraffic t false)

/-- The j-th tile that Shunter s handles of a command (R309); none past its last. -/
def Cmd.tmNth (k : Cmd) (s j : Nat) : Option Nat :=
  let d := (s + 16 - k.tmFirst % 16) % 16 + 16 * j
  if d < k.tmCount then some (k.tmFirst + d) else none

/-- Tiles that Shunter s has handled, as POS keeps it: 32 bits for each Shunter. -/
def Cmd.tmPos (k : Cmd) (s : Nat) : Nat := bits k.pos (32 * s + 31) (32 * s)

/-- Shunter s goes on with a command in tile order until it waits, fails or is done. -/
def Chip.tmShunter (c : Chip) (q : Nat) (i : BitVec 32) (op s : Nat) : Nat → Chip
  | 0 => c
  | f + 1 =>
    match c.cmd? q i with
    | none => c
    | some k =>
      if k.phase ≠ .running then c
      else
        match k.tmNth s (k.tmPos s) with
        | none => c
        | some t =>
          let (r, c) := c.tmTile k op t
          match r with
          | .wait => c
          | .fail st => c.endWork q i st t
          | .done => (c.setCmd { k with pos := k.pos + 2 ^ (32 * s), left := k.left - 1 }).tmShunter q i op s f

/-- Every Shunter goes on; the command ends when its last tile has its final state. -/
def Chip.tmGo (c : Chip) (q : Nat) (i : BitVec 32) : Chip :=
  match c.cmd? q i with
  | none => c
  | some k =>
    if k.type ≠ 6 ∨ k.f 7 0 < 2 ∨ k.f 7 0 > 5 ∨ k.phase ≠ .running then c
    else
      let c := (List.range 16).foldl (fun c s => c.tmShunter q i (k.f 7 0) s (k.tmCount / 16 + 2)) c
      match c.cmd? q i with
      | some k => if k.phase = .running ∧ k.left = 0 then c.endWork q i .ok 0 else c
      | none => c

/-- PIN, UNPIN, CLEAR_POISON and SET_ENC: checked, then every Shunter starts. -/
def Chip.tmInPlace (c : Chip) (q : Nat) (i : BitVec 32) (op : Nat) : Chip :=
  match c.tmCmd q i op with
  | none => c
  | some (k, x) =>
    if ¬ tmRangeOk k x then c.malformed k
    else (c.setCmd { k with phase := .running, left := k.tmCount, pos := 0 }).tmGo q i

/-- PIN. -/
def Chip.tmPin (c : Chip) (q : Nat) (i : BitVec 32) : Chip := c.tmInPlace q i 2
/-- UNPIN. -/
def Chip.tmUnpin (c : Chip) (q : Nat) (i : BitVec 32) : Chip := c.tmInPlace q i 3
/-- CLEAR_POISON. -/
def Chip.tmClearPoison (c : Chip) (q : Nat) (i : BitVec 32) : Chip := c.tmInPlace q i 4
/-- SET_ENC. -/
def Chip.tmSetEnc (c : Chip) (q : Nat) (i : BitVec 32) : Chip := c.tmInPlace q i 5

/-- TILE_MOVE commands that wait go on after a move has completed. -/
def Chip.tilesGo (c : Chip) : Chip :=
  (c.allCmds.filter (fun m => decide (m.type = 6) && decide (m.phase = .running))).foldl (fun c m => c.tmGo m.queue m.index) c

/-! ## Timetable and demand bindings (R310, R311, R314) -/

/-- A table of a 64-byte header whose ENTRIES field the given bits hold, and 16-byte entries: read whole for a command. A table
with too many entries or outside the window gives none. -/
def Chip.tableRead (c : Chip) (k : Cmd) (x : Ctx) (hi lo most : Nat) : AccRes × Option (Nat × List Nat) × Chip :=
  let a := k.f 121 76
  if a % 64 ≠ 0 ∨ k.f 511 206 ≠ 0 ∨ ¬ x.covers a 64 then (.ok, none, c)
  else
    let (r, bs, c) := c.mread k.tag.toNat a 64
    let h := ofBytes bs
    let n := bits h hi lo
    if r ≠ .ok then (r, none, c)
    else if n > most ∨ ¬ x.covers a (64 + 16 * n) then (.ok, none, c)
    else
      let (r, es, c) := c.mread k.tag.toNat (a + 64) (16 * n)
      if r ≠ .ok then (r, none, c)
      else if crc32 (bs.drop 4 ++ es) ≠ bits h 31 0 then (.ok, none, c)
      else (.ok, some (h, (List.range n).map (fun j => ofBytes ((es.drop (16 * j)).take 16))), c)

/-- A command's table ends its binding: read, checked, then `f`; POISONED and MOVING tiles as R294 gives. -/
def Chip.tableCmd (c : Chip) (k : Cmd) (x : Ctx) (hi lo most : Nat) (f : Chip → Nat → List Nat → Chip) : Chip :=
  let (r, t, c) := c.tableRead k x hi lo most
  match r, t with
  | .held, _ => c
  | .poisoned, _ => c.endWork k.queue k.index .poisoned (k.f 121 76 / 32768)
  | .ok, none => c.malformed k
  | .ok, some (h, es) => f c h es

/-- The entries of a Timetable pass R311. -/
def ttOk (x : Ctx) (es : List Nat) : Bool :=
  es.all (fun e => decide (bits e 35 0 = 0) && decide (bits e 37 36 ≠ 3) && decide (bits e 70 54 ≤ 65536) &&
    x.hasTiles (bits e 95 71) (bits e 70 54) && (decide (bits e 37 36 = 1) || decide (bits e 53 38 + bits e 70 54 ≤ 65536))) &&
  (List.zip es (es.drop 1)).all (fun p => decide (bits p.1 127 96 ≤ bits p.2 127 96))

/-- TT_BIND (R311). -/
def Chip.ttBind (c : Chip) (q : Nat) (i : BitVec 32) : Chip :=
  match c.tmCmd q i 6 with
  | none => c
  | some (k, x) =>
    c.tableCmd k x 511 499 4096 (fun c h es =>
      let n := es.length
      let st := k.f 157 146
      if bits h 465 32 ≠ 0 ∨ ¬ ttOk x es ∨ ¬ (st < n ∨ (st = 0 ∧ n = 0)) then c.malformed k
      else
        let b : TtBind := { addr := k.f 121 76, entries := n, period := BitVec.ofNat 32 (bits h 498 467), cyclic := bit h 466,
                            base := BitVec.ofNat 32 (k.f 189 158), start := st, look := k.f 145 138, ctr := k.f 137 122, pos := [],
                            ended := [], stalled := [] }
        let c := c.dropBy (fun b => decide (b = .timetable k.ctx))
        ({ c with hom.tts := Tab.put none c.hom.tts k.ctx (some b) }).endWork q i .ok 0)

/-- TT_UNBIND: no walk goes on, and moves not claimed are withdrawn. -/
def Chip.ttUnbind (c : Chip) (q : Nat) (i : BitVec 32) : Chip :=
  match c.tmCmd q i 7 with
  | none => c
  | some (k, _) =>
    if k.f 511 206 ≠ 0 then c.malformed k
    else
      let c := c.dropBy (fun b => decide (b = .timetable k.ctx))
      ({ c with hom.tts := Tab.put none c.hom.tts k.ctx none }).endWork q i .ok 0

/-- The demand binding of a context and domain. -/
def Chip.dbindOf (c : Chip) (ctx domain : Nat) : Option Nat :=
  c.hom.dbinds.findSome? (fun e => match e.2 with
    | some b => if b.ctx = ctx ∧ b.domain = domain then some e.1 else none
    | none => none)

/-- The entries of a demand map pass R314. -/
def dmOk (x : Ctx) (es : List Nat) : Bool :=
  es.all (fun e => decide (bits e 55 0 = 0) && decide (bits e 88 72 ≤ 65536) && x.hasTiles (bits e 113 89) (bits e 88 72) &&
    decide (bits e 71 56 + bits e 88 72 ≤ 65536)) &&
  (List.zip es (es.drop 1)).all (fun p => decide (bits p.1 127 114 < bits p.2 127 114))

/-- Withdraw the unclaimed moves of a demand binding. -/
def Chip.dropDemand (c : Chip) (b : Nat) : Chip := c.dropBy (fun r => match r with | .demand x _ => decide (x = b) | _ => false)

/-- DEMAND_BIND (R314). -/
def Chip.demandBind (c : Chip) (q : Nat) (i : BitVec 32) : Chip :=
  match c.tmCmd q i 8 with
  | none => c
  | some (k, x) =>
    c.tableCmd k x 511 497 16384 (fun c h es =>
      let port := bits h 496 451
      let old := c.dbindOf k.ctx (k.f 205 190)
      let free := (List.range 16).find? (fun b => (Tab.get none c.hom.dbinds b).isNone)
      match old.or free with
      | none => c.malformed k
      | some b =>
        if bits h 450 32 ≠ 0 ∨ port % 256 ≠ 0 ∨ ¬ x.covers port 2048 ∨ ¬ dmOk x es then c.malformed k
        else
          let d : DBind := ⟨k.ctx, k.f 205 190, k.f 121 76, es.length, port, []⟩
          ({ (c.dropDemand b) with hom.dbinds := Tab.put none c.hom.dbinds b (some d) }).endWork q i .ok 0)

/-- DEMAND_UNBIND. -/
def Chip.demandUnbind (c : Chip) (q : Nat) (i : BitVec 32) : Chip :=
  match c.tmCmd q i 9 with
  | none => c
  | some (k, _) =>
    if k.f 511 206 ≠ 0 then c.malformed k
    else
      match c.dbindOf k.ctx (k.f 205 190) with
      | none => c.endWork q i .ok 0
      | some b => ({ (c.dropDemand b) with hom.dbinds := Tab.put none c.hom.dbinds b none }).endWork q i .ok 0

/-! ## Scrub and controllers (R319, R320) -/

/-- The tile that data offset o of controller s lies in. -/
def lpTile (s o : Nat) : Nat := o / 32768 * 16 + s

/-- Placed faults in ECC group g of controller s. -/
def Chip.groupFaults (c : Chip) (s g : Nat) : List Placed :=
  c.flt.placed.filter (fun p => decide (p.page = pgSHU s) && decide (p.target = 0) && decide (lpOff p.at_ / 192 = g))

/-- The scrub meets a word error: a corrected word is written back, and SCRUB_CE counts it (R319, R328). -/
def Chip.scrubFound (c : Chip) (s : Nat) (p : Placed) : Chip :=
  let d := c.lpFound 0 p
  if p.kind = 0 ∨ p.kind = 3 then { (d.count (pgSHU s) 17 1) with flt.placed := d.flt.placed.erase p } else d

/-- SCRUB (R319): the next ECC group is read; a group in which a word is corrected is written back, an uncorrectable word acts as on
any read. -/
def Chip.scrub (c : Chip) (s : Nat) : Chip :=
  let page := pgSHU s
  if c.fld page 0x008 0 0 = 0 ∨ (c.shuOf s).lp ≥ 2 then c
  else
    let g := c.reg page 0x218
    let fs := c.groupFaults s g
    let c := (c.setReg page 0x218 ((g + 1) % 2 ^ 28)).count page 16 1
    let c := ((c.lpWake s (g * 192) 192).lpLink s 0).count page 4 192
    let c := fs.foldl (fun c p => c.scrubFound s p) c
    if fs.any (fun p => decide (p.kind = 0) || decide (p.kind = 3)) then (c.lpLink s 0).count page 5 192 else c

/-- LP_REFRESH (R320): a per-bank refresh of an operating package keeps every byte; REFRESH_CYCLES gains its cycles, whose number
the spec does not give (a free value). -/
def Chip.lpRefresh (c : Chip) (s : Nat) : Chip :=
  if (c.shuOf s).trained ∧ (c.shuOf s).lp < 2 then
    let (n, c) := c.freeVal 16
    c.count (pgSHU s) 20 n
  else c

/-- LP_RETRAIN (R320): the WCK2DQ timing of every channel is trained again; the package operates afterwards. -/
def Chip.lpRetrain (c : Chip) (s : Nat) : Chip :=
  if (c.shuOf s).trained ∧ (c.shuOf s).lp < 2 then c.setShu s { c.shuOf s with lp := 0, pd := 0 } else c

/-- LP_POWER_DOWN (R320): a channel of an operating package with no move in flight powers down. -/
def Chip.lpPowerDown (c : Chip) (s ch : Nat) : Chip :=
  let x := c.shuOf s
  if x.trained ∧ x.lp = 0 ∧ x.flight = [] then c.setShu s { x with pd := x.pd ||| BitVec.ofNat 8 (2 ^ ch) } else c

/-- LP_DEEP_SLEEP (R511): 1 s of self-refresh in STANDBY. -/
def Chip.lpDeepSleep (c : Chip) (s : Nat) : Chip :=
  let x := c.shuOf s
  if c.pwr.st = .standby ∧ x.lp = 2 ∧ c.time.ns ≥ c.pwr.standbyAt + 1000000000 then c.setShu s { x with lp := 3 } else c

/-- MOVE_CLAIM (R304). -/
def Chip.claimRow (c : Chip) (s : Nat) : Chip :=
  (c.moveClaim s).launchesGo

end Sys2Proof.Machine
end

