-- ==== Sys2Proof/Machine/Pools.lean ====
section
/-!
DEFINITION. Buffer pools (R329 to R338), mailboxes (R339 to R348), MAILBOX commands (R349, R350) and doorbells (R351).
-/

namespace Sys2Proof.Machine

/-! ## Pools and the cell table (R329 to R331) -/

/-- BPM_CTRL.ENABLE of a cluster. -/
def Chip.bpmOn (c : Chip) (k : Nat) : Bool := c.fld (pgBPM k) 0x008 0 0 = 1
/-- BPM_TABLE fields. -/
def Chip.cellTile (c : Chip) (k : Nat) : Nat := c.fld (pgBPM k) 0x200 63 39
def Chip.cells (c : Chip) (k : Nat) : Nat := c.fld (pgBPM k) 0x200 18 0
/-- BPM_POOLp_CFG. -/
def Chip.poolCfg (c : Chip) (k p : Nat) : Nat := c.reg (pgBPM k) (0x240 + 16 * p)
def Chip.poolOn (c : Chip) (k p : Nat) : Bool := bit (c.poolCfg k p) 0
def poolTile (v : Nat) : Nat := bits v 63 39
def poolTiles (v : Nat) : Nat := bits v 38 28
def poolFirst (v : Nat) : Nat := bits v 27 10
def poolCtx (v : Nat) : Nat := bits v 9 2

/-- Address of a cell's entry. -/
def Chip.cellAddr (c : Chip) (k cell : Nat) : Nat := c.cellTile k * 32768 + 16 * cell

/-- A cell's entry (R331). -/
def Chip.cell (c : Chip) (k cell : Nat) : Nat := ofBytes (c.bytesAt (c.cellAddr k cell) 16)

/-- The BPM writes a cell's entry; a slot that holds it becomes DIRTY (R294). -/
def Chip.setCell (c : Chip) (k cell v : Nat) : Chip :=
  ((c.homeWrite 0 (c.cellAddr k cell) 16).putBytes (c.cellAddr k cell) (toBytes 16 v)).injW (pgBPM k) 0

/-- An entry that disables its pool when it is read (R331). -/
def Chip.cellBad (c : Chip) (k p cell : Nat) : Bool :=
  let v := c.cell k cell
  decide (bits v 72 65 = 0) || decide (bits v 54 50 ≠ p) || decide (bits v 127 110 ≥ c.cells k) || decide (bits v 109 92 ≥ c.cells k) ||
    decide ((c.tileOf ((c.cellAddr k cell) / 32768)).st = .poisoned)

/-- The BPM reads entries one after the other until a bad one (R331): the answer is whether one is bad. -/
def Chip.readCells (c : Chip) (k p : Nat) : List Nat → Chip × Bool
  | [] => (c, false)
  | x :: xs =>
    let (c, ue) := c.homeRead 0 (c.cellAddr k x) 16
    if ue || c.cellBad k p x then (c, true) else c.readCells k p xs

/-- A bad entry was read: the pool is disabled, TABLE is set (R331). -/
def Chip.poolBreak (c : Chip) (k p i0 i1 : Nat) : Chip :=
  let c := c.setPool (32 * k + p) { c.poolOf (32 * k + p) with broken := true }
  c.err (pgBPM k) 1 i0 i1

/-- POOL_CFG is set; R355 and R335 give its ERR_INFO no content (free values, log 7). -/
def Chip.poolCfgErr (c : Chip) (k : Nat) : Chip :=
  let (a, c) := c.freeVal 32
  let (b, c) := c.freeVal 32
  c.err (pgBPM k) 8 a b

/-- BPM_CTRL (R329, R354). -/
def Chip.bpmCtrl (c : Chip) (k v : Nat) : Chip :=
  let page := pgBPM k
  if bit v 0 then
    if c.bpmOn k then c
    else if c.pinnedRange (c.cellTile k * 32768) (16 * c.cells k) then c.setFld page 0x008 0 0 1
    else c.poolCfgErr k
  else if c.bpmOn k ∧ (List.range 32).any (fun p => c.poolOn k p) then c.poolCfgErr k
  else c.setFld page 0x008 0 0 0

/-- BPM_TABLE (R354). -/
def Chip.bpmTable (c : Chip) (k v : Nat) : Chip :=
  let new := bits v 63 39 <<< 39 + bits v 18 0
  let old := c.reg (pgBPM k) 0x200
  if c.bpmOn k ∧ new ≠ old then c.badWrite (pgBPM k)
  else if bits v 18 0 > 262144 then (c.badWrite (pgBPM k)).setReg (pgBPM k) 0x200 (bits v 63 39 <<< 39 + bits old 18 0)
  else c.setReg (pgBPM k) 0x200 new

/-- The checks of a pool that is to be enabled (R330). -/
def Chip.poolOk (c : Chip) (k p v : Nat) : Bool :=
  let n := 128 * poolTiles v
  let f := poolFirst v
  c.bpmOn k &&
    (match c.ctxOf (poolCtx v) with | some x => x.hasTiles (poolTile v) (poolTiles v) | none => false) &&
    c.pinnedRange (poolTile v * 32768) (poolTiles v * 32768) && decide (f + n ≤ c.cells k) &&
    (List.range 32).all (fun r =>
      let w := c.poolCfg k r
      decide (r = p) || !(c.poolOn k r) || decide (f + n ≤ poolFirst w) ||
        decide (poolFirst w + 128 * poolTiles w ≤ f) || decide (n = 0) || decide (poolTiles w = 0))

/-- The free list of a pool: cells i on, in ascending order, GEN 1 (R330, R331). -/
def Chip.chain (c : Chip) (k p i last : Nat) : Nat → Chip
  | 0 => c
  | n + 1 => (c.setCell k i ((min (i + 1) last) <<< 110 + 1 <<< 65 + p <<< 50)).chain k p (i + 1) last n

/-- BPM_POOLp_CFG (R330, R354). -/
def Chip.bpmPoolCfg (c : Chip) (k p v : Nat) : Chip :=
  let page := pgBPM k
  let off := 0x240 + 16 * p
  let v := v - bits v 1 1 <<< 1
  let old := c.poolCfg k p
  if c.poolOn k p then
    let c := if v / 2 ≠ old / 2 then c.badWrite page else c
    if bit v 0 then c
    else if (c.poolOf (32 * k + p)).buffers > 0 then c.poolCfgErr k
    else (c.setReg page off (old - 1)).setPool (32 * k + p) default
  else if ¬ bit v 0 then c.setReg page off v
  else if ¬ c.poolOk k p v then (c.setReg page off (v - 1)).poolCfgErr k
  else
    let n := 128 * poolTiles v
    let c := (c.setReg page off v).setPool (32 * k + p) ⟨false, false, poolFirst v, n, n, 0⟩
    c.chain k p (poolFirst v) (poolFirst v + n - 1) n

/-- POOL_BUILD_DONE (R330). -/
def Chip.poolBuildDone (c : Chip) (k p : Nat) : Chip :=
  if c.poolOn k p then c.setPool (32 * k + p) { c.poolOf (32 * k + p) with built := true } else c

/-! ## Operations (R334, R335) -/

/-- A failed operation: its counter, its error, ABORTED. -/
def Chip.bpmFail (c : Chip) (k ctr bit_ i0 i1 : Nat) : Status × Nat × Chip := (.aborted, 0, (c.count (pgBPM k) ctr 1).err (pgBPM k) bit_ i0 i1)

/-- The n cells that leave the free list from `cell` on; none past a bad entry. -/
def Chip.walkCells (c : Chip) (k p : Nat) : Nat → Nat → List Nat
  | 0, _ => []
  | n + 1, cell => if c.cellBad k p cell then [cell] else cell :: c.walkCells k p n (bits (c.cell k cell) 127 110)

/-- alloc (R334): status, handle. -/
def Chip.bufAlloc (c : Chip) (k p bytes ctx tag : Nat) : Status × Nat × Chip :=
  let n := (bytes + 255) / 256
  let x := c.poolOf (32 * k + p)
  let v := c.poolCfg k p
  if c.clFenced k then (.fenced, 0, c)
  else if n = 0 then (.ok, 0, c)
  else if c.poolOn k p ∧ x.broken then (.aborted, 0, c.err (pgBPM k) 1 tag p)
  else if c.poolOn k p ∧ poolCtx v ≠ ctx then
    let c := c.err (pgBPM k) 9 tag p
    c.bpmFail k 6 2 tag p
  else if ¬ c.poolOn k p ∨ n > x.free then c.bpmFail k 6 2 tag p
  else
    let (c, ue) := c.injR (pgBPM k) 0 tag p
    let cells := c.walkCells k p n x.head
    let (c, bad) := c.readCells k p cells
    if ue then (.fenced, 0, c)
    else if bad then (.aborted, 0, c.poolBreak k p tag p)
    else
      let last := cells.getLast?.getD x.head
      let next := bits (c.cell k last) 127 110
      let gen := bits (c.cell k x.head) 72 65
      let c := c.setCell k last (setBits (c.cell k last) 127 110 last)
      let w := c.cell k x.head
      let c := c.setCell k x.head ((bits w 127 110) <<< 110 + last <<< 92 + n <<< 73 + gen <<< 65 + 1 <<< 57 + 1 <<< 56 + 1 <<< 55 + p <<< 50)
      let c := c.setPool (32 * k + p) { x with head := next, free := x.free - n, minFree := min x.minFree (x.free - n), buffers := x.buffers + 1 }
      (.ok, k <<< 26 + x.head <<< 8 + gen, (c.count (pgBPM k) 0 1).count (pgBPM k) 1 n)

/-- Whether allocations from a pool wait for its build (R330). -/
def Chip.poolBuilding (c : Chip) (k p : Nat) : Bool := c.poolOn k p && !(c.poolOf (32 * k + p)).built && !(c.clFenced k)

/-- The enabled pool that a cell lies in. -/
def Chip.poolOfCell (c : Chip) (k cell : Nat) : Option Nat :=
  (List.range 32).find? (fun p => c.poolOn k p && decide (poolFirst (c.poolCfg k p) ≤ cell) &&
    decide (cell < poolFirst (c.poolCfg k p) + 128 * poolTiles (c.poolCfg k p)))

/-- check (R334) and the fabric's job check (R335): the pool of a live handle, or the failure. -/
def Chip.handleCheck (c : Chip) (hd : Nat) (job : Option Nat) (i0 : Nat) : Nat ⊕ (Status × Nat × Chip) :=
  let k := bits hd 31 26
  let h := bits hd 25 8
  match (if h ≥ c.cells k then none else c.poolOfCell k h) with
  | none => .inr (c.bpmFail k 8 4 i0 hd)
  | some p =>
    let other : Bool := match job with
      | none => false
      | some j => !(decide (((c.ctxOf (poolCtx (c.poolCfg k p))).map (fun x => x.job)) = some j))
    if (c.poolOf (32 * k + p)).broken then .inr (.aborted, 0, c.err (pgBPM k) 1 i0 hd)
    else if other then .inr (.aborted, 0, c.err (pgBPM k) 9 i0 hd)
    else if (c.readCells k p [h]).2 then .inr (.aborted, 0, (c.readCells k p [h]).1.poolBreak k p i0 hd)
    else
      let v := c.cell k h
      if ¬ bit v 55 ∨ ¬ bit v 56 then .inr (c.bpmFail k 7 3 i0 hd)
      else if bits v 72 65 ≠ hd % 256 then .inr (c.bpmFail k 8 4 i0 hd)
      else .inl p

/-- retain (R334). -/
def Chip.bufRetain (c : Chip) (hd : Nat) (job : Option Nat) (i0 : Nat) : Status × Chip :=
  let k := bits hd 31 26
  let h := bits hd 25 8
  if hd % 256 = 0 then (.ok, c)
  else if c.clFenced k then (.fenced, c)
  else
    let (c, ue) := c.injR (pgBPM k) 0 i0 hd
    if ue then (.fenced, c)
    else match c.handleCheck hd job i0 with
    | .inr (st, _, c) => (st, c)
    | .inl p =>
      let c := (c.readCells k p [h]).1
      let v := c.cell k h
      if bits v 64 57 = 255 then let (st, _, c) := c.bpmFail k 9 5 i0 hd; (st, c)
      else (.ok, (c.setCell k h (setBits v 64 57 (bits v 64 57 + 1))).count (pgBPM k) 2 1)

/-- release (R334): at zero the whole chain goes to the head of the free list. -/
def Chip.bufRelease (c : Chip) (hd : Nat) (job : Option Nat) (i0 : Nat) : Status × Chip :=
  let k := bits hd 31 26
  let h := bits hd 25 8
  if hd % 256 = 0 then (.ok, c)
  else if c.clFenced k then (.fenced, c)
  else
    let (c, ue) := c.injR (pgBPM k) 0 i0 hd
    if ue then (.fenced, c)
    else match c.handleCheck hd job i0 with
    | .inr (st, _, c) => (st, c)
    | .inl p =>
      let c := (c.readCells k p [h]).1
      let v := c.cell k h
      let last := bits v 109 92
      let (c, bad) := if bits v 64 57 = 1 then c.readCells k p [last] else (c, false)
      if bad then (.aborted, c.poolBreak k p i0 hd)
      else if bits v 64 57 ≠ 1 then (.ok, (c.setCell k h (setBits v 64 57 (bits v 64 57 - 1))).count (pgBPM k) 3 1)
      else
        let c := c.count (pgBPM k) 3 1
        let x := c.poolOf (32 * k + p)
        let gen := if bits v 72 65 = 255 then 1 else bits v 72 65 + 1
        let c := c.setCell k last (setBits (c.cell k last) 127 110 x.head)
        let w := c.cell k h
        let c := c.setCell k h (setBits (setBits (setBits (setBits w 72 65 gen) 64 57 0) 56 56 0) 55 55 0)
        let n := bits v 91 73
        let c := c.setPool (32 * k + p) { x with head := h, free := x.free + n, buffers := x.buffers - 1 }
        (.ok, (c.count (pgBPM k) 4 1).count (pgBPM k) 5 n)

/-! ## Bytes of a buffer (R333) -/

/-- Address of a cell's bytes. -/
def Chip.cellData (c : Chip) (k cell : Nat) : Nat :=
  match c.poolOfCell k cell with
  | some p => let v := c.poolCfg k p
              (poolTile v + (cell - poolFirst v) / 128) * 32768 + 256 * ((cell - poolFirst v) % 128)
  | none => 0

/-- The cells of a buffer in chain order; fuel counts cells. -/
def Chip.chainOf (c : Chip) (k cell : Nat) : Nat → List Nat
  | 0 => []
  | n + 1 => let next := bits (c.cell k cell) 127 110
             if next = cell then [cell] else cell :: c.chainOf k next n

/-- The cells of a handle's buffer. -/
def Chip.bufCells (c : Chip) (hd : Nat) : List Nat :=
  if hd % 256 = 0 then [] else c.chainOf (bits hd 31 26) (bits hd 25 8) (bits (c.cell (bits hd 31 26) (bits hd 25 8)) 91 73)

/-- A unit that follows NEXT reads the entries of a buffer's chain: a bad one disables the pool (R331, R333). The answer is whether
one is bad. -/
def Chip.chainRead (c : Chip) (hd tag : Nat) : Chip × Bool :=
  let k := bits hd 31 26
  match c.poolOfCell k (bits hd 25 8) with
  | none => (c, false)
  | some p =>
    let (c, bad) := c.readCells k p (c.bufCells hd)
    if bad then (c.poolBreak k p tag hd, true) else (c, false)

/-- Write bytes into a buffer from its start, 256 B a cell; the result of the first cell that refuses them. -/
def Chip.bufStore (c : Chip) (k tag : Nat) : List Nat → List (BitVec 8) → AccRes × Chip
  | [], _ => (.ok, c)
  | _, [] => (.ok, c)
  | x :: xs, bs =>
    let (r, c) := c.mwrite tag (c.cellData k x) (bs.take 256)
    if r = .ok then c.bufStore k tag xs (bs.drop 256) else (r, c)

/-- Fill a handle's buffer. -/
def Chip.bufWrite (c : Chip) (hd tag : Nat) (bs : List (BitVec 8)) : AccRes × Chip := c.bufStore (bits hd 31 26) tag (c.bufCells hd) bs

/-- Whether every cell of a buffer can be read now. -/
def Chip.bufRes (c : Chip) (hd : Nat) : AccRes :=
  let rs := (c.bufCells hd).map (fun x => c.accRes (c.cellData (bits hd 31 26) x) 256)
  if rs.contains .poisoned then .poisoned else if rs.contains .held then .held else .ok

/-- Cells read one after the other. -/
def Chip.cellsRead (c : Chip) (k tag : Nat) : List Nat → AccRes × List (BitVec 8) × Chip
  | [] => (.ok, [], c)
  | x :: xs =>
    match c.mread tag (c.cellData k x) 256 with
    | (.ok, bs, c) =>
      let (r, rest, c) := c.cellsRead k tag xs
      (r, bs ++ rest, c)
    | r => r

/-- A unit reads a buffer for the command of a tag (R294, R331, R333): none while a tile of it is MOVING, ABORTED at a bad entry. -/
def Chip.bufRead (c : Chip) (hd tag : Nat) : Option Status × List (BitVec 8) × Chip :=
  if c.bufRes hd = .held then (none, [], c)
  else
    let (c, bad) := c.chainRead hd tag
    if bad then (some .aborted, [], c)
    else match c.cellsRead (bits hd 31 26) tag (c.bufCells hd) with
      | (.ok, bs, c) => (some .ok, bs, c)
      | (_, _, c) => (some .poisoned, [], c)

/-! ## Mailboxes (R339 to R348) -/

/-- Cluster of a mailbox: core mailboxes 4n + m, cluster mailboxes from 2,048 on. -/
def mbxCluster (b : Nat) : Nat := if b < 2048 then b / 32 else (b - 2048) / 16
/-- Offset of a mailbox in the region (R339). -/
def mbxOff (b : Nat) : Nat := if b < 2048 then 32 * b else 0x10000 + 32 * (b - 2048)
/-- Its MBX_CFG register (R352). -/
def mbxCfgOff (b : Nat) : Nat := 0x200 + 4 * (if b < 2048 then 16 + b % 32 else (b - 2048) % 16)
/-- Its configuration. -/
def Chip.mbxCfg (c : Chip) (b : Nat) : Nat := c.reg (pgMBX (mbxCluster b)) (mbxCfgOff b)

/-- SENDER (R343). -/
def senderOf (node cluster core slot kind : Nat) : Nat := node <<< 14 + cluster <<< 8 + core <<< 5 + slot <<< 1 + kind

/-- SENDER and JOB of a command's post (R343). -/
def Chip.cmdSender (c : Chip) (q ctx : Nat) : Nat × Nat :=
  match c.ctxOf ctx with
  | some x => (senderOf c.node (bits q 8 3) (bits q 2 0) (x.slot.getD 0) 0, x.job)
  | none => (senderOf c.node (bits q 8 3) (bits q 2 0) 0 0, 0)

/-- SENDER and JOB of a poster (R343). -/
def Chip.posterId (c : Chip) : Poster → Nat × Nat
  | .host => (senderOf c.node 0 0 0 1, 0)
  | .cpx n => (senderOf c.node 0 (n.val + 1) 0 1, 0)
  | .curator => (senderOf c.node 0 0 0 1, 0)
  | .frontEnd q i => c.cmdSender q.val (((c.cmd? q.val i).map (fun k => k.ctx)).getD 0)

/-- Mailbox storage is read: an uncorrectable word fences the cluster (R352, R522); the answer is whether one was met. -/
def Chip.mbxMeet (c : Chip) (b : Nat) : Chip × Bool := c.injR (pgMBX (mbxCluster b)) 0 (mbxOff b) 0

/-- A post to mailbox b (R344 to R346); `fabric` marks a post that came as a packet. -/
def Chip.mbxPost (c : Chip) (b ptr tag sender job : Nat) (fabric : Bool) : Status × Chip :=
  let k := mbxCluster b
  let page := pgMBX k
  let cfg := c.mbxCfg b
  if c.clFenced k then (.fenced, c)
  else
    let (c, ue) := c.mbxMeet b
    let x := c.mbxOf b
    let kind0 := decide (sender % 2 = 0)
    let mine := ((c.ctxOf (bits cfg 23 16)).map (fun y => y.job))
    if ue then (.fenced, c)
    else if bit cfg 29 ∧ kind0 ∧ mine ≠ some job then (.aborted, (c.count page 12 1).err page 4 (mbxOff b) sender)
    else if b < 2048 ∧ x.full then (.aborted, (c.count page 4 1).err page 2 (mbxOff b) sender)
    else
      let lost := decide (2048 ≤ b) && x.full
      let c := (c.setMbx b { x with ptr := BitVec.ofNat 64 ptr, tag := tag % 65536, job := job, sender := BitVec.ofNat 32 sender,
                                    seq := x.seq + 1, full := true, collision := x.collision || lost }).injW page 0
      let c := c.count page 0 1
      let c := if fabric then c.count page 1 1 else c
      let c := if lost then (c.count page 5 1).err page 3 (mbxOff b) sender else c
      let c := if bit cfg 31 then
          let n := cfg % 65536
          if (match c.ctxOf (bits cfg 23 16) with | some y => y.hasCtrs n 1 | none => false) then c.ctrAdd n 1
          else (c.count (pgCNT (n / 1024)) 5 1).err (pgCNT (n / 1024)) 2 n (bits sender 31 14)
        else c
      let c := if bit cfg 30 then (c.count page 10 1).raise 267 else c
      (.ok, c)

/-- Lock-holder number of a requester (R344). -/
def lockNo : Poster → Nat
  | .host => 1
  | .cpx n => n.val + 2
  | .frontEnd _ _ => 6
  | .curator => 0

/-- MBX_LOCK read (R344): the answer is OWNER as read. -/
def Chip.mbxLock (c : Chip) (who b : Nat) : Nat × Chip :=
  let page := pgMBX (mbxCluster b)
  if c.clFenced (mbxCluster b) then (0, c)
  else if 2048 ≤ b then (0, c.badAddr page (mbxOff b + 0x18) false)
  else
    let (c, _) := c.mbxMeet b
    let x := c.mbxOf b
    if x.owner = 0 then (0, (c.setMbx b { x with owner := who }).count page 6 1) else (x.owner, c.count page 7 1)

/-- MBX_CTRL TAKE (R344, R345). -/
def Chip.mbxTake (c : Chip) (who b seq : Nat) : Chip :=
  let page := pgMBX (mbxCluster b)
  let fenced := c.clFenced (mbxCluster b)
  let (c, ue) := if fenced then (c, true) else c.mbxMeet b
  let x := c.mbxOf b
  if ue then c
  else if 2048 ≤ b then
    if x.seq.toNat = seq then (c.setMbx b { x with full := false, collision := false, taken := x.seq }).count page 2 1
    else c.count page 3 1
  else if x.owner = who ∧ who ≠ 0 then (c.setMbx b { x with full := false, taken := x.seq, owner := 0 }).count page 2 1
  else (c.count page 9 1).err page 5 (mbxOff b) 0

/-- MBX_CTRL RELEASE (R344); a reserved encoding in a cluster mailbox. -/
def Chip.mbxRelease (c : Chip) (who b : Nat) : Chip :=
  let page := pgMBX (mbxCluster b)
  let x := c.mbxOf b
  if c.clFenced (mbxCluster b) then c
  else if 2048 ≤ b then c.err page 7 (mbxOff b) 0
  else if x.owner = who ∧ who ≠ 0 then c.setMbx b { x with owner := 0 }
  else (c.count page 9 1).err page 5 (mbxOff b) 0

/-- MBX_CTRL BREAK (R344); a reserved encoding in a cluster mailbox. -/
def Chip.mbxBreak (c : Chip) (b : Nat) : Chip :=
  let page := pgMBX (mbxCluster b)
  if c.clFenced (mbxCluster b) then c
  else if 2048 ≤ b then c.err page 7 (mbxOff b) 0
  else (c.setMbx b { c.mbxOf b with owner := 0 }).count page 8 1

/-- MBX_CFGi (R352). -/
def Chip.mbxCfgWrite (c : Chip) (k i v : Nat) : Chip :=
  let v := v - bits v 28 24 <<< 24
  let ok := !(bit v 31) || (match c.ctxOf (bits v 23 16) with | some x => x.hasCtrs (v % 65536) 1 | none => false)
  if ok then c.setReg (pgMBX k) (0x200 + 4 * i) v else c.err (pgMBX k) 7 (mbxOff (if i < 16 then 2048 + 16 * k + i else 32 * k + (i - 16))) 0

/-- The 32 bytes of a mailbox as read (R342). -/
def Mbx.words (x : Mbx) (core : Bool) : List (BitVec 8) :=
  toBytes 8 x.ptr.toNat ++ toBytes 8 (x.tag <<< 48 + x.job <<< 32 + x.sender.toNat) ++
    toBytes 8 (x.seq.toNat <<< 48 + x.taken.toNat <<< 32 + (if core then x.owner <<< 5 else 0) + (b2n x.collision) <<< 1 + b2n x.full) ++
    toBytes 4 (if core then x.owner else 0) ++ toBytes 4 0

/-! ## MAILBOX commands (R349, R350) -/

/-- Fields of the operand block. -/
def Cmd.mNode (k : Cmd) : Nat := k.f 431 414
def Cmd.mAddr (k : Cmd) : Nat := k.f 401 356
/-- The mailbox named. -/
def Cmd.mBox (k : Cmd) : Nat := if k.f 413 413 = 1 then 2048 + k.f 412 402 else k.f 412 402

/-- The block holds no reserved encoding or non-zero reserved field. -/
def Cmd.mOk (k : Cmd) : Bool := decide (k.f 285 8 = 0) && (decide (k.f 413 413 = 0) || decide (k.f 412 402 ≤ 1023)) && decide (k.f 323 297 ≤ 67108864)

/-- A unit's packet is in flight for a command. -/
def Chip.unitTxn (c : Chip) (k : Cmd) (cls addr : Nat) (data : List (BitVec 8)) : Chip :=
  let job := ((c.ctxOf k.ctx).map (fun y => y.job)).getD 0
  let c := c.setCmd { k with phase := .running }
  c.txn (.unit k.queue k.index) (mkHdr cls k.mNode addr job data.length 0 none true) data k.lc none

/-- POST. -/
def Chip.post (c : Chip) (q : Nat) (i : BitVec 32) : Chip :=
  match c.issuedCmd q i 7 0 with
  | none => c
  | some k =>
    let (s, j) := c.cmdSender q k.ctx
    if ¬ k.mOk then c.malformed k
    else if k.mNode = c.node then
      let (st, c) := c.mbxPost k.mBox (k.f 511 448) (k.f 447 432) s j false
      c.endWork q i st s
    else
      c.unitTxn k 2 (0x140000000000 + mbxOff k.mBox) (toBytes 16 (s <<< 80 + k.f 447 432 <<< 64 + k.f 511 448))

/-- TAKE. -/
def Chip.take (c : Chip) (q : Nat) (i : BitVec 32) : Chip :=
  match c.issuedCmd q i 7 1 with
  | none => c
  | some k =>
    let a := k.mAddr
    let b := k.mBox
    let page := pgMBX (mbxCluster b)
    let inWin : Bool := match c.ctxOf k.ctx with | some x => x.covers a 32 | none => false
    if ¬ k.mOk ∨ k.mNode ≠ c.node ∨ a % 32 ≠ 0 ∨ ¬ inWin then c.malformed k
    else if c.clFenced (mbxCluster b) then c.endWork q i .fenced 0
    else
      let (c, ue) := c.mbxMeet b
      let x := c.mbxOf b
      if ue then c.endWork q i .fenced 0
      else if b < 2048 ∧ x.owner ≠ 0 ∧ x.owner ≠ 6 then (c.count page 7 1).endWork q i .aborted 0
      else
        let (r, c) := c.mwrite k.tag.toNat a (x.words (decide (b < 2048)))
        match r with
        | .held => c
        | .poisoned => c.endWork q i .poisoned (a / 32768)
        | .ok =>
          let c := if b < 2048 ∧ x.owner = 0 then c.count page 6 1 else c
          let c := if x.full then
              (c.setMbx b { x with full := false, taken := x.seq, owner := 0, collision := if b < 2048 then x.collision else false }).count page 2 1
            else c.setMbx b { x with owner := 0 }
          c.endWork q i .ok 0

/-- ALLOC. -/
def Chip.alloc (c : Chip) (q : Nat) (i : BitVec 32) : Chip :=
  match c.issuedCmd q i 7 2 with
  | none => c
  | some k =>
    let a := k.mAddr
    let inWin : Bool := match c.ctxOf k.ctx with | some x => x.covers a 4 | none => false
    if ¬ k.mOk ∨ a % 4 ≠ 0 ∨ ¬ inWin then c.malformed k
    else if c.poolBuilding (k.f 296 291) (k.f 290 286) ∨ c.accRes a 4 = .held then c
    else if c.accRes a 4 = .poisoned then (c.poisonRefuse k.tag.toNat a 4).endWork q i .poisoned (a / 32768)
    else
      let (st, h, c) := c.bufAlloc (k.f 296 291) (k.f 290 286) (k.f 323 297) k.ctx k.tag.toNat
      if st ≠ .ok then c.endWork q i st (k.f 290 286)
      else
        let (r, c) := c.mwrite k.tag.toNat a (toBytes 4 h)
        c.endWork q i (if r = .ok then .ok else .poisoned) (a / 32768)

/-- RETAIN. -/
def Chip.retain (c : Chip) (q : Nat) (i : BitVec 32) : Chip :=
  match c.issuedCmd q i 7 3 with
  | none => c
  | some k =>
    if ¬ k.mOk then c.malformed k
    else if k.mNode = c.node then
      let (st, c) := c.bufRetain (k.f 355 324) none k.tag.toNat
      c.endWork q i st (k.f 355 324)
    else c.unitTxn k 0 0x140000018000 (toBytes 4 (k.f 355 324))

/-- RELEASE. -/
def Chip.release (c : Chip) (q : Nat) (i : BitVec 32) : Chip :=
  match c.issuedCmd q i 7 4 with
  | none => c
  | some k =>
    if ¬ k.mOk then c.malformed k
    else if k.mNode = c.node then
      let (st, c) := c.bufRelease (k.f 355 324) none k.tag.toNat
      c.endWork q i st (k.f 355 324)
    else c.unitTxn k 0 0x140000018004 (toBytes 4 (k.f 355 324))

end Sys2Proof.Machine
end

