-- ==== Sys2Proof/Machine/Route.lean ====
section
/-!
DEFINITION. The routing engines and the quota store (chapter 02): DOMAIN_LOAD, ROUTE_BIAS and ROUTE commands, scoring and
selection, the quota relay, sorting, lists and records, demand notices.
-/

namespace Sys2Proof.Machine

/-! ## Slots and domains (R31 to R34) -/

def slotInit : RSlot := ⟨none, [], []⟩
def Chip.rslot (c : Chip) (s : Nat) : RSlot := Tab.get slotInit c.rd.slots s
def Chip.setRslot (c : Chip) (s : Nat) (x : RSlot) : Chip := { c with rd.slots := Tab.put slotInit c.rd.slots s x }

/-- The slot that holds the domain of a context and tag (R33). -/
def Chip.findDomain (c : Chip) (ctx tag : Nat) : Option (Nat × Domain) :=
  (List.range 4).findSome? (fun s => match (c.rslot s).dom with
    | some d => if d.ctx = ctx ∧ d.tag = tag then some (s, d) else none
    | none => none)

/-- Number of experts E. -/
def Domain.e (d : Domain) : Nat := d.experts.length

/-- An expert's entry. -/
def Domain.ex (d : Domain) (e : Nat) : Expert := (d.experts[e]?).getD default

/-- Insert an element before the first one that it precedes: elements equal in order keep theirs. -/
def insBy {α : Type} (before : α → α → Bool) (x : α) : List α → List α
  | [] => [x]
  | y :: ys => if before x y then x :: y :: ys else y :: insBy before x ys

/-- A list in order, stable. -/
def sortBy {α : Type} (before : α → α → Bool) (xs : List α) : List α := xs.foldl (fun acc x => insBy before x acc) []

/-- The first n of a list in order, stable. -/
def topBy {α : Type} (before : α → α → Bool) (n : Nat) (xs : List α) : List α :=
  xs.foldl (fun acc x => (insBy before x acc).take n) []

/-- The destination order that a DOMAIN_LOAD computes: valid experts by NODE, then by expert ID (R38). -/
def destOrder (es : List Expert) : List Nat :=
  let ex := fun (e : Nat) => (es[e]?).getD default
  sortBy (fun a b => decide ((ex a).node < (ex b).node)) ((List.range es.length).filter (fun e => (ex e).valid))

/-- Fields of a ROUTE command's operand block (R42). -/
def RouteRun.f (r : RouteRun) (hi lo : Nat) : Nat := bits r.op.toNat hi lo

/-- A slot is in use by a running ROUTE, DISPATCH or RETURN (R40, R98). -/
def Chip.slotUsed (c : Chip) (s : Nat) : Bool :=
  c.rd.routes.any (fun r => decide (r.slot = s)) || c.rd.drovers.any (fun r => decide (r.slot = s))

/-- The command that a unit's row names: issued, or held by its unit (R75, R90, R112). -/
def Chip.unitCmd (c : Chip) (q : Nat) (i : BitVec 32) (type op : Nat) : Option Cmd :=
  match c.cmd? q i with
  | some k => if k.type = type ∧ k.f 7 0 = op ∧ (k.phase = .issued ∨ k.phase = .held) then some k else none
  | none => none

/-- A unit holds a command. -/
def Chip.holdCmd (c : Chip) (k : Cmd) : Chip := c.setCmd { k with phase := .held }

/-- A RQS check fails: LOAD_CHECK, MALFORMED (R37, R39). -/
def Chip.loadCheck (c : Chip) (k : Cmd) : Chip := (c.errFree2 pgRQS 1).endWork k.queue k.index .malformed 0

/-- No slot holds the domain: DOMAIN_MISS, MALFORMED (R33, R88; for ROUTE_BIAS and RETURN the model's choice, log 158). -/
def Chip.domainMiss (c : Chip) (k : Cmd) : Chip := (c.errFree2 pgRQS 0).endWork k.queue k.index .malformed 0

/-- A command fails at a POISONED tile. -/
def Chip.poisoned (c : Chip) (k : Cmd) (a : Nat) : Chip := c.endWork k.queue k.index .poisoned (a / 32768)

/-! ## DOMAIN_LOAD and ROUTE_BIAS (R35 to R40) -/

/-- An FP32 value is finite. -/
def ffinite (v : Nat) : Bool := decide (fabs v < 0x7F800000)

/-- An expert-table entry (R36). -/
def expertOf (w : Nat) : Expert := ⟨bits w 127 90, bits w 89 72, bits w 71 56, bits w 55 50, bit w 49⟩

/-- The entries of a table of n items of w bytes. -/
def items (w : Nat) : Nat → List (BitVec 8) → List Nat
  | 0, _ => []
  | n + 1, bs => ofBytes (bs.take w) :: items w n (bs.drop w)

/-- DOMAIN_LOAD. -/
def Chip.domainLoad (c : Chip) (q : Nat) (i : BitVec 32) : Chip :=
  match c.unitCmd q i 2 1, (c.cmd? q i).bind (fun k => c.ctxOf k.ctx) with
  | some k, some x =>
    let s := k.f 9 8
    let a := k.f 55 10
    if k.f 511 56 ≠ 0 ∨ ¬ x.covers a 64 then c.malformed k
    else if c.slotUsed s then c.holdCmd k
    else
      let (r, hb, c) := c.mread k.tag.toNat a 64
      match r with
      | .held => c.holdCmd k
      | .poisoned => c.poisoned k a
      | .ok =>
        let h := ofBytes hb
        let e := bits h 495 481
        let ta := bits h 437 392
        let ba := bits h 391 346
        let src := bits h 473 456
        if crc32 (hb.drop 4) ≠ bits h 31 0 then c.loadCheck k
        else if bits h 235 32 ≠ 0 ∨ bits h 480 474 > 64 ∨ ta % 16 ≠ 0 ∨ ba % 4 ≠ 0 then c.malformed k
        else if e > 16384 ∨ bits h 455 438 ≥ src then c.loadCheck k
        else if ¬ x.covers ta (16 * e) ∨ ¬ x.covers ba (4 * e) then c.malformed k
        else if c.accRes ta (16 * e) = .held ∨ c.accRes ba (4 * e) = .held then c.holdCmd k
        else
          let (r1, tb, c) := c.mread k.tag.toNat ta (16 * e)
          let (r2, bb, c) := c.mread k.tag.toNat ba (4 * e)
          if r1 = .poisoned then c.poisoned k ta
          else if r2 = .poisoned then c.poisoned k ba
          else
            let ws := items 16 e tb
            let es := ws.map expertOf
            let bs := items 4 e bb
            let g := bits h 480 474
            if crc32 tb ≠ bits h 299 268 ∨ crc32 bb ≠ bits h 267 236 then c.loadCheck k
            else if ws.any (fun w => decide (bits w 48 0 ≠ 0)) then c.malformed k
            else if bs.any (fun b => !(ffinite b)) ∨ es.any (fun y => if g = 0 then decide (y.group ≠ 0) else decide (y.group ≥ g)) ∨
                es.any (fun y => decide (src * y.quota > 16777216)) then c.loadCheck k
            else if (match c.findDomain k.ctx (bits h 511 496) with | some (t, _) => decide (t ≠ s) | none => false) then c.malformed k
            else
              let d : Domain := ⟨k.ctx, bits h 511 496, g, src, bits h 455 438, bits h 345 300, es, bs.map (BitVec.ofNat 32), destOrder es⟩
              ((c.setRslot s { c.rslot s with dom := some d }).count pgRQS 0 1).endWork q i .ok 0
  | _, _ => c

/-- ROUTE_BIAS. -/
def Chip.routeBias (c : Chip) (q : Nat) (i : BitVec 32) : Chip :=
  match c.unitCmd q i 2 2, (c.cmd? q i).bind (fun k => c.ctxOf k.ctx) with
  | some k, some x =>
    let a := k.f 69 24
    if k.f 511 102 ≠ 0 then c.malformed k
    else
      match c.findDomain k.ctx (k.f 23 8) with
      | none => c.domainMiss k
      | some (s, d) =>
        if a % 4 ≠ 0 ∨ ¬ x.covers a (4 * d.e) then c.malformed k
        else if c.slotUsed s then c.holdCmd k
        else
          let (r, bb, c) := c.mread k.tag.toNat a (4 * d.e)
          match r with
          | .held => c.holdCmd k
          | .poisoned => c.poisoned k a
          | .ok =>
            let bs := items 4 d.e bb
            if crc32 bb ≠ k.f 101 70 ∨ bs.any (fun b => !(ffinite b)) then c.loadCheck k
            else ((c.setRslot s { c.rslot s with dom := some { d with bias := bs.map (BitVec.ofNat 32) } }).count pgRQS 1 1).endWork q i .ok 0
  | _, _ => c

/-! ## The end of a ROUTE command -/

/-- A ROUTE stands no longer in the way: lanes of idle cores are discarded and held launches resolve (R207). -/
def Chip.routeGone (c : Chip) (r : RouteRun) (ok : Bool) : Chip :=
  let c := { c with rd.routes := c.rd.routes.filter (fun (y : RouteRun) => !(decide (y.queue = r.queue) && decide (y.index = r.index))),
                    rd.rtags := (r.ctx, r.tag, ok) :: c.rd.rtags.filter (fun e => !(decide (e.1 = r.ctx) && decide (e.2.1 = r.tag))) }
  r.clus.foldl (fun c (y : RClu) =>
    (List.range 8).foldl (fun c j =>
      if (c.coreOf (y.cluster * 8 + j)).st = 0 then c.laneDiscard (y.cluster * 8 + j) else c) c) c

/-- Replace a running DISPATCH or RETURN. -/
def Chip.setDrun (c : Chip) (d : DRun) : Chip :=
  { c with rd.drovers := c.rd.drovers.map (fun (y : DRun) => if y.queue = d.queue ∧ y.index = d.index then d else y) }

/-- A running DISPATCH or RETURN issues no more packets: it ends with its status, or with the one given when it has none yet, once
those issued have completed (R97, R244). -/
def Chip.overDrun (c : Chip) (d : DRun) (st : Status) (info : Nat) : Chip :=
  let c := c.setDrun { d with over_ := true }
  let c := c.modCmd d.queue d.index (fun k =>
    if k.status = .ok then { k with status := st, info := BitVec.ofNat 32 info, fin := true } else { k with fin := true })
  match c.cmd? d.queue d.index with
  | some k => if k.working ∧ k.left = 0 then (c.endWork d.queue d.index k.status k.info.toNat).drunsEnd else c
  | none => c

/-- A running DISPATCH or RETURN fails or is aborted: its Drovers stop, and a packet that still waits for a tag is not issued
(R97). -/
def Chip.stopDrun (c : Chip) (d : DRun) (st : Status) (info : Nat) : Chip :=
  let mine := fun (b : TagBy) => match b with | .drover _ q i _ => decide (q = d.queue) && decide (i = d.index) | _ => false
  let n := (c.fab.wait.filter (fun r => mine r.by_)).length
  let c := (c.dropWait mine).modCmd d.queue d.index (fun k => { k with left := k.left - n })
  let now := (c.rd.drovers.find? (fun (y : DRun) => decide (y.queue = d.queue) && decide (y.index = d.index))).getD d
  c.overDrun now st info

/-- Commands that follow a failed ROUTE fail with ABORTED; packets already issued stand (R90, R97). -/
def Chip.abortFollowers (c : Chip) (q : Nat) (i : BitVec 32) : Chip :=
  (c.rd.drovers.filter (fun (d : DRun) => decide (d.follow = some (q, i)))).foldl (fun c (d : DRun) => c.stopDrun d .aborted 0) c

/-- A demand notice of a cluster's RTE. -/
def isNotice (cl : Nat) (b : TagBy) : Bool := match b with | .notice d _ => decide (d = cl) | _ => false

/-- Demand notices of a cluster's RTE that wait for a tag. -/
def Chip.noticesWait (c : Chip) (cl : Nat) : Bool := c.fab.wait.any (fun (r : TxReq) => isNotice cl r.by_)

/-- A running ROUTE fails or is aborted (R73): no list is published, its buffers are freed, no further notice leaves, and the quota
table returns to its checkpoint. -/
def Chip.routeFail (c : Chip) (r : RouteRun) (st : Status) (info : Nat) : Chip :=
  let c := c.dropWait (fun b => r.clus.any (fun (y : RClu) => isNotice y.cluster b))
  let c := r.clus.foldl (fun c (y : RClu) => ((c.bufRelease y.listH none r.tag.toNat).2.bufRelease y.savedH none r.tag.toNat).2) c
  let c := (c.bufRelease r.countH none r.tag.toNat).2
  let s := c.rslot r.slot
  let c := (c.setRslot r.slot { s with quota := s.ckpt }).count pgRQS 5 1
  let c := c.routeGone r false
  let c := c.abortFollowers r.queue r.index
  (c.endWork r.queue r.index st info).launchesGo

/-- The ROUTE that runs on a cluster (R75: at most one). -/
def Chip.routeOn (c : Chip) (cl : Nat) : Option RouteRun :=
  c.rd.routes.find? (fun r => r.clus.any (fun (y : RClu) => decide (y.cluster = cl)))

/-- Its part on a cluster. -/
def RouteRun.part (r : RouteRun) (cl : Nat) : Option RClu := r.clus.find? (fun (y : RClu) => decide (y.cluster = cl))

/-- Replace a running ROUTE. -/
def Chip.setRoute (c : Chip) (r : RouteRun) : Chip :=
  { c with rd.routes := c.rd.routes.map (fun (y : RouteRun) => if y.queue = r.queue ∧ y.index = r.index then r else y) }

/-- Replace a cluster's part. -/
def RouteRun.setPart (r : RouteRun) (x : RClu) : RouteRun :=
  { r with clus := r.clus.map (fun (y : RClu) => if y.cluster = x.cluster then x else y) }

/-! ## Records (R64 to R69) -/

/-- A structure whose own CRC-32 in its first four bytes is filled in (R581). -/
def withCrc (bs : List (BitVec 8)) : List (BitVec 8) := toBytes 4 (crc32 ([0, 0, 0, 0] ++ bs.drop 4)) ++ bs.drop 4

/-- Whether such a structure's CRC matches. -/
def crcOk (bs : List (BitVec 8)) : Bool := decide (crc32 ([0, 0, 0, 0] ++ bs.drop 4) = ofBytes (bs.take 4))

/-- Bits 255:192 of the header of a list and of a saved-index record (R64, R67). -/
def RouteRun.head (r : RouteRun) (x : RClu) : Nat :=
  r.f 355 340 <<< 240 + r.f 291 284 <<< 232 + x.cluster <<< 226 + r.f 283 280 <<< 222 + x.first <<< 206 + x.count <<< 192

/-- The route result record (R69). -/
def RouteRun.record (r : RouteRun) (valid : Bool) : List (BitVec 8) :=
  let h := r.f 511 448 <<< 448 + r.f 355 340 <<< 432 + r.f 339 324 <<< 416 + r.f 283 280 <<< 412 + r.f 291 284 <<< 404 +
    (b2n valid) <<< 403 + r.countH <<< 352 + r.placed <<< 320 + r.spilled <<< 288 + r.dropped <<< 256 + r.empty <<< 224 +
    r.notices <<< 192
  withCrc (toBytes 64 h ++ (List.range 64).flatMap (fun cl =>
    match r.part cl with
    | some x => toBytes 8 (x.savedH <<< 32 + x.listH)
    | none => toBytes 8 0))

/-- The expert count record (R68). -/
def RouteRun.countRec (r : RouteRun) (e : Nat) : List (BitVec 8) :=
  let h := r.f 355 340 <<< 240 + r.f 291 284 <<< 232 + e <<< 217 + r.f 339 324 <<< 201
  withCrc (toBytes 32 h ++ (List.range e).flatMap (fun j =>
    let x := Tab.get default r.cnts j
    toBytes 8 (x.used <<< 48 + x.demand <<< 32 + x.spillIn <<< 16 + x.overQ)))

/-- The route result record is written and the command ends, once every notice is issued (R70); a MOVING tile holds it. -/
def Chip.routeEnd (c : Chip) (r : RouteRun) : Chip :=
  if r.grant < r.clus.length ∨ r.clus.any (fun (y : RClu) => c.noticesWait y.cluster) then c
  else
    let a := r.f 447 402
    let (res, c) := c.mwrite r.tag.toNat a (r.record (decide (r.f 339 324 ≠ 0) && decide (r.f 283 280 ≠ 0)))
    match res with
    | .held => c
    | .poisoned => c.routeFail r .poisoned (a / 32768)
    | .ok => ((c.routeGone r true).endWork r.queue r.index .ok 0).launchesGo

/-- Running ROUTEs whose relay has ended try to end, after a move or a tag. -/
def Chip.routesGo (c : Chip) : Chip :=
  c.rd.routes.foldl (fun c (r : RouteRun) => if r.grant = r.clus.length then c.routeEnd r else c) c

/-! ## ROUTE (R42 to R49, R63, R75) -/

/-- Bytes of m logits in a format: LFMT 0 FP32, 1 BF16. -/
def logitBytes (lfmt m : Nat) : Nat := if lfmt = 1 then 2 * m else 4 * m

/-- Rounded up to whole 256-B entries (R46). -/
def pad256 (n : Nat) : Nat := (n + 255) / 256 * 256

/-- The logit layout in memory is lawful, and the context reaches it when there is work (R46, R49, R288). -/
def logitsOk (k : Cmd) (x : Ctx) (e : Nat) : Bool :=
  let t := k.f 339 324
  let fmt := k.f 260 260
  let work := decide (t ≠ 0) && decide (k.f 283 280 ≠ 0)
  if k.f 261 261 = 1 then !work || x.covers (k.f 401 356) (t * pad256 (logitBytes fmt e))
  else
    let rr := pad256 (logitBytes fmt (e / 8))
    let ls := k.f 223 178
    decide (ls % 256 = 0) && decide (t * rr ≤ ls) &&
      (!work || (List.range 8).all (fun j => x.covers (k.f 401 356 + j * ls) (t * rr)))

/-- The clusters that a mask names, in ascending order. -/
def maskClusters (m : Nat) : List Nat := (List.range 64).filter (fun cl => bit m cl)

/-- Token shares: cluster, first token, tokens (R44). -/
def shares (cls : List Nat) (t : Nat) : List (Nat × Nat × Nat) :=
  let n := cls.length
  cls.zipIdx.map (fun p =>
    let big := t % n
    if p.2 < big then (p.1, p.2 * (t / n + 1), t / n + 1) else (p.1, big * (t / n + 1) + (p.2 - big) * (t / n), t / n))

/-- A command that its unit holds starts before another: LC before BE, then in order of issue (R23, R75). -/
def Cmd.heldBefore (m k : Cmd) : Bool := decide (m.phase = .held) && (if m.lc ≠ k.lc then m.lc else decide (m.seqNo < k.seqNo))

/-- Another held ROUTE starts before a ROUTE: held ones start in order, and one that is not held yet stays behind a held one of its
clusters or its slot (R75, log 111). -/
def Chip.routeBehind (c : Chip) (k : Cmd) (slot : Nat) : Bool :=
  c.allCmds.any (fun m => decide (m.type = 2) && decide (m.f 7 0 = 0) && m.heldBefore k &&
    (decide (k.phase = .held) || decide ((m.f 511 448) &&& (k.f 511 448) ≠ 0) ||
      (match c.findDomain m.ctx (m.f 355 340) with | some (s, _) => decide (s = slot) | none => false)))

/-- A cluster that a CLUSTER or CORE reset holds (R516). -/
def Chip.clResetting (c : Chip) (cl : Nat) : Bool := c.pwr.unitResets.any (fun r => r.cluster && decide (r.target = cl))

/-- Clusters that a command needs: it waits while one is gated or in reset, and asks for the wakes (R509, R516). -/
def Chip.needClusters (c : Chip) (cls : List Nat) (lc : Bool) : Bool × Chip :=
  if cls.any (fun cl => c.clGated cl || c.clResetting cl) then (false, cls.foldl (fun c cl => c.askWake cl lc) c) else (true, c)

/-- Buffers of one RTE: dispatch list and saved-index record, sized for the share's largest output (R63). -/
def listBytes (e k count : Nat) : Nat := 32 + 16 * min (count * k) e + 4 * (count * k)
def savedBytes (k count : Nat) : Nat := 32 + 8 * (count * k)

/-- One allocation of a ROUTE: its failure sets POOL_EMPTY in the page of the cluster's RTE (R63). -/
def Chip.routeAlloc (c : Chip) (k : Cmd) (cl bytes : Nat) : Status × Nat × Chip :=
  let (st, h, c) := c.bufAlloc cl (k.f 248 241) bytes k.ctx k.tag.toNat
  (st, h, if st = .ok then c else c.err (pgRTE cl) 3 k.tag.toNat 0)

/-- The buffers of every share, in ascending cluster order. -/
def Chip.routeBufs (c : Chip) (k : Cmd) (e : Nat) : List (Nat × Nat × Nat) → Bool × List RClu × Chip
  | [] => (true, [], c)
  | (cl, first, n) :: rest =>
    let kk := k.f 283 280
    let (s1, h1, c) := c.routeAlloc k cl (listBytes e kk n)
    let (s2, h2, c) := c.routeAlloc k cl (savedBytes kk n)
    let (ok, xs, c) := c.routeBufs k e rest
    let x : RClu := { cluster := cl, first := first, count := n, stage := if n = 0 then 2 else 1, row := [], older := [], hist := [], toks := [],
                      listH := if s1 = .ok then h1 else 0, savedH := if s2 = .ok then h2 else 0, lastAt := c.time.ns }
    (ok && decide (s1 = .ok) && decide (s2 = .ok), x :: xs, c)

/-- The quota table as QMODE 0 sets it (R56). -/
def freshQuota (d : Domain) (q : Tab QEnt) : Tab QEnt :=
  ((List.range d.e).filterMap (fun e => if (d.ex e).quota = 0 then none else some (e, QEnt.mk (d.ex e).quota 0))) ++
    q.filter (fun p => decide (d.e ≤ p.1))

/-- The quota table at a ROUTE's start: its checkpoint, and QMODE 0's fresh quota, which a ROUTE without work sets too (R56, R60, R73). -/
def Chip.quotaStart (c : Chip) (k : Cmd) (s : Nat) (d : Domain) : Chip :=
  let x := c.rslot s
  (c.injW pgRQS 0).setRslot s { x with ckpt := x.quota, quota := if k.f 263 263 = 0 then freshQuota d x.quota else x.quota }

/-- ROUTE has passed its checks and starts (R44, R47, R49, R56, R63). -/
def Chip.routeStart (c : Chip) (k : Cmd) (s : Nat) (d : Domain) (job : Nat) : Chip :=
  let t := k.f 339 324
  let kk := k.f 283 280
  let cls := maskClusters (k.f 511 448)
  let work := decide (t ≠ 0) && decide (kk ≠ 0)
  let sh := shares cls t
  let c := sh.foldl (fun c p =>
    ((c.setReg (pgRTE p.1) 0x200 (k.tag.toNat <<< 32 + k.queue <<< 23 + d.tag)).setReg (pgRTE p.1) 0x208 (p.2.1 <<< 16 + p.2.2)).count
      (pgRTE p.1) 0 1) c
  let c := c.count pgRQS 2 1
  let run : RouteRun := { queue := k.queue, index := k.index, tag := k.tag, ctx := k.ctx, job := job, op := k.op, slot := s, clus := [],
                          grant := 0, cnts := [], countH := 0, placed := 0, spilled := 0, dropped := 0, empty := 0, notices := 0 }
  let arm := fun (c : Chip) => if k.f 240 240 = 1 then c.ctrAdd (k.f 239 224) 1 else c
  let c := c.setCmd { k with phase := .running }
  if ¬ work then
    let r := { run with clus := sh.map (fun p => { (default : RClu) with cluster := p.1, first := p.2.1, count := p.2.2, stage := 6 }), grant := sh.length }
    let c := c.quotaStart k s d
    (arm { c with rd.routes := c.rd.routes ++ [r] }).routeEnd r
  else
    let (ok, xs, c) := c.routeBufs k d.e sh
    let (st, h, c) := c.routeAlloc k ((cls.getLast?).getD 0) (32 + 8 * d.e)
    if ok ∧ st = .ok then
      let c := c.quotaStart k s d
      arm { c with rd.routes := c.rd.routes ++ [{ run with clus := xs, countH := h }] }
    else
      let c := xs.foldl (fun c (x : RClu) => ((c.bufRelease x.listH none k.tag.toNat).2.bufRelease x.savedH none k.tag.toNat).2) c
      let c := if st = .ok then (c.bufRelease h none k.tag.toNat).2 else c
      { (c.endWork k.queue k.index .aborted 0) with rd.rtags := (k.ctx, k.tag, false) :: c.rd.rtags }

/-- ROUTE. -/
def Chip.route (c : Chip) (q : Nat) (i : BitVec 32) : Chip :=
  match c.unitCmd q i 2 0, (c.cmd? q i).bind (fun k => c.ctxOf k.ctx) with
  | some k, some x =>
    let t := k.f 339 324
    let kk := k.f 283 280
    let cls := maskClusters (k.f 511 448)
    let n := cls.length
    let work := decide (t ≠ 0) && decide (kk ≠ 0)
    let res := k.f 447 402
    if k.f 177 8 ≠ 0 ∨ kk > 8 ∨ k.f 279 276 > 8 ∨ t > 32768 ∨ k.f 275 274 = 3 ∨ k.f 271 265 > 64 ∨ (work ∧ n = 0) ∨
        (0 < n ∧ ceilDiv t n > 8192) ∨ k.f 248 241 > 31 ∨ res % 64 ≠ 0 ∨ ¬ x.covers res 576 ∨
        (k.f 240 240 = 1 ∧ ¬ x.hasCtrs (k.f 239 224) 1) then c.malformed k
    else
      match c.findDomain k.ctx (k.f 355 340) with
      | none => c.domainMiss k
      | some (s, d) =>
        if (k.f 261 261 = 0 ∧ d.e % 512 ≠ 0) ∨ (k.f 262 262 = 1 ∧ ¬ logitsOk k x d.e) then c.malformed k
        else if cls.any (fun cl => c.clFenced cl) then c.endWork q i .fenced 0
        else if cls.any (fun cl => decide (c.fld (pgRTE cl) 0x008 0 0 = 0)) then c.endWork q i .aborted 0
        else if c.rd.routes.any (fun r => decide (r.slot = s) || r.clus.any (fun (y : RClu) => cls.contains y.cluster)) ∨ c.routeBehind k s then
          c.holdCmd k
        else
          let (ready, c) := c.needClusters cls k.lc
          if ¬ ready then c.holdCmd k
          else if work ∧ cls.any (fun cl => c.poolBuilding cl (k.f 248 241)) then c.holdCmd k
          else
            let bad := cls.find? (fun cl => (List.range 8).any (fun j => c.coreFenced (8 * cl + j)))
            match (if work ∧ k.f 262 262 = 0 then bad else none) with
            | some cl =>
              let lane := ((List.range 8).find? (fun j => c.coreFenced (8 * cl + j))).getD 0
              let first := ((shares cls t).find? (fun p => decide (p.1 = cl))).map (fun p => p.2.1)
              (c.err (pgRTE cl) 4 k.tag.toNat (lane <<< 16 + first.getD 0)).endWork q i .fenced (lane <<< 16 + first.getD 0)
            | none => c.routeStart k s d x.job
  | _, _ => c

/-! ## Scoring and selection (R50 to R54) -/

/-- The softmax sum: 64 partial sums in ascending order, then a tree of pairs (R52). -/
def laneTreeSum (xs : List Nat) : Nat :=
  let part := fun (j : Nat) => ((List.range ((xs.length + 63 - j) / 64)).map (fun i => (xs[64 * i + j]?).getD 0)).foldl fadd 0
  treeSum 6 ((List.range 64).map part)

/-- One row scored: the score of each expert, +0 where it is absent (R51 to R53). -/
def scoreRow (d : Domain) (fn : Nat) (row : List Nat) : List Bool × List Nat :=
  let l := row.map (fun v => if v = 0x7F800000 then 0x7F7FFFFF else v)
  let elig := (List.range d.e).map (fun e => (d.ex e).valid && !(fnan ((row[e]?).getD 0)))
  let le := elig.zip l
  let s :=
    if fn = 1 then
      let m := (le.foldl (fun (b : Option Nat) p => if ¬ p.1 then b else match b with
        | none => some p.2
        | some v => if fless v p.2 then some p.2 else some v) none).getD 0
      let xs := le.map (fun p => if ¬ p.1 then 0 else if ¬ fless p.2 m then 0x3F800000 else expF32 (f32 (fsub p.2 m)))
      let sum := laneTreeSum xs
      (elig.zip xs).map (fun p => if p.1 then fdiv p.2 sum else 0)
    else le.map (fun p => if ¬ p.1 then 0 else if fn = 2 then sigmoidF32 p.2 else p.2)
  (elig, s)

/-- Score of a group: its best key, or the rounded sum of its two best (R53); a sum that comes out as a NaN is a free value of the
two keys (R28, log 108). -/
def groupScore (gscore : Bool) (keys : List Nat) : Option Nat :=
  match topBy (fun a b => fless b a) 2 keys with
  | [] => none
  | [a] => some a
  | a :: b :: _ =>
    some (if ¬ gscore then a else if fnan (fadd a b) then (Config.nanGroup (BitVec.ofNat 32 a) (BitVec.ofNat 32 b)).toNat else fadd a b)

/-- Selection: the candidates of one token (R53). -/
def selectRow (d : Domain) (r : RouteRun) (elig : List Bool) (s : List Nat) : List Cand :=
  let all := (List.range d.e).filterMap (fun e =>
    if (elig[e]?).getD false then
      let v := (s[e]?).getD 0
      some (Cand.mk e (BitVec.ofNat 32 v) (BitVec.ofNat 32 (fadd v ((d.bias[e]?).getD 0).toNat)))
    else none)
  let all :=
    if r.f 273 273 = 1 then
      let gs := (List.range d.groups).filterMap (fun g =>
        (groupScore (r.f 272 272 = 1) ((all.filter (fun x => decide ((d.ex x.e).group = g))).map (fun x => x.key.toNat))).map
          (fun v => (g, v)))
      let kept := (topBy (fun (a b : Nat × Nat) => fless b.2 a.2) (r.f 271 265) gs).map (fun p => p.1)
      all.filter (fun x => kept.contains (d.ex x.e).group)
    else all
  topBy (fun a b => fless b.key.toNat a.key.toNat) (r.f 283 280 + r.f 279 276) all

/-- A complete row is scored into the candidate store (R53, R55); an uncorrectable error in the row buffer fails the command
(R74). -/
def Chip.scoreToken (c : Chip) (r : RouteRun) (x : RClu) (d : Domain) : Chip :=
  let page := pgRTE x.cluster
  let row := x.row.map BitVec.toNat
  let (c, ue) := c.injR page 0 r.tag.toNat 0
  if ue then c.routeFail r .fenced 0
  else
    let nans := ((List.range d.e).filter (fun e => (d.ex e).valid && fnan ((row[e]?).getD 0))).length
    let (elig, s) := scoreRow d (r.f 275 274) row
    let c := ((c.injW page 1).count page 1 1).count page 3 nans
    let x := { x with row := [], older := (x.row :: x.older).take 2, toks := x.toks ++ [selectRow d r elig s],
                      stage := if x.toks.length + 1 = x.count then 2 else 1 }
    c.setRoute (r.setPart x)

/-! ## Logits (R46 to R48) -/

/-- The logits of bytes in a format, widened to FP32. -/
def logitsOf (lfmt : Nat) (n : Nat) (bs : List (BitVec 8)) : List (BitVec 32) :=
  (items (if lfmt = 1 then 2 else 4) n bs).map (fun v => BitVec.ofNat 32 (if lfmt = 1 then v * 65536 else v))

/-- The lane that the next entry of a share comes from (R46). -/
def nextLane (r : RouteRun) (x : RClu) (e : Nat) : Nat :=
  if r.f 261 261 = 1 then x.toks.length % 8 else if e / 8 = 0 then 0 else x.row.length / (e / 8)

/-- Logits of a range that starts where the row stands. -/
def rangeLeft (r : RouteRun) (x : RClu) (e : Nat) : Nat :=
  if r.f 261 261 = 1 then e - x.row.length else e / 8 - x.row.length % max (e / 8) 1

/-- Whether a lane of a cluster has a whole entry for its RTE. -/
def Chip.laneEntry (c : Chip) (cl lane q : Nat) : Bool :=
  let y := c.qs (8 * cl + lane) q
  decide (y.kind = 1) && decide (0 < y.size) && decide (y.taken + 256 ≤ y.present)

/-- An uncorrectable error in a core is due for its fence, which fails the ROUTE that its lane feeds (R48, R528). -/
def Chip.coreDue (c : Chip) (n : Nat) : Bool := c.flt.due.any (fun d => decide (d.kind = 0) && decide (d.target = n))

/-- One lane entry is popped (R46, R207). -/
def Chip.laneTake (c : Chip) (r : RouteRun) (x : RClu) (d : Domain) : Chip :=
  let lane := nextLane r x d.e
  let n := 8 * x.cluster + lane
  let q := r.f 259 254
  if ¬ c.laneEntry x.cluster lane q then c
  else
    let y := c.qs n q
    let bs := c.qBytes n y y.taken 256
    let c := c.qFound n y y.taken 256
    if c.coreDue n then c
    else
      let c := c.setQs n q { y with taken := y.taken + 256, late := y.late + 256 }
      let m := min (rangeLeft r x d.e) (if r.f 260 260 = 1 then 128 else 64)
      let x := { x with row := x.row ++ logitsOf (r.f 260 260) m bs }
      let c := (c.injW (pgRTE x.cluster) 0).count (pgRTE x.cluster) 2 m
      let r := r.setPart x
      if x.row.length = d.e then c.scoreToken r x d else c.setRoute r

/-- Where the logits of a token lie in memory: address and logits of each piece (R46). -/
def logitPieces (r : RouteRun) (e t : Nat) : List (Nat × Nat) :=
  let fmt := r.f 260 260
  if r.f 261 261 = 1 then [(r.f 401 356 + t * pad256 (logitBytes fmt e), e)]
  else (List.range 8).map (fun j => (r.f 401 356 + j * r.f 223 178 + t * pad256 (logitBytes fmt (e / 8)), e / 8))

/-- One token's logits are read from memory (R46). -/
def Chip.memTake (c : Chip) (r : RouteRun) (x : RClu) (d : Domain) : Chip :=
  let fmt := r.f 260 260
  let ps := logitPieces r d.e (x.first + x.toks.length)
  if ps.any (fun p => decide (c.accRes p.1 (logitBytes fmt p.2) = .held)) then c
  else
    let (bad, row, c) := ps.foldl (fun (a : Option Nat × List (BitVec 32) × Chip) p =>
      let (res, bs, c) := a.2.2.mread r.tag.toNat p.1 (logitBytes fmt p.2)
      (if res = .ok then a.1 else a.1.or (some p.1), a.2.1 ++ logitsOf fmt p.2 bs, c)) (none, [], c)
    match bad with
    | some p => c.routeFail r .poisoned (p / 32768)
    | none =>
      let c := (c.injW (pgRTE x.cluster) 0).count (pgRTE x.cluster) 2 d.e
      let x := { x with row := row }
      c.scoreToken (r.setPart x) x d

/-- LANE_DRAIN: an RTE pops a lane entry, or reads a token's logits, and scores the row that is then complete. -/
def Chip.laneDrain (c : Chip) (cl : Nat) : Chip :=
  match c.routeOn cl with
  | none => c
  | some r =>
    match r.part cl, (c.rslot r.slot).dom with
    | some x, some d =>
      if x.stage ≠ 1 then c
      else if r.f 262 262 = 1 then c.memTake r x d
      else if d.e = 0 then c.scoreToken r x d
      else c.laneTake r x d
    | _, _ => c

/-- When the last lane entry of a cluster's part came, on any of its eight lanes, or when it began to expect them (R48). -/
def Chip.laneLast (c : Chip) (r : RouteRun) (x : RClu) : Nat :=
  (List.range 8).foldl (fun t j => max t (c.qs (8 * x.cluster + j) (r.f 259 254)).lastIn) x.lastAt

/-- LQ_TIMEOUT (R48). -/
def Chip.lqTimeout (c : Chip) (cl : Nat) : Chip :=
  match c.routeOn cl with
  | none => c
  | some r =>
    match r.part cl, (c.rslot r.slot).dom with
    | some x, some d =>
      let lane := nextLane r x d.e
      let code := r.f 253 249
      if x.stage ≠ 1 ∨ r.f 262 262 = 1 ∨ code = 31 ∨ c.time.ns < c.laneLast r x + 2 ^ code * 1000 ∨ c.laneEntry cl lane (r.f 259 254) then c
      else
        let info := lane <<< 16 + (x.first + x.toks.length) % 65536
        (c.err (pgRTE cl) 2 r.tag.toNat info).routeFail r .waitExpired info
    | _, _ => c

/-! ## Charging (R56 to R60) -/

/-- What a choice comes to: PRIMARY, SPILLED (by which spare), DROPPED, EMPTY; its expert and slot. -/
structure Out where
  /-- R67. 0 PRIMARY, 1 SPILLED, 2 DROPPED, 3 EMPTY. -/
  status : Nat
  /-- R57. Expert. -/
  e : Nat
  /-- R57. Absolute pen slot. -/
  slot : Nat
  /-- R58. Spare position j − k + 1 that took it. -/
  depth : Nat
  /-- R59. Score of the expert. -/
  s : Nat
  deriving DecidableEq, Repr, Inhabited

/-- Absolute slot of the next row of expert e, 24 bits (R57). -/
def penSlot (d : Domain) (q : QEnt) (e : Nat) : Nat :=
  let x := d.ex e
  (d.srcRank * x.quota + x.quota + 2 ^ 24 - q.remain) % 2 ^ 24

/-- One row of an expert is placed. -/
def QEnt.place (q : QEnt) : QEnt := ⟨q.remain - 1, (q.used + 1) % 65536⟩

/-- Charge choices r to k − 1 of a token: quota, counts, spares used (R57). -/
def chargeRanks (d : Domain) (k : Nat) (cand : List Cand) (used : List Nat) (q : Tab QEnt) (n : Tab RCnt) :
    Nat → Nat → List Out × Tab QEnt × Tab RCnt
  | 0, _ => ([], q, n)
  | f + 1, r =>
    match cand[r]? with
    | none =>
      let (o, q, n) := chargeRanks d k cand used q n f (r + 1)
      (⟨3, 0, 0, 0, 0⟩ :: o, q, n)
    | some x =>
      let cx := Tab.get default n x.e
      let qx := Tab.get default q x.e
      if 0 < qx.remain then
        let n := Tab.put default n x.e { cx with demand := (cx.demand + 1) % 65536, used := (cx.used + 1) % 65536 }
        let (o, q', n) := chargeRanks d k cand used (Tab.put default q x.e qx.place) n f (r + 1)
        (⟨0, x.e, penSlot d qx x.e, 0, x.s.toNat⟩ :: o, q', n)
      else
        let n := Tab.put default n x.e { cx with demand := (cx.demand + 1) % 65536, overQ := (cx.overQ + 1) % 65536 }
        let spare := ((List.range cand.length).filter (fun j => decide (k ≤ j) && !(used.contains j))).find? (fun j =>
          match cand[j]? with | some y => decide (0 < (Tab.get default q y.e).remain) | none => false)
        match spare.bind (fun j => (cand[j]?).map (fun y => (j, y))) with
        | none =>
          let (o, q', n) := chargeRanks d k cand used q n f (r + 1)
          (⟨2, x.e, 0, 0, 0⟩ :: o, q', n)
        | some (j, y) =>
          let qy := Tab.get default q y.e
          let cy := Tab.get default n y.e
          let n := Tab.put default n y.e { cy with spillIn := (cy.spillIn + 1) % 65536, used := (cy.used + 1) % 65536 }
          let (o, q', n) := chargeRanks d k cand (j :: used) (Tab.put default q y.e qy.place) n f (r + 1)
          (⟨1, y.e, penSlot d qy y.e, j - k + 1, y.s.toNat⟩ :: o, q', n)

/-- A choice was placed. -/
def Out.placed (o : Out) : Bool := decide (o.status < 2)

/-- One weight times ROUTE_SCALE; a NaN, which R53 excludes and gives no value for, is a free value of the two (R28, log 108). -/
def scaled (w scale : Nat) : Nat :=
  let v := fmul w scale
  if fnan v then (Config.nanWeight (BitVec.ofNat 32 w) (BitVec.ofNat 32 scale)).toNat else v

/-- The weights of a token's choices (R59); a dropped one weighs +0, as all do where none is placed (R58). -/
def weights (norm : Bool) (scale : Nat) (os : List Out) : List Nat :=
  let sum := os.foldl (fun a o => if o.placed then fadd a o.s else a) 0
  os.map (fun o =>
    if o.status = 2 ∨ ¬ os.any Out.placed then 0
    else
      let w := if o.placed then o.s else 0
      scaled (if norm then (if fless 0 sum then fdiv w sum else 0) else w) scale)

/-- The choices of a share after charging: token, outcomes, weights. -/
def chargeShare (d : Domain) (r : RouteRun) (q : Tab QEnt) (n : Tab RCnt) :
    Nat → List (List Cand) → List (Nat × List Out × List Nat) × Tab QEnt × Tab RCnt
  | _, [] => ([], q, n)
  | t, cand :: rest =>
    let k := r.f 283 280
    let (os, q, n) := chargeRanks d k cand [] q n k 0
    let (xs, q, n) := chargeShare d r q n (t + 1) rest
    ((t, os, weights (r.f 264 264 = 1) (r.f 323 292) os) :: xs, q, n)

/-! ## Sort, lists and notices (R61 to R71) -/

/-- A placed entry: token, rank, outcome. -/
abbrev Entry := Nat × Nat × Out

/-- Placed entries in token order and rank order. -/
def entriesOf (xs : List (Nat × List Out × List Nat)) : List Entry :=
  xs.flatMap (fun x => (x.2.1.zipIdx.filter (fun o => o.1.placed)).map (fun o => (x.1, o.2, o.1)))

/-- The sort histogram: placed choices at each destination position (R61). -/
def histOf (d : Domain) (es : List Entry) : Tab Nat :=
  es.foldl (fun h e =>
    let p := (d.dest.findIdx? (fun y => decide (y = e.2.2.e))).getD 0
    Tab.put 0 h p (Tab.get 0 h p + 1)) []

/-- Segments in destination order, each with its entries in token order (R61, R62). -/
def segmentsOf (d : Domain) (hist : Tab Nat) (es : List Entry) : List (Nat × List Entry) :=
  (d.dest.zipIdx.filter (fun p => decide (Tab.get 0 hist p.2 ≠ 0))).map (fun p => (p.1, es.filter (fun x => decide (x.2.2.e = p.1))))

/-- Segment descriptors from entry index `first` on (R65). -/
def segWords (d : Domain) : Nat → List (Nat × List Entry) → List (BitVec 8)
  | _, [] => []
  | first, (e, es) :: rest =>
    let x := d.ex e
    let start := (es.head?.map (fun y => y.2.2.slot)).getD 0
    toBytes 16 (x.penBase <<< 90 + x.node <<< 72 + e <<< 58 + start <<< 34 + es.length <<< 18 + first <<< 2) ++
      segWords d (first + es.length) rest

/-- The dispatch list (R64 to R66). -/
def listRec (d : Domain) (r : RouteRun) (x : RClu) (segs : List (Nat × List Entry)) : List (BitVec 8) :=
  let es := segs.flatMap (fun s => s.2)
  withCrc (toBytes 32 (r.head x + segs.length <<< 176 + es.length <<< 159) ++ segWords d 0 segs ++
    es.flatMap (fun e => toBytes 4 (e.1 <<< 17 + e.2.1 <<< 14 + e.2.2.status <<< 12)))

/-- Saved-index entries of a share, in token and rank order (R67). -/
def savedEntries (xs : List (Nat × List Out × List Nat)) (es : List Entry) : List Nat :=
  xs.flatMap (fun x => (x.2.1.zip x.2.2).zipIdx.map (fun p =>
    let pos := if p.1.1.placed then (es.findIdx? (fun e => decide (e.1 = x.1) && decide (e.2.1 = p.2))).getD 0 else 0
    p.1.2 <<< 32 + pos <<< 16 + p.1.1.e <<< 2 + p.1.1.status))

/-- The saved-index record (R67). -/
def savedRec (r : RouteRun) (x : RClu) (ws : List Nat) : List (BitVec 8) := withCrc (toBytes 32 (r.head x) ++ ws.flatMap (toBytes 8))

/-- The list in pieces of at most n. -/
def chunks {α : Type} (n : Nat) : Nat → List α → List (List α)
  | 0, _ => []
  | f + 1, xs => if xs.isEmpty then [] else xs.take n :: chunks n f (xs.drop n)

/-- The notices of a share: node and payload (R71). -/
def noticesOf (d : Domain) (r : RouteRun) (cl : Nat) (segs : List (Nat × List Entry)) : List (Nat × List (BitVec 8)) :=
  ((segs.map (fun s => (d.ex s.1).node)).eraseDups).flatMap (fun node =>
    let es := (segs.filter (fun s => decide ((d.ex s.1).node = node))).map (fun s => s.1)
    (chunks 1016 (es.length + 1) es).map (fun p =>
      let b := toBytes 16 (r.tag.toNat <<< 32 + cl <<< 26 + p.length <<< 16 + d.tag) ++ p.flatMap (toBytes 2)
      (node, b ++ List.replicate ((16 - b.length % 16) % 16) 0)))

/-- A notice to the own node is held by a MOVING tile (R294). -/
def Chip.ownNoticeHeld (c : Chip) (d : Domain) (r : RouteRun) (p : Nat × List (BitVec 8)) : Bool :=
  decide (p.1 = c.node) && (c.noticeHeld r.job d.demand p.2 ||
    (!(c.noticePort r.job d.demand) && decide (c.accRes d.demand p.2.length = .held)))

/-- A demand notice leaves: over the NoC to the own node, else as a packet on VC0 (R71, R360). -/
def Chip.sendNotice (c : Chip) (d : Domain) (r : RouteRun) (cl : Nat) (lc : Bool) (p : Nat × List (BitVec 8)) : Chip :=
  let c := c.count (pgRTE cl) 19 1
  if p.1 = c.node then
    let (c, hit) := c.noticeWrite r.job c.node d.demand p.2
    if hit then c
    else if (match c.ctxOf r.ctx with | some x => x.covers d.demand p.2.length | none => false) then (c.mwrite r.tag.toNat d.demand p.2).2
    else c.badAddr pgHOM d.demand true
  else c.txn (.notice cl r.tag) (mkHdr 0 p.1 d.demand r.job p.2.length 0 none false) p.2 lc none

/-- Counters of a charged share (R58, R80). -/
def Chip.chargeCounts (c : Chip) (cl : Nat) (os : List Out) : Chip :=
  os.foldl (fun c o =>
    let c := c.count (pgRTE cl) 4 1
    if o.status = 0 then c.count (pgRTE cl) 5 1
    else if o.status = 1 then (c.count (pgRTE cl) 6 1).count (pgRTE cl) (8 + o.depth) 1
    else if o.status = 2 then c.count (pgRTE cl) 7 1
    else c.count (pgRTE cl) 8 1) c

/-- RTE_CTRL.TRACE: each saved-index entry goes to the Vitrine (R78, R232). -/
def Chip.traceSaved (c : Chip) (d : Domain) (r : RouteRun) (x : RClu) (ws : List Nat) : Chip :=
  if c.fld (pgRTE x.cluster) 0x008 1 1 = 0 then c
  else ws.zipIdx.foldl (fun c p =>
    let k := max (r.f 283 280) 1
    c.vitWrite x.cluster 5 (c.vitHead 3 0 0 0 0 0 0 ++ toBytes 8 p.1 ++ toBytes 4 (x.first + p.2 / k) ++ toBytes 1 (p.2 % k) ++ toBytes 2 d.tag)) c

/-- An injected fault in the quota table: QUOTA_UE when it cannot be corrected (R81). -/
def Chip.quotaCheck (c : Chip) : Chip × Bool :=
  match c.flt.placed.find? (fun p => decide (p.page = pgRQS)) with
  | none => (c, false)
  | some p => ({ c with flt.placed := c.flt.placed.erase p }, decide (p.kind = 1) || decide (p.kind = 2))

/-! ## Lists as the Drovers read them (R64 to R68, R88, R90) -/

/-- What a unit's read of a structure in a buffer comes to: held by a MOVING tile, failed with a status, a CRC that does not match, or
the structure. -/
inductive Got (α : Type) where
  | wait
  | fail (st : Status) (info : Nat)
  | bad
  | ok (x : α)

/-- The first POISONED tile of a buffer. -/
def Chip.bufPoison (c : Chip) (hd : Nat) : Nat :=
  (((c.bufCells hd).find? (fun x => decide (c.accRes (c.cellData (bits hd 31 26) x) 256 = .poisoned))).map
    (fun x => c.cellData (bits hd 31 26) x / 32768)).getD 0

/-- A unit reads a buffer, whether it is allocated or free (R294, R331, R333); a handle whose cell lies in no pool names no bytes. -/
def Chip.readHandle (c : Chip) (hd tag : Nat) : Got (List (BitVec 8)) × Chip :=
  if (c.poolOfCell (bits hd 31 26) (bits hd 25 8)).isNone then (.ok [], c)
  else
    let p := c.bufPoison hd
    match c.bufRead hd tag with
    | (none, _, c) => (.wait, c)
    | (some .ok, bs, c) => (.ok bs, c)
    | (some .poisoned, _, c) => (.fail .poisoned p, c)
    | (some st, _, c) => (.fail st 0, c)

/-- The segments of a list's bytes: expert, first slot, entries. -/
def segsOf (lb : List (BitVec 8)) : List (Nat × Nat × List (BitVec 32)) :=
  let h := ofBytes (lb.take 32)
  let n := bits h 191 176
  (items 16 n (lb.drop 32)).map (fun s =>
    (bits s 71 58, bits s 57 34,
      (items 4 (bits s 33 18) (lb.drop (32 + 16 * n + 4 * bits s 17 2))).map (BitVec.ofNat 32)))

/-- A dispatch list and a saved-index record of a cluster from their bytes, when both CRCs match. -/
def listsOf (cl : Nat) (lb sb : List (BitVec 8)) : Got DList :=
  let h := ofBytes (lb.take 32)
  let g := ofBytes (sb.take 32)
  let nl := 32 + 16 * bits h 191 176 + 4 * bits h 175 159
  let m := bits g 205 192 * bits g 225 222
  if nl ≤ lb.length ∧ crcOk (lb.take nl) ∧ 32 + 8 * m ≤ sb.length ∧ crcOk (sb.take (32 + 8 * m)) then
    .ok ⟨cl, bits g 221 206, bits g 205 192, segsOf (lb.take nl), (items 8 m (sb.drop 32)).map (BitVec.ofNat 64)⟩
  else .bad

/-- A cluster's dispatch list and saved-index record (R88). -/
def Chip.readLists (c : Chip) (tag cl listH savedH : Nat) : Got DList × Chip :=
  match c.readHandle listH tag with
  | (.ok lb, c) =>
    match c.readHandle savedH tag with
    | (.ok sb, c) => (listsOf cl lb sb, c)
    | (.wait, c) => (.wait, c)
    | (.fail st i, c) => (.fail st i, c)
    | (.bad, c) => (.bad, c)
  | (.wait, c) => (.wait, c)
  | (.fail st i, c) => (.fail st i, c)
  | (.bad, c) => (.bad, c)

/-- The lists of several clusters: the first that cannot be had decides. -/
def Chip.readAllLists (c : Chip) (tag : Nat) : List (Nat × Nat × Nat) → Got (List DList) × Chip
  | [] => (.ok [], c)
  | h :: hs =>
    match c.readLists tag h.1 h.2.1 h.2.2 with
    | (.ok l, c) =>
      match c.readAllLists tag hs with
      | (.ok ls, c) => (.ok (l :: ls), c)
      | r => r
    | (.wait, c) => (.wait, c)
    | (.fail st i, c) => (.fail st i, c)
    | (.bad, c) => (.bad, c)

/-- USED of each expert in an expert count record. -/
def Chip.readUsed (c : Chip) (tag hd : Nat) : Got (List Nat) × Chip :=
  match c.readHandle hd tag with
  | (.ok cb, c) =>
    let n := 32 + 8 * bits (ofBytes (cb.take 32)) 231 217
    (if n ≤ cb.length ∧ crcOk (cb.take n) then .ok ((items 8 ((n - 32) / 8) (cb.drop 32)).map (fun w => bits w 63 48)) else .bad, c)
  | (.wait, c) => (.wait, c)
  | (.fail st i, c) => (.fail st i, c)
  | (.bad, c) => (.bad, c)

/-- LIST_CHECK in a Drover's page, and MALFORMED under R97 for a DISPATCH that runs (R88). -/
def Chip.listCheck (c : Chip) (d : DRun) (cl : Nat) : Chip := (c.err (pgDRV cl) 2 d.tag.toNat 0).stopDrun d .malformed 0

/-- What a DISPATCH that follows a ROUTE makes of a structure that it reads (R88, R90). -/
def Chip.took {α : Type} (c : Chip) (d : DRun) (got : Got α) (f : α → DRun) : Chip :=
  match got with
  | .ok x => c.setDrun (f x)
  | .bad => c.listCheck d ((d.clus.head?.map (fun (y : DClu) => y.cluster)).getD 0)
  | .fail st i => c.stopDrun d st i
  | .wait => c

/-- The DISPATCH commands that follow a ROUTE and still run. -/
def Chip.followers (c : Chip) (r : RouteRun) : List DRun :=
  c.rd.drovers.filter (fun (d : DRun) => decide (d.follow = some (r.queue, r.index)) && !d.over_)

/-- An RTE publishes its lists: the DISPATCHes that follow its ROUTE take and check them (R88, R90). -/
def Chip.publish (c : Chip) (r : RouteRun) (x : RClu) : Chip :=
  (c.followers r).foldl (fun c (d : DRun) =>
    let (got, c) := c.readLists d.tag.toNat x.cluster x.listH x.savedH
    c.took d got (fun l => { d with lists := d.lists ++ [l] })) c

/-- The RQS publishes the expert count record. -/
def Chip.publishUsed (c : Chip) (r : RouteRun) : Chip :=
  (c.followers r).foldl (fun c (d : DRun) =>
    let (got, c) := c.readUsed d.tag.toNat r.countH
    c.took d got (fun u => { d with used := some u })) c

/-- The last RTE has written its buffers: the expert count record follows, and the command can end (R68, R70). -/
def Chip.relayEnd (c : Chip) (r : RouteRun) (e : Nat) : Chip :=
  match c.bufWrite r.countH r.tag.toNat (r.countRec e) with
  | (.ok, c) => (c.publishUsed r).routeEnd r
  | (_, c) => c.routeFail r .poisoned (c.bufPoison r.countH)

/-- What an RTE's share comes to when it is charged: outcomes, quota table, counts, segments, saved-index entries, notices, and the
run with the grant passed on (R56 to R71). -/
structure Charged where
  /-- R57. -/
  os : List Out
  /-- R57. -/
  quota : Tab QEnt
  /-- R61. -/
  segs : List (Nat × List Entry)
  /-- R67. -/
  ws : List Nat
  /-- R71. -/
  notices : List (Nat × List (BitVec 8))
  /-- R61. The cluster's part after its sort. -/
  part : RClu
  /-- R56. -/
  run : RouteRun

/-- A share charged. -/
def chargedOf (d : Domain) (r : RouteRun) (x : RClu) (quota : Tab QEnt) : Charged :=
  let (xs, q, n) := chargeShare d r quota r.cnts x.first x.toks
  let os := xs.flatMap (fun y => y.2.1)
  let num := fun (v : Nat) => (os.filter (fun o => decide (o.status = v))).length
  let hist := histOf d (entriesOf xs)
  let segs := segmentsOf d hist (entriesOf xs)
  let ns := noticesOf d r x.cluster segs
  let x' := { x with stage := 6, hist := hist }
  { os := os, quota := q, segs := segs, ws := savedEntries xs (segs.flatMap (fun s => s.2)), notices := ns, part := x',
    run := { (r.setPart x') with
      grant := r.grant + 1, cnts := n, placed := r.placed + num 0, spilled := r.spilled + num 1,
      dropped := r.dropped + num 2, empty := r.empty + num 3, notices := r.notices + ns.length } }

/-- A MOVING tile of a buffer that the share is written to, or of its notice to the own node, holds the RTE (R294, log 159). -/
def Chip.chargeHeld (c : Chip) (d : Domain) (r : RouteRun) (x : RClu) (y : Charged) : Bool :=
  (x.listH :: x.savedH :: (if r.grant + 1 < r.clus.length then [] else [r.countH])).any (fun h => decide (c.bufRes h = .held)) ||
    y.notices.any (c.ownNoticeHeld d r)

/-- CHARGE_GRANT: the RTE that the grant has reached charges its share, passes the grant on, sorts, and writes its list and
its record; the last one lets the command end (R56 to R70). -/
def Chip.chargeGrant (c : Chip) (cl : Nat) : Chip :=
  match c.routeOn cl with
  | none => c
  | some r =>
    match r.clus[r.grant]?, (c.rslot r.slot).dom with
    | some x, some d =>
      let y := chargedOf d r x (c.rslot r.slot).quota
      if x.cluster ≠ cl ∨ x.stage ≠ 2 ∨ c.chargeHeld d r x y then c
      else
        let (c, que) := c.quotaCheck
        let (c, ue) := if que then (c, false) else c.injR (pgRTE cl) 1 r.tag.toNat 0
        if que then
          let c := (c.errFree2 pgRQS 2).routeFail r .fenced 0
          c.setRslot r.slot { c.rslot r.slot with dom := none }
        else if ue then c.routeFail r .fenced 0
        else
          let c := ((c.setRslot r.slot { c.rslot r.slot with quota := y.quota }).injW pgRQS 0).chargeCounts cl y.os
          let c := (c.count pgRQS 3 x.count).count pgRQS 4 (if r.grant + 1 < r.clus.length then 1 else 0)
          let c := (c.count (pgRTE cl) 17 y.segs.length).count (pgRTE cl) 18 ((y.segs.flatMap (fun s => s.2)).length)
          let (r1, c) := c.bufWrite x.listH r.tag.toNat (listRec d r x y.segs)
          let (r2, c) := c.bufWrite x.savedH r.tag.toNat (savedRec r x y.ws)
          let c := (c.traceSaved d r x y.ws).setRoute y.run
          if r1 ≠ .ok then c.routeFail y.run .poisoned (c.bufPoison x.listH)
          else if r2 ≠ .ok then c.routeFail y.run .poisoned (c.bufPoison x.savedH)
          else
            let lc := ((c.cmd? r.queue r.index).map (fun k => k.lc)).getD false
            let c := y.notices.foldl (fun c p => c.sendNotice d r cl lc p) (c.publish y.run y.part)
            if y.run.grant < r.clus.length then c else c.relayEnd y.run d.e
    | _, _ => c

end Sys2Proof.Machine
end

