-- ==== Sys2Proof/Machine/Deliver.lean ====
section
/-!
DEFINITION. Return windows as ingress sees them (R106, R108) and the delivery of a packet's payload and counter increment at
its destination (R370 steps 5 to 7), for packets from the fabric and for the own node's packets over the NoC.
-/

namespace Sys2Proof.Machine

/-! ## Return windows (R106, R108) -/

def Chip.winOf (c : Chip) (w : Nat) : Win := Tab.get default c.rd.wins w
def Chip.setWin (c : Chip) (w : Nat) (x : Win) : Chip := { c with rd.wins := Tab.put default c.rd.wins w x }

/-- [a, a + n) lies in [base, base + size). -/
def inside (a n base size : Nat) : Bool := decide (base ≤ a) && decide (a + n ≤ base + size) && decide (a < base + size)

/-- The return area of a window holds a range. -/
def Win.inRet (x : Win) (a n : Nat) : Bool := inside a n x.retAddr (x.tokens * x.k * x.retBytes)
/-- Its arrival array holds a range. -/
def Win.inArr (x : Win) (a n : Nat) : Bool := inside a n x.arrAddr (x.experts * 32)

/-- Armed windows whose ranges hold a packet's address range. -/
def Chip.winsAt (c : Chip) (a n : Nat) : List Nat :=
  (List.range 64).filter (fun w => let x := c.winOf w; x.armed && (x.inRet a n || x.inArr a n))

/-- DRV_CTRL.TRACE: a header or an arrival record goes to a cluster's Vitrine (R119, R232). -/
def Chip.traceDrv (c : Chip) (cl kind : Nat) (data : List (BitVec 8)) : Chip :=
  if c.fld (pgDRV cl) 0x008 1 1 = 1 then c.vitWrite cl 6 (c.vitHead 4 0 0 0 0 0 0 ++ data.take 32 ++ toBytes 1 kind) else c

/-- What the return-window test makes of a packet (R108). -/
inductive RetRes where
  | accept (w : Nat)
  | stale (w : Nat)
  | none
  deriving DecidableEq, Repr

/-- R108. -/
def Chip.retTest (c : Chip) (a n epoch : Nat) : RetRes :=
  match (c.winsAt a n).find? (fun w => decide ((c.winOf w).epoch = epoch)) with
  | some w => .accept w
  | none => match c.winsAt a n with
    | w :: _ => .stale w
    | [] => .none

/-- A return-class packet that fails the test is dropped and counted (R108). -/
def Chip.retDrop (c : Chip) (node a n : Nat) : RetRes → Chip
  | .stale w => (c.count pgDWT (if (c.winOf w).inRet a n then 4 else 5) 1).err pgDWT 0 (node + w <<< 18) 0
  | _ => (c.count pgDWT 6 1).err pgDWT 1 node 0

/-- An accepted return-class packet has been written: an arrival record marks its expert, once (R108, R113, R115). -/
def Chip.retTaken (c : Chip) (w a n : Nat) (data : List (BitVec 8)) : Chip :=
  let x := c.winOf w
  if x.inRet a n then c.count pgDWT 2 1
  else if n ≠ 32 ∨ (a - x.arrAddr) % 32 ≠ 0 then c
  else
    let e := (a - x.arrAddr) / 32
    if x.marks.contains e then c.count pgDWT 11 1
    else
      let c := c.setWin w { x with marks := x.marks ++ [e], lastAt := c.time.ns,
                                   apply := if x.comb.isSome && x.mode then x.apply ++ [e] else x.apply }
      (maskClusters x.mask.toNat).foldl (fun c cl => c.traceDrv cl 1 data) (c.count pgDWT 3 1)

/-! ## Delivery (R370, R371) -/

/-- A packet as its destination sees it after admission and decryption. -/
structure Arrive where
  /-- R365. SRC_NODE. -/
  node : Nat
  /-- R365. JOB. -/
  job : Nat
  /-- R366. CLASS. -/
  cls : Nat
  /-- R365. DST_ADDR. -/
  addr : Nat
  /-- R365. EPOCH. -/
  epoch : Nat
  /-- R365. COUNTER, with CTR_EN 1. -/
  ctr : Option Nat
  /-- R365. Payload in plain text. -/
  data : List (BitVec 8)
  /-- R360. The packet never entered the fabric: it comes from the own node over the NoC. -/
  local_ : Bool
  /-- ERR_INFO0 and ERR_INFO1 of the CFB page for it (R394). -/
  info0 : Nat
  /-- R394. -/
  info1 : Nat
  deriving DecidableEq, Repr

/-- A refusal under R288 or R262: ABORTED and ACCESS from the fabric (R371, R394); from the own node, an ignored access to a
reserved address of the page given (R15, R288). -/
def Chip.refuse (c : Chip) (p : Arrive) (page : Nat) : Status × Chip :=
  if p.local_ then (.ok, c.badAddr page p.addr true) else (.aborted, (c.count pgCFB 10 1).err pgCFB 3 p.info0 p.info1)

/-- A counter operation of a packet under R262 (FENCED where the counter's cluster is fenced, R532). -/
def Chip.deliverCtr (c : Chip) (p : Arrive) (k : Nat) (set : Bool) (v : Nat) : Status × Chip :=
  if c.clFenced (k / 1024) then (.fenced, c)
  else
    let ok : Bool := match c.ctxOfJob p.job with | some (_, x) => x.hasCtrs k 1 | none => false
    let c := c.ctrFabric p.job p.node k set v
    if ok then (.ok, c) else if p.local_ then (.aborted, c) else (.aborted, (c.count pgCFB 10 1).err pgCFB 3 p.info0 p.info1)

/-- A payload for the tiled range is written at its home; none: a MOVING tile holds it (R288, R294). -/
def Chip.deliverMem (c : Chip) (p : Arrive) : Option Status × Chip :=
  if p.data = [] then (some .ok, c)
  else
    let inWin : Bool := match c.ctxOfJob p.job with | some (_, x) => x.covers p.addr p.data.length | none => false
    if ¬ inWin then let (st, c) := c.refuse p pgHOM; (some st, c)
    else
      let (r, c) := c.mwrite 0 p.addr p.data
      match r with
      | .held => (none, c)
      | .poisoned => (some .poisoned, c)
      | .ok => (some .ok, c)

/-- The mailbox that a post's offset names (R339, R340). -/
def mbxAt (off : Nat) : Option Nat :=
  if off % 32 ≠ 0 then none else if off < 0x10000 then some (off / 32) else if off < 0x18000 then some (2048 + (off - 0x10000) / 32) else none

/-- The mailbox that an offset of the mailbox region lies in (R339). -/
def mbxIn (off : Nat) : Option Nat := mbxAt (off / 32 * 32)

/-- The page that decodes an offset of the mailbox region (R582). -/
def mbxPage (off : Nat) : Nat :=
  match mbxIn off with
  | some b => pgMBX (mbxCluster b)
  | none => if 0x20000 ≤ off ∧ off < 0x20840 then pgFE else pgIRQ

/-- The page of the block that decodes an address (R582). -/
def badPage (a : Nat) : Nat :=
  match region a with
  | .tiled _ => pgHOM
  | .sys _ => pgHOM
  | .lmem n _ => pgCORE n
  | .imem n _ => pgCORE n
  | .ctr k _ => pgCNT (k / 1024)
  | .page p _ => if (blockOf p).isSome then p else pgIRQ
  | .mbx off => mbxPage off
  | .none => pgIRQ

/-- A packet that R288, R343 or R351 refuses, by the page of the block that decodes its address. -/
def Chip.refuseAt (c : Chip) (p : Arrive) : Status × Chip := c.refuse p (badPage p.addr)

/-- A WRITE to the mailbox region: BUF_RETAIN, BUF_RELEASE and the doorbells (R340, R351). -/
def Chip.deliverMbx (c : Chip) (p : Arrive) (off : Nat) : Status × Chip :=
  let v := ofBytes p.data
  let n := p.data.length
  if off = 0x18000 ∧ n = 4 then c.bufRetain v (some p.job) p.node
  else if off = 0x18004 ∧ n = 4 then c.bufRelease v (some p.job) p.node
  else if 0x20000 ≤ off ∧ off < 0x20840 ∧ off % 8 = 0 ∧ (n = 4 ∨ n = 8) then
    let q := (off - 0x20000) / 8
    if ((c.ctxOf (c.qCtx q)).map (fun x => x.job)) = some p.job then (.ok, c.cmdqTail q (BitVec.ofNat 32 v)) else c.refuseAt p
  else c.refuseAt p

/-- The class rules of a WRITE (R288, R315, R351, R585). None: a MOVING tile holds it (R294). -/
def Chip.deliverWrite (c : Chip) (p : Arrive) : Option Status × Chip :=
  if p.data = [] then (some .ok, c)
  else
    match region p.addr with
    | .tiled _ =>
      let inWin : Bool := match c.ctxOfJob p.job with | some (_, x) => x.covers p.addr p.data.length | none => false
      if inWin ∧ c.noticeHeld p.job p.addr p.data then (none, c)
      else
        let (c, hit) := if inWin then c.noticeWrite p.job p.node p.addr p.data else (c, false)
        if hit then (some .ok, c) else c.deliverMem p
    | .ctr k off =>
      let (st, c) := if p.data.length = 4 ∧ (off = 0 ∨ off = 4) then c.deliverCtr p k (decide (off = 0)) (ofBytes p.data)
        else c.refuseAt p
      (some st, c)
    | .mbx off => let (st, c) := c.deliverMbx p off; (some st, c)
    | _ => let (st, c) := c.refuseAt p; (some st, c)

/-- The class rules of a RETURN (R108); the answer also says whether it was written. -/
def Chip.deliverReturn (c : Chip) (p : Arrive) : Option Status × Bool × Chip :=
  match c.retTest p.addr p.data.length p.epoch with
  | .accept w =>
    let (r, c) := c.deliverMem p
    match r with
    | none => (none, false, c)
    | some .ok => (some .ok, true, c.retTaken w p.addr p.data.length p.data)
    | some st => (some st, false, c)
  | t => (some .ok, false, c.retDrop p.node p.addr p.data.length t)

/-- The class rules of a POST (R343, R344, R346). -/
def Chip.deliverPost (c : Chip) (p : Arrive) : Status × Chip :=
  let v := ofBytes p.data
  let sender := bits v 111 80
  match region p.addr with
  | .mbx off =>
    match mbxAt off with
    | some b =>
      if sender / 2 ^ 14 ≠ p.node then (.aborted, (c.count pgCFB 16 1).err pgCFB 8 p.info0 p.info1)
      else c.mbxPost b (bits v 63 0) (bits v 79 64) sender p.job true
    | none => c.refuseAt p
  | _ => c.refuseAt p

/-- Deliver a packet of class WRITE, RETURN or POST: its payload, then its counter increment. None: a MOVING tile holds it. -/
def Chip.deliver (c : Chip) (p : Arrive) : Option Status × Chip :=
  let (st, written, c) :=
    match p.cls with
    | 1 => c.deliverReturn p
    | 2 => let (st, c) := c.deliverPost p; (some st, false, c)
    | _ => let (st, c) := c.deliverWrite p; (st, decide (st = some Status.ok), c)
  match st, p.ctr with
  | some .ok, some k => if written then let (s, c) := c.deliverCtr p k false 1; (some s, c) else (some .ok, c)
  | _, _ => (st, c)

/-- A packet from a unit of this die to its own node (R360). -/
def Chip.deliverOwn (c : Chip) (cls job addr epoch : Nat) (ctr : Option Nat) (data : List (BitVec 8)) : Option Status × Chip :=
  c.deliver ⟨c.node, job, cls, addr, epoch, ctr, data, true, 0, 0⟩

end Sys2Proof.Machine
end

