-- ==== Sys2Proof/Machine/Drover.lean ====
section
/-!
DEFINITION. The Drovers and the return windows (chapter 03): DISPATCH, RETURN, CANCEL and COMBINE.
-/

namespace Sys2Proof.Machine

/-! ## Commands on Drovers -/

/-- Fields of a running command's operand block. -/
def DRun.f (d : DRun) (hi lo : Nat) : Nat := bits d.op.toNat hi lo

/-- The Drover page that a whole-command check is logged in: the lowest participating cluster's (log 114). -/
def firstOf (cls : List Nat) : Nat := cls.head?.getD 0

/-- A DISPATCH check fails with MALFORMED: LIST_CHECK (2) or QMAX (3) (R88). -/
def Chip.dispBad (c : Chip) (k : Cmd) (cls : List Nat) (bit_ : Nat) : Chip :=
  (c.err (pgDRV (firstOf cls)) bit_ k.tag.toNat 0).endWork k.queue k.index .malformed 0

/-- Participating Drovers: FENCED when a cluster is fenced, ABORTED when one is disabled (R89). -/
def Chip.drvCheck (c : Chip) (cls : List Nat) : Status :=
  if cls.any (fun cl => c.clFenced cl) then .fenced
  else if cls.any (fun cl => decide (c.fld (pgDRV cl) 0x008 0 0 = 0)) then .aborted else .ok

/-- N items divided among n Drovers: first and one past the last item of the Drover at position j (R91). -/
def portion (n total j : Nat) : Nat × Nat :=
  let big := total % n
  let q := total / n
  let start := fun (i : Nat) => i * q + min i big
  (start j, start (j + 1))

/-- DRV_CUR of the participating Drovers, and the counter of their commands. -/
def Chip.drvBegin (c : Chip) (cls : List Nat) (k : Cmd) (ctr : Nat) : Chip :=
  cls.foldl (fun (c : Chip) cl => ((c.injW (pgDRV cl) 0).setReg (pgDRV cl) 0x200 (k.tag.toNat <<< 32 + k.queue <<< 23)).count (pgDRV cl) ctr 1) c

/-- A running command has issued everything: it ends once its packets have completed. -/
def Chip.drunDone (c : Chip) (d : DRun) : Chip :=
  if d.clus.all (fun (x : DClu) => decide (x.last ≤ x.next)) then c.overDrun d .ok 0 else c

/-- A command of the Drovers that is held starts before another (R23): the clash says which compete with it. -/
def Chip.unitBehind (c : Chip) (k : Cmd) (clash : Cmd → Bool) : Bool := c.allCmds.any (fun m => m.heldBefore k && clash m)

/-- The ROUTE that a DISPATCH follows has started, or it follows none (R90). -/
def Chip.routeKnown (c : Chip) (k : Cmd) : Bool :=
  let tag := BitVec.ofNat 32 (k.f 114 83)
  decide (k.f 115 115 = 0) || c.rd.routes.any (fun (r : RouteRun) => decide (r.ctx = k.ctx) && decide (r.tag = tag)) ||
    c.rd.rtags.any (fun e => decide (e.1 = k.ctx) && decide (e.2.1 = tag))

/-! ## Windows (R106 to R110) -/

/-- The window becomes IDLE and releases its buffer references (R109, R110, R337). -/
def Chip.winIdle (c : Chip) (w tag : Nat) : Chip :=
  let x := c.winOf w
  let c := x.refs.foldl (fun c h => (c.bufRelease h none tag).2) c
  c.setWin w { x with armed := false, refs := [], marks := [], comb := none, lists := [], done := [], apply := [] }

/-- One reference for each buffer of the record; the answer says whether every retain was accepted, with those added (R337). -/
def Chip.retainAll (c : Chip) (tag : Nat) : List Nat → Bool × List Nat × Chip
  | [] => (true, [], c)
  | h :: hs =>
    if h % 256 = 0 then c.retainAll tag hs
    else
      let (st, c) := c.bufRetain h none tag
      if st = .ok then
        let (ok, xs, c) := c.retainAll tag hs
        (ok, h :: xs, c)
      else (false, [], c)

/-- A route result record as a DISPATCH uses it, read from memory or known from the ROUTE it follows. -/
structure RouteInfo where
  /-- R69. CLUSTER_MASK. -/
  mask : Nat
  /-- R69. DOMAIN_TAG. -/
  dom : Nat
  /-- R69. TOKENS. -/
  tokens : Nat
  /-- R69. K. -/
  k : Nat
  /-- R69. EPOCH. -/
  epoch : Nat
  /-- R69. LISTS_VALID. -/
  valid : Bool
  /-- R69. Dispatch-list handle and saved-index handle of each participating cluster. -/
  handles : List (Nat × Nat × Nat)
  /-- R69. COUNT_HANDLE. -/
  countH : Nat
  /-- R90. The ROUTE followed. -/
  follow : Option (Nat × BitVec 32)
  deriving DecidableEq, Repr

/-- From the 576 bytes of a record (R69). -/
def infoOf (bs : List (BitVec 8)) : RouteInfo :=
  let h := ofBytes (bs.take 64)
  { mask := bits h 511 448, dom := bits h 447 432, tokens := bits h 431 416, k := bits h 415 412, epoch := bits h 411 404, valid := bit h 403,
    handles := (maskClusters (bits h 511 448)).map (fun cl =>
      let e := ofBytes ((bs.drop (64 + 8 * cl)).take 8)
      (cl, bits e 31 0, bits e 63 32)),
    countH := bits h 383 352, follow := none }

/-- From a ROUTE that runs (R90). -/
def RouteRun.info (r : RouteRun) : RouteInfo :=
  { mask := r.f 511 448, dom := r.f 355 340, tokens := r.f 339 324, k := r.f 283 280, epoch := r.f 291 284,
    valid := decide (r.f 339 324 ≠ 0) && decide (r.f 283 280 ≠ 0),
    handles := r.clus.map (fun (x : RClu) => (x.cluster, x.listH, x.savedH)), countH := r.countH, follow := some (r.queue, r.index) }

/-- What a DISPATCH finds when it looks for its route record. -/
inductive InfoRes where
  | found (x : RouteInfo)
  | wait
  | fail (st : Status)
  | badCrc
  deriving DecidableEq, Repr

/-- The route record of a DISPATCH (R88, R90). -/
def Chip.routeInfo (c : Chip) (k : Cmd) : InfoRes × Chip :=
  let a := k.f 447 402
  let read := fun (c : Chip) =>
    let (r, bs, c) := c.mread k.tag.toNat a 576
    match r with
    | .held => (InfoRes.wait, c)
    | .poisoned => (InfoRes.fail .poisoned, c)
    | .ok => (if crcOk bs then InfoRes.found (infoOf bs) else InfoRes.badCrc, c)
  if k.f 115 115 = 0 then read c
  else
    let tag := BitVec.ofNat 32 (k.f 114 83)
    match c.rd.routes.find? (fun (r : RouteRun) => decide (r.ctx = k.ctx) && decide (r.tag = tag)) with
    | some r => (.found r.info, c)
    | none =>
      match c.rd.rtags.find? (fun e => decide (e.1 = k.ctx) && decide (e.2.1 = tag)) with
      | some (_, _, true) => read c
      | some (_, _, false) => (.fail .aborted, c)
      | none => (.wait, c)

/-- Lists of the clusters that have published theirs, and USED once the relay is over (R88, R90). -/
def Chip.takeLists (c : Chip) (tag : Nat) (x : RouteInfo) : Got (List DList × Option (List Nat)) × Chip :=
  if ¬ x.valid then (.ok ([], none), c)
  else
    let run := c.rd.routes.find? (fun (r : RouteRun) => decide (some (r.queue, r.index) = x.follow))
    let open_ : Nat → Bool := fun (cl : Nat) => match run with
      | some r => (match r.part cl with | some p => decide (p.stage = 6) | none => false)
      | none => true
    let relayOver : Bool := match run with | some r => decide (r.grant = r.clus.length) | none => true
    match c.readAllLists tag (x.handles.filter (fun h => open_ h.1)) with
    | (.ok ls, c) =>
      if ¬ relayOver then (.ok (ls, none), c)
      else match c.readUsed tag x.countH with
        | (.ok u, c) => (.ok (ls, some u), c)
        | (.wait, c) => (.wait, c)
        | (.fail st i, c) => (.fail st i, c)
        | (.bad, c) => (.bad, c)
    | (.wait, c) => (.wait, c)
    | (.fail st i, c) => (.fail st i, c)
    | (.bad, c) => (.bad, c)

/-- The window as a DISPATCH arms it (R106). -/
def armedWin (x : Win) (k : Cmd) (i : RouteInfo) (d : Domain) (refs : List Nat) : Win :=
  { x with armed := true, tag := k.tag, domTag := d.tag, dseq := k.f 137 122, retAddr := k.f 309 264, retBytes := k.f 201 186,
           arrAddr := k.f 263 218, retCtr := k.f 153 138, resAddr := k.f 447 402, mask := BitVec.ofNat 64 i.mask, tokens := i.tokens,
           k := i.k, experts := d.e, expect := d.dest.length, refs := refs, marks := [], comb := none, mode := false, lists := [],
           done := [], apply := [], lastAt := 0 }

/-! ## DISPATCH (R87 to R97) -/

/-- The operand block is lawful (R10, R88). -/
def dispForm (k : Cmd) (x : Ctx) : Bool :=
  decide (k.f 511 448 = 0) && decide (k.f 82 8 = 0) && decide (k.f 217 202 % 64 = 0) && decide (k.f 217 202 ≤ 32768) &&
    decide (k.f 201 186 % 64 = 0) && decide (k.f 201 186 ≤ 32768) && decide (k.f 447 402 % 64 = 0) && decide (k.f 401 356 % 64 = 0) &&
    decide (k.f 355 310 % 32 = 0) && decide (k.f 309 264 % 256 = 0) && decide (k.f 263 218 % 256 = 0) && x.covers (k.f 447 402) 576

/-- Positions in the destination order where a new node begins (R91). -/
def nodeStarts (d : Domain) (order : List Nat) : List Nat :=
  (List.range order.length).filter (fun p =>
    p = 0 || decide ((d.ex ((order[p]?).getD 0)).node ≠ (d.ex ((order[p - 1]?).getD 0)).node))

/-- The Drovers' shares of a DISPATCH: whole nodes in destination order (R91). -/
def dispShares (d : Domain) (cls : List Nat) : List DClu :=
  let order := d.dest
  let starts := nodeStarts d order ++ [order.length]
  let nodes := starts.length - 1
  cls.zipIdx.map (fun p =>
    let (a, b) := portion cls.length nodes p.2
    ⟨p.1, (starts[a]?).getD order.length, (starts[b]?).getD order.length, 0, [], [], []⟩)

/-- A DISPATCH has its window and starts. -/
def Chip.dispStart (c : Chip) (k : Cmd) (i : RouteInfo) (s : Nat) (d : Domain) (job : Nat) (ls : List DList) (used : Option (List Nat)) : Chip :=
  let cls := maskClusters i.mask
  let c := c.drvBegin cls k 0
  let c := c.setCmd { k with phase := .running, left := 0 }
  let r : DRun := { queue := k.queue, index := k.index, tag := k.tag, kind := 1, ctx := k.ctx, job := job, op := k.op, slot := s, epoch := i.epoch,
                    k := i.k, follow := i.follow, valid := i.valid, lists := ls, used := if i.valid then used else some [],
                    clus := dispShares d cls, over_ := false }
  ({ c with rd.drovers := c.rd.drovers ++ [r] }).drunDone r

/-- DISPATCH. -/
def Chip.dispatch (c : Chip) (q : Nat) (idx : BitVec 32) : Chip :=
  match c.unitCmd q idx 3 0, (c.cmd? q idx).bind (fun k => c.ctxOf k.ctx) with
  | some k, some x =>
    if ¬ dispForm k x then c.malformed k
    else
      let (res, c) := c.routeInfo k
      match res with
      | .wait => c.holdCmd k
      | .fail st => c.endWork q idx st (if st = .poisoned then k.f 447 402 / 32768 else 0)
      | .badCrc => c.dispBad k [] 2
      | .found i =>
        let cls := maskClusters i.mask
        match c.findDomain k.ctx i.dom with
        | none => c.domainMiss k
        | some (s, d) =>
          let t := i.tokens
          if d.experts.any (fun y => y.valid && decide (y.quota > k.f 185 170)) then c.dispBad k cls 3
          else
            let (got, c) := c.takeLists k.tag.toNat i
            match got with
            | .wait => c.holdCmd k
            | .fail st info => c.endWork q idx st info
            | .bad => c.dispBad k cls 2
            | .ok (ls, used) =>
              if (i.valid ∧ ¬ x.covers (k.f 401 356) (t * k.f 217 202)) ∨ ¬ x.covers (k.f 309 264) (t * i.k * k.f 201 186) ∨
                  ¬ x.covers (k.f 263 218) (32 * d.e) then c.malformed k
              else
                let w := c.winOf (k.f 121 116)
                let resend := w.armed && decide (w.dseq = k.f 137 122) && decide (w.resAddr = k.f 447 402)
                let rival := fun (m : Cmd) => decide (m.type = 3) && decide (m.f 7 0 = 0) && decide (m.f 121 116 = k.f 121 116) && c.routeKnown m
                if c.drvCheck cls ≠ .ok then c.endWork q idx (c.drvCheck cls) 0
                else if (w.armed ∧ ¬ resend) ∨ (¬ resend ∧ c.unitBehind k rival) then c.holdCmd k
                else if i.epoch ≠ w.epoch then c.endWork q idx .epoch 0
                else
                  let (ready, c) := c.needClusters cls k.lc
                  if ¬ ready then c.holdCmd k
                  else if resend then c.dispStart k i s d x.job ls used
                  else
                    let hs := if i.valid then i.handles.flatMap (fun h => [h.2.1, h.2.2]) ++ [i.countH] else []
                    let (ok, added, c) := c.retainAll k.tag.toNat hs
                    if ok then ((c.setWin (k.f 121 116) (armedWin w k i d added)).count pgDWT 0 1).dispStart k i s d x.job ls used
                    else (added.foldl (fun c h => (c.bufRelease h none k.tag.toNat).2) c).endWork q idx .aborted 0
  | _, _ => c

/-- The pieces of a range of a block's bytes: row j lies at `at_ j` and has rb bytes (R92). -/
def gather (rb : Nat) (at_ : Nat → Nat) : Nat → Nat → Nat → List (Nat × Nat)
  | 0, _, _ => []
  | f + 1, o, n =>
    if n = 0 ∨ rb = 0 then []
    else
      let m := min n (rb - o % rb)
      (at_ (o / rb) + o % rb, m) :: gather rb at_ f (o + m) (n - m)

/-- What a Drover can do next: nothing, a POISONED tile, a block that is rejected, or a packet, with the Drover's part after it, the
rows that the packet completes, and the record and COUNT of a block that it ends. -/
inductive DNext where
  | wait
  | poison (a : Nat)
  | reject (block : Nat)
  | send (y : DClu) (node addr cls epoch : Nat) (ctr : Option Nat) (data : List (BitVec 8)) (block rows : Nat)
      (ends : Option (List (BitVec 8) × Nat))

/-- A block is finished: the Drover stands at its next one. -/
def nextBlock (y : DClu) : DClu := { y with next := y.next + 1, pos := Tab.get 0 y.ahead (y.next + 1), ahead := Tab.del y.ahead (y.next + 1), hdr := [] }

/-- Packets of a block that have been issued. -/
def DClu.issued (y : DClu) (b : Nat) : Nat := if b = y.next then y.pos else Tab.get 0 y.ahead b

/-- One more packet of a block has been issued. -/
def DClu.sent (y : DClu) (b : Nat) : DClu :=
  if b = y.next then { y with pos := y.pos + 1 } else { y with ahead := Tab.put 0 y.ahead b (Tab.get 0 y.ahead b + 1) }

/-- Rows of rb bytes that bytes o to o + n of a block complete. -/
def rowsIn (rb o n : Nat) : Nat := if rb = 0 then 0 else (o + n) / rb - o / rb

/-- Read pieces of memory for a Drover: none while a tile moves; the address of a POISONED one (R294). Bytes outside the
context's window read zero and are logged as a reserved address (R288). -/
def Chip.readPieces (c : Chip) (x : Ctx) (tag : Nat) (ps : List (Nat × Nat)) : Option (List (BitVec 8)) × Option Nat × Chip :=
  if ps.any (fun p => x.covers p.1 p.2 && decide (c.accRes p.1 p.2 = .held)) then (none, none, c)
  else
    let (bs, bad, c) := ps.foldl (fun (a : List (BitVec 8) × Option Nat × Chip) p =>
      if ¬ x.covers p.1 p.2 then (a.1 ++ List.replicate p.2 0, a.2.1, a.2.2.badAddr pgHOM p.1 false)
      else
        let (r, d, c) := a.2.2.mread tag p.1 p.2
        (a.1 ++ d, if r = .ok then a.2.1 else a.2.1.or (some p.1), c)) ([], none, c)
    (some bs, bad, c)

/-- The header record of a block: 32-B block header and tag entries, with HDR_CRC (R86). -/
def blockHdr (r : DRun) (d : Domain) (node e count : Nat) (es : List (BitVec 32)) : List (BitVec 8) :=
  let h := bits (r.f 309 264) 45 8 <<< 218 + node <<< 200 + r.f 137 122 <<< 184 + r.epoch <<< 176 + count <<< 160 + e <<< 146 + r.k <<< 142 +
    r.f 153 138 <<< 126 + bits (r.f 263 218) 45 8 <<< 88 + d.srcRank <<< 70 + r.f 201 186 <<< 54 + (d.ex e).quota <<< 38
  withCrc (toBytes 32 h ++ es.flatMap (fun w => toBytes 4 w.toNat))

/-- The entries of a block's rows that are known: the expert's in the lists taken so far (R92). -/
def DRun.rows (r : DRun) (e : Nat) : List (BitVec 32) :=
  r.lists.flatMap (fun l => (l.segs.filter (fun s => decide (s.1 = e))).flatMap (fun s => s.2.2))

/-- The block that a DISPATCH's Drover issues from: its first, or the first of them with a full packet while the relay runs (R92). -/
def DRun.blockAt (r : DRun) (d : Domain) (y : DClu) : Option Nat :=
  if r.used.isSome then some y.next
  else ((List.range (y.last - y.next)).map (· + y.next)).find? (fun b =>
    decide (2048 * (y.issued b + 1) ≤ (r.rows ((d.dest[b]?).getD 0)).length * r.f 217 202))

/-- The next packet of a DISPATCH's Drover (R92, R93). -/
def Chip.dispNext (c : Chip) (r : DRun) (d : Domain) (x : Ctx) (y : DClu) : DNext × Chip :=
  match r.blockAt d y with
  | none => (.wait, c)
  | some b =>
    let e := (d.dest[b]?).getD 0
    let ex := d.ex e
    let rb := r.f 217 202
    let rows := r.rows e
    let known := rows.length * rb
    let pos := y.issued b
    let o := 2048 * pos
    let block := e + d.srcRank <<< 14
    if o < known then
      let n := min 2048 (known - o)
      let tokenAt := fun (j : Nat) => r.f 401 356 + bits (((rows[j]?).getD 0).toNat) 31 17 * rb
      let (bs, bad, c) := c.readPieces x r.tag.toNat (gather rb tokenAt (n / max rb 1 + 2) o n)
      match bs, bad with
      | none, _ => (.wait, c)
      | some _, some a => (.poison a, c)
      | some bs, none =>
        (.send (y.sent b) ex.node (ex.penBase * 256 + d.srcRank * ex.quota * rb + o) 0 r.epoch none bs block (rowsIn rb o n) none, c)
    else
      let count := if r.valid then ((r.used.getD [])[e]?).getD 0 else 0
      let first := ((List.range d.dest.length).find? (fun p => decide ((d.ex ((d.dest[p]?).getD 0)).node = ex.node))).getD 0
      let i := b - first
      let rec_ := blockHdr r d c.node e count rows
      let a := r.f 355 310 + (i * d.sources + d.srcRank) * hdrStride (r.f 185 170)
      let j := pos - (known + 2047) / 2048
      let extra := (rec_.length - 1) / 2048
      if j < extra then
        (.send (y.sent b) ex.node (a + 2048 * (j + 1)) 0 r.epoch none ((rec_.drop (2048 * (j + 1))).take 2048) block 0 none, c)
      else
        (.send (nextBlock y) ex.node a 0 r.epoch (some ((r.f 169 154 + i) % 65536)) (rec_.take 2048) block
          (if rb = 0 then rows.length else 0) (some (rec_, count)), c)

/-! ## RETURN (R102 to R105) -/

/-- RETURN. -/
def Chip.retrn (c : Chip) (q : Nat) (idx : BitVec 32) : Chip :=
  match c.unitCmd q idx 3 1, (c.cmd? q idx).bind (fun k => c.ctxOf k.ctx) with
  | some k, some x =>
    let rival := fun (m : Cmd) => decide (m.type = 3) && decide (m.f 7 0 = 1) && decide ((m.f 511 448) &&& (k.f 511 448) ≠ 0)
    if k.f 241 8 ≠ 0 ∨ k.f 309 295 > 16384 ∨ k.f 276 258 > 262144 then c.malformed k
    else
      match c.findDomain k.ctx (k.f 355 340) with
      | none => c.domainMiss k
      | some (s, d) =>
        let cls := maskClusters (k.f 511 448)
        let mine := (d.dest.filter (fun e => decide ((d.ex e).node = c.node))).length
        let lf := k.f 323 310
        let ln := k.f 309 295
        let sf := k.f 294 277
        let sn := k.f 276 258
        let stride := hdrStride (k.f 257 242)
        let total := ln * sn
        let span := if total = 0 then 0 else ((ln - 1) * d.sources + sn) * stride
        if lf + ln > mine ∨ sf + sn > d.sources ∨ ¬ x.covers (k.f 447 402 + (lf * d.sources + sf) * stride) span then c.malformed k
        else if c.drvCheck cls ≠ .ok then c.endWork q idx (c.drvCheck cls) 0
        else
          let (ready, c) := c.needClusters cls k.lc
          if ¬ ready ∨ c.unitBehind k rival then c.holdCmd k
          else
            let c := c.drvBegin cls k 1
            let c := c.setCmd { k with phase := .running, left := 0 }
            let r : DRun := { queue := q, index := idx, tag := k.tag, kind := 2, ctx := k.ctx, job := x.job, op := k.op, slot := s, epoch := 0,
                              k := 0, follow := none, valid := true, lists := [], used := none,
                              clus := cls.zipIdx.map (fun p => let (a, b) := portion cls.length total p.2; ⟨p.1, a, b, 0, [], [], []⟩), over_ := false }
            ({ c with rd.drovers := c.rd.drovers ++ [r] }).drunDone r
  | _, _ => c

/-- Whether a header record passes the checks of R103; `bs` holds the block header and its tag entries. -/
def hdrGood (bs : List (BitVec 8)) (qmax dseq quota : Nat) : Bool :=
  let h := ofBytes (bs.take 32)
  decide (bits h 175 160 ≤ qmax) && crcOk (bs.take (32 + 4 * bits h 175 160)) && decide (bits h 199 184 = dseq) && decide (bits h 53 38 = quota)

/-- The next packet of a RETURN's Drover, with the block's header record as read. -/
def Chip.retNext (c : Chip) (r : DRun) (d : Domain) (x : Ctx) (y : DClu) : DNext × List (BitVec 8) × Chip :=
  let sn := max (r.f 276 258) 1
  let i := r.f 323 310 + y.next / sn
  let rank := r.f 294 277 + y.next % sn
  let qmax := r.f 257 242
  let mine := d.dest.filter (fun e => decide ((d.ex e).node = c.node))
  let e := (mine[i]?).getD 0
  let ex := d.ex e
  let block := e + rank <<< 14
  let a := r.f 447 402 + (i * d.sources + rank) * hdrStride qmax
  let (rec_, bad, c) := if y.hdr ≠ [] then (some y.hdr, none, c) else c.readPieces x r.tag.toNat [(a, 32 + 4 * qmax)]
  match rec_, bad with
  | none, _ => (.wait, [], c)
  | some _, some p => (.poison p, [], c)
  | some bs, none =>
    if ¬ hdrGood bs qmax (r.f 339 324) ex.quota then (.reject block, bs, c)
    else
      let h := ofBytes (bs.take 32)
      let count := bits h 175 160
      let rb := bits h 69 54
      let parts := (rb + 2047) / 2048
      let node := bits h 217 200
      let epoch := bits h 183 176
      if y.pos < count * parts then
        let j := y.pos / parts
        let o := 2048 * (y.pos % parts)
        let n := min 2048 (rb - o)
        let t := ofBytes ((bs.drop (32 + 4 * j)).take 4)
        let src := ex.penBase * 256 + r.f 401 356 + (bits h 87 70 * ex.quota + j) * rb + o
        let (row, bad, c) := c.readPieces x r.tag.toNat [(src, n)]
        match row, bad with
        | none, _ => (.wait, bs, c)
        | some _, some p => (.poison p, bs, c)
        | some row, none =>
          (.send (y.sent y.next) node (bits h 255 218 * 256 + (bits t 31 17 * bits h 145 142 + bits t 16 14) * rb + o) 1 epoch none row block
            (if o + n = rb then 1 else 0) none, bs, c)
      else
        let w := bits h 159 146 <<< 242 + count <<< 226 + epoch <<< 218 + bits h 199 184 <<< 202 + c.node <<< 184
        let arr := withCrc (toBytes 32 w)
        (.send (nextBlock y) node (bits h 125 88 * 256 + bits h 159 146 * 32) 1 epoch (some (bits h 141 126)) arr block
          (if rb = 0 then count else 0) (some (arr, count)), bs, c)

/-! ## DROVER_ISSUE (R92, R95, R104) -/

/-- Replace a Drover's part. -/
def DRun.setPart (r : DRun) (y : DClu) : DRun := { r with clus := r.clus.map (fun (z : DClu) => if z.cluster = y.cluster then y else z) }

/-- Counters of a packet that a Drover has sent (R121): rows as it completes them; a block with its last packet, one of COUNT 0 as a
zero block too (log 161). -/
def Chip.drvCount (c : Chip) (cl kind n rows : Nat) (ends : Option (List (BitVec 8) × Nat)) : Chip :=
  let c := ((c.count (pgDRV cl) 6 1).count (pgDRV cl) 7 n).count (pgDRV cl) (if kind = 1 then 3 else 9) rows
  match ends with
  | none => c
  | some (rec_, count) =>
    let c := c.traceDrv cl (kind - 1) rec_
    if kind = 1 then (c.count (pgDRV cl) 4 1).count (pgDRV cl) 5 (if count = 0 then 1 else 0) else c.count (pgDRV cl) 10 1

/-- One packet of a Drover leaves: over the NoC to the own node, else with a tag (R95, R360). -/
def Chip.drvSend (c : Chip) (r : DRun) (y : DClu) (node addr cls epoch : Nat) (ctr : Option Nat) (data : List (BitVec 8)) (block rows : Nat)
    (ends : Option (List (BitVec 8) × Nat)) : Chip :=
  let r' := r.setPart y
  if node = c.node then
    let (st, c) := c.deliverOwn cls r.job addr epoch ctr data
    match st with
    | none => c
    | some st =>
      let c := (c.drvCount y.cluster r.kind data.length rows ends).modCmd r.queue r.index (fun k =>
        if k.status = .ok then { k with status := st } else k)
      (c.setDrun r').drunDone r'
  else
    let by_ := TagBy.drover y.cluster r.queue r.index block
    if ¬ c.mayAsk by_ then c
    else
      let lc := ((c.cmd? r.queue r.index).map (fun k => k.lc)).getD false
      let c := (c.setDrun r').modCmd r.queue r.index (fun k => { k with left := k.left + 1 })
      let c := c.drvCount y.cluster r.kind data.length rows ends
      let c := c.txn by_ (mkHdr cls node addr r.job data.length epoch ctr ctr.isSome) data lc none
      -- the tag may have completed at once with PATH_LOST, which marks the block in the run
      match c.rd.drovers.find? (fun (z : DRun) => decide (z.queue = r.queue) && decide (z.index = r.index)) with
      | some z => c.drunDone z
      | none => c

/-- A RETURN's block that fails its checks sends nothing; the RETURN ends MALFORMED after its other blocks (R103). -/
def Chip.hdrReject (c : Chip) (r : DRun) (y : DClu) (block : Nat) : Chip :=
  let c := (c.count (pgDRV y.cluster) 15 1).err (pgDRV y.cluster) 8 r.tag.toNat block
  let c := c.modCmd r.queue r.index (fun k => if k.status = .ok then { k with status := .malformed, info := BitVec.ofNat 32 block } else k)
  let r' := r.setPart (nextBlock y)
  (c.setDrun r').drunDone r'

/-- One step of a Drover for one command: whether it did something, and the chip. An uncorrectable error in its state stops the
command with FENCED (R120). -/
def Chip.drvStep (c : Chip) (cl : Nat) (r : DRun) : Bool × Chip :=
  match r.clus.find? (fun (y : DClu) => decide (y.cluster = cl)), (c.rslot r.slot).dom, c.ctxOf r.ctx with
  | some y, some d, some x =>
    if r.over_ ∨ y.last ≤ y.next then (false, c)
    else
      let (c, ue) := c.injR (pgDRV cl) 0 r.tag.toNat 0
      if ue then (true, c.stopDrun r .fenced 0)
      else
        let (nx, hdr, c) := if r.kind = 1 then let (n, c) := c.dispNext r d x y; (n, y.hdr, c) else c.retNext r d x y
        match nx with
        | .wait => (false, c)
        | .poison a => (true, c.stopDrun r .poisoned (a / 32768))
        | .reject b => (true, c.hdrReject r y b)
        | .send y' node addr cls epoch ctr data b rows ends =>
          (true, c.drvSend r (if ends.isSome then y' else { y' with hdr := hdr }) node addr cls epoch ctr data b rows ends)
  | _, _, _ => (false, c)

/-- The first of a list of commands that has something to issue at a Drover issues it. -/
def Chip.drvFirst (c : Chip) (cl : Nat) : List DRun → Chip
  | [] => c
  | r :: rs =>
    let (did, c') := c.drvStep cl r
    if did then c' else c.drvFirst cl rs

/-- The level of a running DISPATCH or RETURN. -/
def Chip.drunLc (c : Chip) (r : DRun) : Bool := ((c.cmd? r.queue r.index).map (fun k => k.lc)).getD false

/-- DROVER_ISSUE: LC commands before BE ones, each oldest first (R23, R271). -/
def Chip.droverIssue (c : Chip) (cl : Nat) : Chip :=
  c.drvFirst cl (c.rd.drovers.filter (fun r => c.drunLc r) ++ c.rd.drovers.filter (fun r => !(c.drunLc r)))

/-! ## CANCEL (R109) -/

/-- A running COMBINE ends with a failure; its window stays ARMED (R110). -/
def Chip.combFail (c : Chip) (w : Nat) (st : Status) (info : Nat) : Chip :=
  let x := c.winOf w
  match x.comb with
  | none => c
  | some (q, i) => (c.setWin w { x with comb := none, lists := [], done := [], apply := [] }).endWork q i st info

/-- CANCEL. -/
def Chip.cancel (c : Chip) (q : Nat) (idx : BitVec 32) : Chip :=
  match c.unitCmd q idx 3 2 with
  | none => c
  | some k =>
    if k.f 511 14 ≠ 0 then c.malformed k
    else
      let w := k.f 13 8
      let c := (c.rd.drovers.filter (fun (d : DRun) => decide (d.kind = 1) && decide (d.f 121 116 = w))).foldl (fun c d => c.stopDrun d .aborted 0) c
      let c := c.combFail w .aborted 0
      let c := c.winIdle w k.tag.toNat
      let c := c.setWin w { c.winOf w with epoch := ((c.winOf w).epoch + 1) % 256 }
      (c.count pgDWT 1 1).endWork q idx .ok 0

/-! ## COMBINE (R111 to R116) -/

/-- Rounded up to a multiple of 64. -/
def up64 (n : Nat) : Nat := (n + 63) / 64 * 64

/-- Bytes of a return row (R111). -/
def retSize (fmt width : Nat) : Nat := up64 (if fmt < 2 then width + width / 32 else if fmt = 2 then 2 * width else 4 * width)

/-- Bytes of an FP32 or BF16 row. -/
def rowSize (bf16 : Bool) (width : Nat) : Nat := up64 (if bf16 then 2 * width else 4 * width)

/-- The operand block is lawful (R111, R112). -/
def combForm (k : Cmd) : Bool :=
  decide (k.f 385 8 = 0) && decide (k.f 399 398 ≠ 3) && !(decide (k.f 397 397 = 1) && decide (k.f 401 401 = 1)) && decide (k.f 419 404 % 32 = 0) &&
    decide (k.f 419 404 ≤ 8192) && decide (k.f 511 466 % 64 = 0) && decide (k.f 465 420 % 64 = 0)

/-- Lists of the window's clusters, from the buffers it holds references on; with no lists the shares alone (R44, R112). -/
def Chip.winLists (c : Chip) (x : Win) (tag : Nat) : Got (List DList) × Chip :=
  let cls := maskClusters x.mask.toNat
  if x.refs = [] then (.ok ((shares cls x.tokens).map (fun p => ⟨p.1, p.2.1, p.2.2, [], []⟩)), c)
  else c.readAllLists tag (cls.zipIdx.map (fun p => (p.1, (x.refs[2 * p.2]?).getD 0, (x.refs[2 * p.2 + 1]?).getD 0)))

/-- Saved-index entry of a token's rank. -/
def DList.entry (l : DList) (k t r : Nat) : Nat := ((l.saved[(t - l.first) * k + r]?).getD 3).toNat

/-- Ranks of a token with status PRIMARY or SPILLED, with their entries (R113). -/
def DList.placed (l : DList) (k t : Nat) : List (Nat × Nat) :=
  if l.saved = [] then [] else ((List.range k).map (fun r => (r, l.entry k t r))).filter (fun p => decide (p.2 % 4 < 2))

/-- A window's running COMBINE: its operand block. -/
def Chip.combOp (c : Chip) (x : Win) : Option Cmd := x.comb.bind (fun p => c.cmd? p.1 p.2)

/-- The initial value of every element of an output row (R113, R115). -/
def initVals (fmt width : Nat) (bs : List (BitVec 8)) : List Nat :=
  if fmt = 0 then List.replicate width 0
  else if fmt = 1 then (items 2 width bs).map (fun v => v * 65536) else items 4 width bs

/-- The elements of a return row, each rounded once to FP32 (R114, R148). -/
def decodeRow (fmt width : Nat) (bs : List (BitVec 8)) : List Nat :=
  if fmt = 3 then items 4 width bs
  else if fmt = 2 then (items 2 width bs).map (fun v => v * 65536)
  else
    let sc := bs.drop width
    (items 1 width bs).zipIdx.map (fun p => widen (if fmt = 0 then 3 else 4) p.1 (some ((sc[p.2 / 32]?).getD 0).toNat))

/-- acc + w × x, element by element (R113). -/
def fmaRow (w : Nat) (xs acc : List Nat) : List Nat := (acc.zip xs).map (fun p => ffma w p.2 p.1)

/-- The bytes of an output row, padded with zeros (R113, R148). -/
def outRow (k : Cmd) (vs : List Nat) : List (BitVec 8) :=
  let bf := decide (k.f 401 401 = 1)
  let bs := if bf then vs.flatMap (fun v => toBytes 2 (narrow 8 (k.f 400 400 = 1) .rne v)) else vs.flatMap (toBytes 4)
  bs ++ List.replicate (rowSize bf (k.f 419 404) - bs.length) 0

/-- Addresses of a token's output and initial rows and of a rank's return row. -/
def outAt (k : Cmd) (t : Nat) : Nat := k.f 511 466 + t * rowSize (k.f 401 401 = 1) (k.f 419 404)
def initAt (k : Cmd) (t : Nat) : Nat := k.f 465 420 + t * rowSize (k.f 399 398 = 1) (k.f 419 404)
def Win.retAt (x : Win) (t r : Nat) : Nat := x.retAddr + (t * x.k + r) * x.retBytes

/-- A token's initial row: address and bytes, nothing when INIT is 0. -/
def initPiece (k : Cmd) (t : Nat) : List (Nat × Nat) :=
  if k.f 399 398 = 0 then [] else [(initAt k t, rowSize (k.f 399 398 = 1) (k.f 419 404))]

/-- Any of the ranges is held by a moving tile. -/
def Chip.anyHeld (c : Chip) (ps : List (Nat × Nat)) : Bool := ps.any (fun p => decide (c.accRes p.1 p.2 = .held))
/-- The first of the ranges with a POISONED tile. -/
def Chip.anyPoisoned (c : Chip) (ps : List (Nat × Nat)) : Option Nat := (ps.find? (fun p => decide (c.accRes p.1 p.2 = .poisoned))).map (fun p => p.1)

/-- Bytes read after the ranges have been found readable. -/
def Chip.readAt (c : Chip) (tag a n : Nat) : List (BitVec 8) × Chip := let (_, bs, c) := c.mread tag a n; (bs, c)

/-- Tokens of a window's COMBINE that are combined once the arrivals of these experts are applied: in ORDERED mode they are ready
(R113), in ARRIVAL mode done (R115). -/
def Win.through (x : Win) (experts : List Nat) : List (DList × Nat) :=
  x.lists.flatMap (fun l => (((List.range l.count).map (· + l.first)).filter (fun t =>
    (l.placed x.k t).all (fun p => experts.contains (bits p.2 15 2)))).map (fun t => (l, t)))

/-- Tokens have been combined: they count, with their skipped ranks (R117, R121). -/
def Chip.tokensDone (c : Chip) (w : Nat) (ts : List (DList × Nat)) : Chip :=
  let x := c.winOf w
  let new := ts.filter (fun p => !(x.done.contains p.2))
  let c := new.foldl (fun c p =>
    (c.count (pgDRV p.1.cluster) 11 1).count (pgDRV p.1.cluster) 13 (x.k - (p.1.placed x.k p.2).length)) c
  c.setWin w { x with done := x.done ++ new.map (fun p => p.2) }

/-- ARRIVAL mode: the tokens whose arrivals have all been applied are combined (R115, R122). -/
def Chip.arrivalDone (c : Chip) (w : Nat) : Chip :=
  let x := c.winOf w
  c.tokensDone w (x.through (x.marks.filter (fun e => !(x.apply.contains e))))

/-- The COMBINE ends OK once every token is combined and every expected arrival has been accepted and applied (R110, R116). -/
def Chip.combEnd (c : Chip) (w : Nat) : Chip :=
  let x := c.winOf w
  match x.comb with
  | none => c
  | some (q, i) =>
    let tokens := (x.lists.map (fun l => l.count)).sum
    if x.done.length < tokens ∨ x.marks.length < x.expect ∨ x.apply ≠ [] then c
    else (c.winIdle w (((c.cmd? q i).map (fun k => k.tag.toNat)).getD 0)).endWork q i .ok 0

/-- The state of the Drovers of some clusters is read: the answer says whether one met an uncorrectable error (R120). -/
def Chip.drvMeet (c : Chip) (tag : Nat) : List Nat → Chip × Bool
  | [] => (c, false)
  | cl :: cls =>
    let (c, a) := c.injR (pgDRV cl) 0 tag 0
    let (c, b) := c.drvMeet tag cls
    (c, a || b)

/-- ARRIVAL mode begins: every output row is the initial row, or +0 (R115). -/
def Chip.initRows (c : Chip) (k : Cmd) (ts : List Nat) : Chip :=
  ts.foldl (fun c t =>
    let (bs, c) := match initPiece k t with
      | p :: _ => c.readAt k.tag.toNat p.1 p.2
      | [] => ([], c)
    (c.mwrite k.tag.toNat (outAt k t) (outRow k (initVals (k.f 399 398) (k.f 419 404) bs))).2) c

/-- COMBINE. -/
def Chip.combine (c : Chip) (q : Nat) (idx : BitVec 32) : Chip :=
  match c.unitCmd q idx 4 0, (c.cmd? q idx).bind (fun k => c.ctxOf k.ctx) with
  | some k, some x =>
    let w := k.f 396 391
    let win := c.winOf w
    let width := k.f 419 404
    let cls := maskClusters win.mask.toNat
    let outB := rowSize (k.f 401 401 = 1) width
    let initB := rowSize (k.f 399 398 = 1) width
    if ¬ combForm k then c.malformed k
    else if ¬ win.armed then c.endWork q idx .epoch 0
    else if win.comb.isSome ∨ c.unitBehind k (fun m => decide (m.type = 4) && decide (m.f 396 391 = w)) then c.holdCmd k
    else if retSize (k.f 403 402) width ≠ win.retBytes ∨ ¬ x.covers (k.f 511 466) (win.tokens * outB) ∨
        (k.f 399 398 ≠ 0 ∧ ¬ x.covers (k.f 465 420) (win.tokens * initB)) then c.malformed k
    else if c.drvCheck cls ≠ .ok then c.endWork q idx (c.drvCheck cls) 0
    else
      let (ready, c) := c.needClusters cls k.lc
      if ¬ ready then c.holdCmd k
      else
        let (got, c) := c.winLists win k.tag.toNat
        match got with
        | .wait => c.holdCmd k
        | .fail st info => c.endWork q idx st info
        | .bad => c.dispBad k cls 2
        | .ok ls =>
          let mode := decide (k.f 397 397 = 1)
          let ts := ls.flatMap (fun l => (List.range l.count).map (· + l.first))
          let ps := if mode then ts.flatMap (fun t => (outAt k t, outB) :: initPiece k t) else []
          if c.anyHeld ps then c.holdCmd k
          else match c.anyPoisoned ps with
            | some a => (c.poisonRefuse k.tag.toNat a 1).endWork q idx .poisoned (a / 32768)
            | none =>
              let c := (c.drvBegin cls k 2).count pgDWT 10 1
              let c := c.setCmd { k with phase := .running }
              let c := if mode then c.initRows k ts else c
              let c := c.setWin w { win with comb := some (q, idx), mode := mode, lists := ls, done := [],
                                             apply := if mode then sortBy (fun a b => decide (a < b)) win.marks else [], lastAt := c.time.ns }
              let c := if mode then c.arrivalDone w else c
              c.combEnd w
  | _, _ => c

/-- The lowest token that is ready: every placed rank's expert has arrived (R113). -/
def Win.readyToken (x : Win) : Option (DList × Nat) := (x.through x.marks).find? (fun p => !(x.done.contains p.2))

/-- COMBINE_TOKEN: a ready token is combined over its ranks in fixed order (R113, R114). -/
def Chip.combineToken (c : Chip) (w : Nat) : Chip :=
  let x := c.winOf w
  match c.combOp x, x.readyToken with
  | some k, some (l, t) =>
    let (c, ue) := if x.mode then (c, false) else c.drvMeet k.tag.toNat [l.cluster]
    if x.mode then c
    else if ue then c.combFail w .fenced 0
    else
      let width := k.f 419 404
      let pl := l.placed x.k t
      let ps := (outAt k t, rowSize (k.f 401 401 = 1) width) :: initPiece k t ++ pl.map (fun p => (x.retAt t p.1, x.retBytes))
      if c.anyHeld ps then c
      else match c.anyPoisoned ps with
        | some a => (c.poisonRefuse k.tag.toNat a 1).combFail w .poisoned (a / 32768)
        | none =>
          let (ib, c) := match initPiece k t with
            | p :: _ => c.readAt k.tag.toNat p.1 p.2
            | [] => ([], c)
          let (vs, c) := pl.foldl (fun (a : List Nat × Chip) p =>
            let (bs, c) := a.2.readAt k.tag.toNat (x.retAt t p.1) x.retBytes
            (fmaRow (bits p.2 63 32) (decodeRow (k.f 403 402) width bs) a.1, c)) (initVals (k.f 399 398) width ib, c)
          let c := (c.mwrite k.tag.toNat (outAt k t) (outRow k vs)).2
          ((c.count (pgDRV l.cluster) 12 pl.length).tokensDone w [(l, t)]).combEnd w
  | _, _ => c

/-- One entry of an arrival is added into its output row (R115). -/
def Chip.arrivalAdd (c : Chip) (x : Win) (k : Cmd) (l : DList) (e : BitVec 32) : Chip :=
  let t := bits e.toNat 31 17
  let r := bits e.toNat 16 14
  let width := k.f 419 404
  let (ob, c) := c.readAt k.tag.toNat (outAt k t) (rowSize false width)
  let (bs, c) := c.readAt k.tag.toNat (x.retAt t r) x.retBytes
  let vs := fmaRow (bits (l.entry x.k t r) 63 32) (decodeRow (k.f 403 402) width bs) (items 4 width ob)
  (((c.mwrite k.tag.toNat (outAt k t) (outRow k vs)).2).count (pgDRV l.cluster) 14 1).count (pgDRV l.cluster) 12 1

/-- ARRIVAL_APPLY: the oldest accepted arrival that has not been applied is (R115). -/
def Chip.arrivalApply (c : Chip) (w : Nat) : Chip :=
  let x := c.winOf w
  match c.combOp x, x.apply with
  | some k, e :: rest =>
    let es := x.lists.flatMap (fun l => ((l.segs.filter (fun s => decide (s.1 = e))).flatMap (fun s => s.2.2)).map (fun v => (l, v)))
    let ps := es.flatMap (fun p =>
      [(outAt k (bits p.2.toNat 31 17), rowSize false (k.f 419 404)), (x.retAt (bits p.2.toNat 31 17) (bits p.2.toNat 16 14), x.retBytes)])
    if c.anyHeld ps then c
    else
      let (c, ue) := c.drvMeet k.tag.toNat ((es.map (fun p => p.1.cluster)).eraseDups)
      if ue then c.combFail w .fenced 0
      else match c.anyPoisoned ps with
        | some a => (c.poisonRefuse k.tag.toNat a 1).combFail w .poisoned (a / 32768)
        | none =>
          let c := es.foldl (fun c p => c.arrivalAdd x k p.1 p.2) c
          ((c.setWin w { x with apply := rest }).arrivalDone w).combEnd w
  | _, _ => c

/-- RET_TIMEOUT (R116). -/
def Chip.retTimeout (c : Chip) (w : Nat) : Chip :=
  let x := c.winOf w
  match c.combOp x with
  | none => c
  | some k =>
    let code := k.f 390 386
    if code = 31 ∨ x.marks.length ≥ x.expect ∨ c.time.ns < x.lastAt + 2 ^ code * 1000 then c
    else (c.err (pgDRV (firstOf (maskClusters x.mask.toNat))) 5 k.tag.toNat 0).combFail w .waitExpired 0

end Sys2Proof.Machine
end

