-- ==== Sys2Proof/Machine/Coll.lean ====
section
/-!
DEFINITION. Collectives (chapter 11): membership, the layout of chunks, segments and owners, launch, control entries, reductions,
chunk signals, completion and failure.
-/

namespace Sys2Proof.Machine

/-! ## Ranges -/

/-- A range [a, b) joined to a set of disjoint rising ranges. -/
def ivAdd : List (Nat × Nat) → Nat → Nat → List (Nat × Nat)
  | [], a, b => if a < b then [(a, b)] else []
  | (s, e) :: t, a, b =>
    if a ≥ b then (s, e) :: t
    else if b < s then (a, b) :: (s, e) :: t
    else if e < a then (s, e) :: ivAdd t a b
    else ivAdd t (min s a) (max e b)

/-- [a, b) taken out of a set of ranges. -/
def ivDel (l : List (Nat × Nat)) (a b : Nat) : List (Nat × Nat) :=
  l.flatMap (fun r => [(r.1, min r.2 a), (max r.1 b, r.2)].filter (fun x => decide (x.1 < x.2)))

/-- A set of ranges holds [a, b). -/
def ivHas (l : List (Nat × Nat)) (a b : Nat) : Bool := decide (a ≥ b) || l.any (fun r => decide (r.1 ≤ a) && decide (b ≤ r.2))

/-- The packets of n bytes: offset and length, cut at every multiple of 2,048 B (R408). -/
def cuts (n : Nat) : List (Nat × Nat) := (List.range (ceilDiv n 2048)).map (fun k => (2048 * k, min 2048 (n - 2048 * k)))

/-- Largest power of two not above x (R409). -/
def p2 (x : Nat) : Nat := 2 ^ Nat.log2 x

/-! ## Layout (R400, R408 to R410, R414) -/

def Chip.cslot (c : Chip) (s : Nat) : CSlot := Tab.get default c.col.slots s
def Chip.setCslot (c : Chip) (s : Nat) (x : CSlot) : Chip := { c with col.slots := Tab.put default c.col.slots s x }
def Chip.mslot (c : Chip) (m : Nat) : MSlot := Tab.get default c.col.mslots m
def Chip.modCslot (c : Chip) (s : Nat) (f : CSlot → CSlot) : Chip := c.setCslot s (f (c.cslot s))

def CSlot.f (x : CSlot) (hi lo : Nat) : Nat := bits x.op.toNat hi lo
def CSlot.bytes (x : CSlot) : Nat := x.f 327 288
def CSlot.ch (x : CSlot) : Nat := 2 ^ (12 + x.f 183 180)
def CSlot.win (x : CSlot) : Nat := x.f 175 170
def CSlot.hier (x : CSlot) : Bool := x.f 159 159 = 1
def CSlot.var (x : CSlot) : Bool := x.f 158 158 = 1
/-- The operation reduces: ALL_REDUCE or REDUCE_SCATTER. -/
def CSlot.isRed (x : CSlot) : Bool := decide (x.f 7 0 ≤ 1)
def CSlot.chunks (x : CSlot) : Nat := ceilDiv x.bytes x.ch
/-- G of HIER; N for DIRECT, whose segments have one level (R409, R410). -/
def CSlot.g (x : CSlot) : Nat := if x.hier then x.f 237 225 else x.n
/-- H of HIER; 1 for DIRECT. -/
def CSlot.h (x : CSlot) : Nat := if x.hier then x.n / max 1 x.g else 1
def CSlot.ka (x : CSlot) : Nat := min (p2 x.g) (x.ch / 2048)
def CSlot.segA (x : CSlot) : Nat := x.ch / max 1 x.ka
def CSlot.kb (x : CSlot) : Nat := min (p2 x.h) (x.segA / 2048)
def CSlot.segB (x : CSlot) : Nat := x.segA / max 1 x.kb
/-- P: entries of a bank of the control block (R409, R410). -/
def CSlot.np (x : CSlot) : Nat := if x.hier then x.g + x.h else x.n
/-- CB (R409). -/
def CSlot.cb (x : CSlot) : Nat := ceilDiv (32 * x.np) 256 * 256
/-- Landing space of one window position (R409, R410). -/
def CSlot.pos (x : CSlot) : Nat := if x.hier then x.g * x.segA + x.h * x.segB else x.n * x.segA
/-- S_req (R409, R410). -/
def CSlot.sreq (x : CSlot) : Nat := x.cb + (if x.isRed then x.win * x.pos else 0)
def CSlot.srcA (x : CSlot) : Nat := x.f 511 466
def CSlot.dstA (x : CSlot) : Nat := x.f 465 420
def CSlot.scrA (x : CSlot) : Nat := x.f 419 374
def CSlot.seq (x : CSlot) : Nat := x.f 208 193
/-- Bytes of SRC that the member reads (R399). -/
def CSlot.srcLen (x : CSlot) : Nat :=
  match x.f 7 0 with
  | 3 => x.n * x.bytes
  | 4 => if x.f 255 238 = x.rank then x.bytes else 0
  | _ => x.bytes
/-- Bytes of DST that it writes (R399). -/
def CSlot.dstLen (x : CSlot) : Nat :=
  match x.f 7 0 with
  | 1 => x.bytes / max 1 x.n
  | 2 | 3 => x.n * x.bytes
  | _ => x.bytes

/-- Peer index of writer r as member m numbers it (R410, R414). -/
def CSlot.idx (x : CSlot) (m r : Nat) : Nat :=
  if x.hier then (if r / x.g = m / x.g then r % x.g else x.g + r / x.g) else r

/-- Ranks of the peers (R410). -/
def CSlot.peers (x : CSlot) : List Nat :=
  if x.hier then
    ((List.range x.g).map (fun i => x.rank / x.g * x.g + i) ++ (List.range x.h).map (fun k => k * x.g + x.rank % x.g)).filter
      (fun r => decide (r ≠ x.rank))
  else (List.range x.n).filter (fun r => decide (r ≠ x.rank))

/-- Address of the control entry that writer r writes at member m (R414). -/
def CSlot.entA (x : CSlot) (m r : Nat) : Nat := x.scrA + (x.seq % 2 * x.np + x.idx m r) * 16

/-- Tensor offset and length of segment j of chunk c (R408, R409). -/
def CSlot.segR (x : CSlot) (c j : Nat) : Nat × Nat :=
  let start := c * x.ch + j * x.segA
  (start, min x.segA (min ((c + 1) * x.ch) x.bytes - start))

/-- Group index that owns segment j of chunk c; the rank for DIRECT (R409, R410). -/
def CSlot.ownA (x : CSlot) (c j : Nat) : Nat := (c * x.ka + j) % max 1 x.g

/-- The non-empty segment of chunk c that this member owns: its number, offset and length. -/
def CSlot.own1 (x : CSlot) (c : Nat) : Option (Nat × Nat × Nat) :=
  (List.range x.ka).findSome? (fun j =>
    let (a, n) := x.segR c j
    if x.ownA c j = x.rank % max 1 x.g ∧ n > 0 then some (j, a, n) else none)

/-- Offset and length of part b of a segment (R410). -/
def CSlot.partR (x : CSlot) (a n b : Nat) : Nat × Nat := (a + b * x.segB, min x.segB (n - b * x.segB))

/-- The non-empty part of chunk c that this member owns under HIER. -/
def CSlot.own3 (x : CSlot) (c : Nat) : Option (Nat × Nat × Nat) :=
  if ¬ x.hier then none
  else
    match x.own1 c with
    | none => none
    | some (_, a, n) =>
      (List.range x.kb).findSome? (fun b =>
        let (a', n') := x.partR a n b
        if (c * x.kb + b) % max 1 x.h = x.rank / max 1 x.g ∧ n' > 0 then some (b, a', n') else none)

/-- Offset in the landing space of the slot of a sender in phase 1 (A) or 3 (B) of chunk c (R409, R410). -/
def CSlot.landAt (x : CSlot) (ph c sender : Nat) : Nat :=
  c % max 1 x.win * x.pos + (if ph = 1 then sender * x.segA else x.g * x.segA + sender * x.segB)

/-- The sender number of this member in a phase: rank or group index in phase 1, group in phase 3. -/
def CSlot.me (x : CSlot) (ph : Nat) : Nat := if ph = 3 then x.rank / max 1 x.g else x.rank % max 1 x.g

/-- Senders that contribute in a phase. -/
def CSlot.senders (x : CSlot) (ph : Nat) : List Nat :=
  (List.range (if ph = 3 then x.h else x.g)).filter (fun r => decide (r ≠ x.me ph))

/-- Rank of a sender in a phase. -/
def CSlot.senderRank (x : CSlot) (ph r : Nat) : Nat :=
  if ¬ x.hier then r else if ph = 3 then r * x.g + x.rank % x.g else x.rank / x.g * x.g + r

/-- Rank of a segment's owner in this member's group. -/
def CSlot.ownerRank (x : CSlot) (i : Nat) : Nat := if x.hier then x.rank / x.g * x.g + i else i

/-- This member's COUNT for a peer: the bytes of a slot that it sends to it (R419). -/
def CSlot.sendCount (x : CSlot) (m : Nat) : Nat :=
  if x.var then (x.counts[if x.f 7 0 = 3 then m else 0]?).getD 0 else x.bytes

/-- COUNT of rank q's slot at this member, once it is known (R419). -/
def CSlot.recvCount (x : CSlot) (q : Nat) : Option Nat :=
  if ¬ x.var then some x.bytes
  else if q = x.rank then some (x.sendCount q)
  else
    let e := Tab.get 0 x.ents (x.idx x.rank q)
    if bit e 45 then some (min (bits e 127 96) x.bytes) else none

/-- Packets of a range. -/
def CSlot.pkts (x : CSlot) (ph c to_ src dst n : Nat) : List CPkt :=
  (cuts n).map (fun o => ⟨x.seq, ph, c, to_, src + o.1, dst + o.1, o.2, [], 0⟩)

/-- Packets of a range whose bytes are given. -/
def CSlot.pktsD (x : CSlot) (ph c to_ dst : Nat) (data : List (BitVec 8)) : List CPkt :=
  (cuts data.length).map (fun o => ⟨x.seq, ph, c, to_, 0, dst + o.1, o.2, (data.drop o.1).take o.2, 0⟩)

/-- Copies and contributions of chunk c, in order (R409 to R411). -/
def CSlot.plan (x : CSlot) (c : Nat) : List CPkt :=
  let lo := c * x.ch
  match x.f 7 0 with
  | 2 | 3 =>
    (List.range x.n).flatMap (fun m =>
      let n := min ((c + 1) * x.ch) (x.sendCount m) - lo
      x.pkts 0 c m (x.srcA + (if x.f 7 0 = 3 then m * x.bytes else 0) + lo) (x.dstA + x.rank * x.bytes + lo) n)
  | 4 =>
    if x.f 255 238 ≠ x.rank then []
    else
      x.pkts 0 c x.rank (x.srcA + lo) (x.dstA + lo) (min ((c + 1) * x.ch) x.bytes - lo) ++
      (List.range x.ka).flatMap (fun j =>
        let (a, n) := x.segR c j
        let to_ := if x.ownA c j = x.rank then (List.range x.n).filter (fun m => decide (m ≠ x.rank)) else [x.ownA c j]
        to_.flatMap (fun m => x.pkts 0 c m (x.srcA + a) (x.dstA + a) n))
  | _ =>
    (List.range x.ka).flatMap (fun j =>
      let (a, n) := x.segR c j
      if x.ownA c j = x.rank % max 1 x.g then []
      else x.pkts 1 c (x.ownerRank (x.ownA c j)) (x.srcA + a) (x.scrA + x.cb + x.landAt 1 c (x.me 1)) n)

/-- The ranges of DST, as offsets, that chunk c gives this member (R408, R409, R416, R419); none while a COUNT is not known. -/
def CSlot.need (x : CSlot) (c : Nat) : Option (List (Nat × Nat)) :=
  let lo := c * x.ch
  let hi := min ((c + 1) * x.ch) x.bytes
  match x.f 7 0 with
  | 1 =>
    let b := x.bytes / max 1 x.n
    some [(max lo (x.rank * b) - x.rank * b, min hi ((x.rank + 1) * b) - x.rank * b)]
  | 2 | 3 =>
    (List.range x.n).foldr (fun q acc => match acc, x.recvCount q with
      | some l, some k => some ((q * x.bytes + lo, q * x.bytes + min hi k) :: l)
      | _, _ => none) (some [])
  | _ => some [(lo, hi)]

/-- Chunk c is complete at this member (R416). -/
def CSlot.complete (x : CSlot) (c : Nat) : Bool :=
  match x.need c with
  | some l => l.all (fun r => ivHas x.dst r.1 r.2)
  | none => false

/-- The current-seq entry of every peer has arrived (R415). -/
def CSlot.allHeard (x : CSlot) : Bool := x.peers.all (fun r => bit (Tab.get 0 x.ents (x.idx x.rank r)) 44)

/-- A packet is covered by its receiver's grant (R415); re-fetches and local copies need none. -/
def CSlot.granted (x : CSlot) (p : CPkt) : Bool :=
  decide (p.to_ = x.rank) || decide (p.ph = 7) ||
    (x.allHeard && decide (bits (Tab.get 0 x.ents (x.idx x.rank p.to_)) 28 0 > p.c))

/-- Node of a rank, from the membership table (R404). -/
def Chip.collNode (c : Chip) (x : CSlot) (r : Nat) : Nat := ofBytes (c.bytesAt (x.table + 64 + 4 * r) 4) % 2 ^ 18

/-- ERR_INFO1 that names a peer (R435). -/
def Chip.collInfo (c : Chip) (s : Nat) (x : CSlot) (r : Nat) : Nat := s + c.collNode x r <<< 14

/-! ## Arithmetic (R420 to R422, R425) -/

/-- Contribution bytes as FP32 (BF16 widens) or INT32 values. -/
def CSlot.decode (x : CSlot) (bs : List (BitVec 8)) : List (BitVec 32) :=
  if x.f 164 163 = 1 then (elems 16 (bs.length / 2) bs).map (fun v => BitVec.ofNat 32 (widen 8 v none))
  else (elems 32 (bs.length / 4) bs).map (BitVec.ofNat 32)

/-- FP32 MAX or MIN: NaN wins, −0 is below +0 (R420). -/
def fminmax (isMax : Bool) (a b : Nat) : Nat :=
  if fnan a || fnan b then 0x7FC00000
  else if fzero a && fzero b then (if isMax then a &&& b else a ||| b)
  else if fless a b then (if isMax then b else a) else (if isMax then a else b)

/-- Two values reduced (R420). -/
def CSlot.op2 (x : CSlot) (a b : BitVec 32) : BitVec 32 :=
  if x.f 164 163 = 2 then
    match x.f 162 161 with
    | 0 => a + b
    | 1 => if a.slt b then b else a
    | _ => if a.slt b then a else b
  else
    BitVec.ofNat 32 (match x.f 162 161 with
      | 0 => fadd a.toNat b.toNat
      | 1 => fminmax true a.toNat b.toNat
      | _ => fminmax false a.toNat b.toNat)

def CSlot.opL (x : CSlot) (a b : List (BitVec 32)) : List (BitVec 32) := List.zipWith x.op2 a b

/-- One level of the pairwise tree (R52, R422). -/
def CSlot.pairUp (x : CSlot) : List (List (BitVec 32)) → List (List (BitVec 32))
  | a :: b :: t => x.opL a b :: x.pairUp t
  | l => l

/-- The pairwise tree over ranks (R422); fuel bounds its levels. -/
def CSlot.tree (x : CSlot) : Nat → List (List (BitVec 32)) → List (BitVec 32)
  | 0, l => l.headD []
  | _ + 1, [] => []
  | _ + 1, [a] => a
  | f + 1, l => x.tree f (x.pairUp l)

/-- Results as they are written: BF16 is rounded once, from element index `first` on (R420, R425). -/
def CSlot.encode (x : CSlot) (first : Nat) (vs : List (BitVec 32)) : List (BitVec 8) :=
  if x.f 164 163 = 1 then
    vs.zipIdx.flatMap (fun p =>
      let r : Rnd := if x.f 157 157 = 1 then .sr (srWord x.seed x.tensor x.job (first + p.2)) else .rne
      toBytes 2 (narrow 8 (decide (x.f 156 156 = 1)) r p.1.toNat))
  else vs.flatMap (fun v => toBytes 4 v.toNat)

/-- Bytes per element. -/
def CSlot.esz (x : CSlot) : Nat := if x.f 164 163 = 1 then 2 else 4

/-! ## Failure (R429) -/

/-- A running collective fails: the first failure is its status. -/
def Chip.collFail (c : Chip) (s : Nat) (st : Status) (info : Nat) : Chip :=
  let x := c.cslot s
  if x.st = 0 ∨ x.st = 4 then c else c.setCslot s { x with st := 4, fail := some st, info := info }

/-! ## Control entries (R413 to R415, R417) -/

/-- Write the own control entry to every peer, DONE as given (R414). -/
def Chip.collCtl (c : Chip) (s done : Nat) : Chip :=
  let x := c.cslot s
  x.peers.foldl (fun c r =>
    let e := (if x.var then x.sendCount r else 0) <<< 96 + x.f 287 256 <<< 64 + x.seq <<< 48 + done <<< 46 + (b2n x.var) <<< 45 +
      1 <<< 44 + x.through
    let a := x.entA r x.rank
    let p : CPkt := ⟨x.seq, 6, 0, r, 0, a, 16, [], 0⟩
    (c.count pgCOL 5 1).txn (.coll s p) (mkHdr 6 (c.collNode x r) a x.job 16 0 none true) (toBytes 16 e) x.lc none) c

/-- Take the control entry of a peer rank as it now stands in memory (R407, R414, R429). -/
def Chip.collEntry (c : Chip) (s r : Nat) : Chip :=
  let x := c.cslot s
  let e := ofBytes (c.bytesAt (x.entA x.rank r) 16)
  if x.st = 0 ∨ ¬ bit e 44 ∨ bits e 63 48 ≠ x.seq then c
  else
    let i := x.idx x.rank r
    let new := x.var && bit e 45 && !(bit (Tab.get 0 x.ents i) 45)
    let c := c.setCslot s { x with ents := Tab.put 0 x.ents i e, vec := if new then x.vec ++ [(r, bits e 127 96)] else x.vec }
    if x.st = 4 then c
    else if bits e 95 64 ≠ x.f 287 256 then
      ((c.count pgCOL 14 1).err pgCOL 2 x.tag.toNat (c.collInfo s x r)).collFail s .aborted (c.collInfo s x r)
    else if bits e 47 46 = 3 then
      ((c.count pgCOL 13 1).err pgCOL 8 x.tag.toNat (c.collInfo s x r)).collFail s .aborted (c.collInfo s x r)
    else c

/-! ## Reductions -/

/-- A contribution read from landing space, or its damage: none for a MOVING tile (R427). -/
def Chip.collTake (c : Chip) (x : CSlot) (ph ck sender n : Nat) : AccRes × List (BitVec 8) × Chip :=
  c.mread x.tag.toNat (x.scrA + x.cb + x.landAt ph ck sender) n

/-- A damaged contribution is fetched again from its sender's SRC; a damaged partial cannot be (R427). -/
def Chip.collRefetch (c : Chip) (s ph ck sender a n : Nat) : Chip :=
  let x := c.cslot s
  if ph = 3 then c.collFail s .poisoned ((x.scrA + x.cb + x.landAt ph ck sender) / 32768)
  else
    let r := x.senderRank ph sender
    let at_ := x.landAt ph ck sender
    let c := (c.count pgCOL 9 1).err pgCOL 4 x.tag.toNat (c.collInfo s x r)
    let c := c.setCslot s { x with land := ivDel x.land at_ (at_ + n) }
    (x.pkts 7 ck r (x.srcA + a) (x.scrA + x.cb + at_) n).foldl (fun c p =>
      c.txn (.coll s p) (mkHdr 3 (c.collNode x r) p.src x.job 16 0 none false) (toBytes 16 (p.dst <<< 82 + p.len <<< 70)) x.lc
        (some (p.dst, p.len))) c

def Chip.setAcc (c : Chip) (s : Nat) (a : CAcc) : Chip :=
  c.modCslot s (fun x => { x with accs := a :: x.accs.filter (fun b => !(decide (b.ph = a.ph) && decide (b.c = a.c))) })

def CSlot.accOf (x : CSlot) (ph ck : Nat) : CAcc :=
  (x.accs.find? (fun b => decide (b.ph = ph) && decide (b.c = ck))).getD ⟨ph, ck, false, [], [], []⟩

/-- Add waiting contributions in landing order (R421); a damaged one is fetched again and waits no more. -/
def Chip.collAdd (c : Chip) (s ph ck a n : Nat) : List Nat → Chip
  | [] => c
  | r :: rs =>
    let x := c.cslot s
    let acc := x.accOf ph ck
    let (res, bs, c) := c.collTake x ph ck r n
    match res with
    | .held => c
    | .poisoned => ((c.setAcc s { acc with wait := acc.wait.erase r }).collRefetch s ph ck r a n).collAdd s ph ck a n rs
    | .ok =>
      let vs := x.decode bs
      let c := c.setAcc s { acc with vals := x.opL acc.vals vs, took := r :: acc.took, wait := acc.wait.erase r }
      (c.count pgCOL 4 vs.length).collAdd s ph ck a n rs

/-- Read every contribution for the pairwise tree (R422); none while one cannot be read. -/
def Chip.collAll (c : Chip) (s ph ck a n : Nat) : List Nat → List (List (BitVec 32)) → Option (List (List (BitVec 32))) × Chip
  | [], l => (some l, c)
  | r :: rs, l =>
    let x := c.cslot s
    if r = x.me ph then Chip.collAll c s ph ck a n rs (l ++ [(x.accOf ph ck).vals])
    else
      let (res, bs, c) := c.collTake x ph ck r n
      match res with
      | .held => (none, c)
      | .poisoned =>
        let acc := x.accOf ph ck
        (none, (c.setAcc s { acc with wait := acc.wait.erase r }).collRefetch s ph ck r a n)
      | .ok => Chip.collAll c s ph ck a n rs (l ++ [x.decode bs])

/-- Queue result packets (R415). -/
def Chip.collReady (c : Chip) (s : Nat) (ps : List CPkt) : Chip := c.modCslot s (fun x => { x with ready := x.ready ++ ps })

/-- Write result bytes into the own DST at an offset; the answer is whether they could be written (R409, R427). -/
def Chip.collOwn (c : Chip) (s off : Nat) (bs : List (BitVec 8)) : Bool × Chip :=
  let x := c.cslot s
  let (r, c) := c.mwrite x.tag.toNat (x.dstA + off) bs
  match r with
  | .held => (false, c)
  | .poisoned => (false, c.collFail s .poisoned ((x.dstA + off) / 32768))
  | .ok => (true, c.modCslot s (fun x => { x with dst := ivAdd x.dst off (off + bs.length) }))

/-- A reduction is finished: its landing slots are free again (R409, R415). -/
def Chip.collEnd (c : Chip) (s ph ck : Nat) : Chip :=
  c.modCslot s (fun x =>
    let lo := x.landAt ph ck 0
    let hi := if ph = 1 then lo + x.g * x.segA else lo + x.h * x.segB
    { x with fin := (ph, ck, 0) :: x.fin, land := ivDel x.land lo hi,
             accs := x.accs.filter (fun b => !(decide (b.ph = ph) && decide (b.c = ck))) })

/-- Segments that this member passes on once they stand in its DST: a relay's segments of chunk ck (R411), a segment owner's parts
(phase C of R410). -/
def Chip.collRelay (c : Chip) (s ck : Nat) : Chip :=
  let x := c.cslot s
  if x.f 7 0 = 4 ∧ x.f 255 238 ≠ x.rank then
    (List.range x.ka).foldl (fun c j =>
      let x := c.cslot s
      let (a, n) := x.segR ck j
      if x.ownA ck j = x.rank ∧ n > 0 ∧ ivHas x.dst a (a + n) ∧ ¬ x.fin.contains (2, ck, j) then
        let ps := ((List.range x.n).filter (fun m => decide (m ≠ x.rank))).flatMap (fun m => x.pkts 2 ck m (x.dstA + a) (x.dstA + a) n)
        (c.modCslot s (fun x => { x with fin := (2, ck, j) :: x.fin })).collReady s ps
      else c) c
  else if x.hier then
    match x.own1 ck with
    | none => c
    | some (_, a, n) =>
      (List.range x.kb).foldl (fun c b =>
        let x := c.cslot s
        let (a', n') := x.partR a n b
        if n' > 0 ∧ ivHas x.dst a' (a' + n') ∧ ¬ x.fin.contains (5, ck, b) then
          let to_ := ((List.range x.g).map (fun i => x.ownerRank i)).filter (fun m => decide (m ≠ x.rank))
          let ps := to_.flatMap (fun m => x.pkts 5 ck m (x.dstA + a') (x.dstA + a') n')
          (c.modCslot s (fun x => { x with fin := (5, ck, b) :: x.fin })).collReady s ps
        else c) c
  else c

/-- Phase A ends: every part of the group partial goes to its owner in the column (R410). -/
def Chip.collParts (c : Chip) (s ck a n : Nat) (vals : List (BitVec 32)) : Chip :=
  let x := c.cslot s
  let c := c.collEnd s 1 ck
  (List.range x.kb).foldl (fun c b =>
    let (a', n') := x.partR a n b
    if n' = 0 then c
    else
      let own := (ck * x.kb + b) % max 1 x.h
      let vs := (vals.drop ((a' - a) / 4)).take (n' / 4)
      if own = x.me 3 then c.setAcc s { (c.cslot s).accOf 3 ck with own := true, vals := vs }
      else c.collReady s (x.pktsD 3 ck (own * x.g + x.rank % x.g) (x.scrA + x.cb + x.landAt 3 ck (x.me 3))
        (vs.flatMap (fun v => toBytes 4 v.toNat)))) c

/-- A reduction of a segment or part has every contribution: its result goes to its receivers (R409, R410). -/
def Chip.collFinish (c : Chip) (s ph ck a n : Nat) (vals : List (BitVec 32)) : Chip :=
  let x := c.cslot s
  if x.hier ∧ ph = 1 then c.collParts s ck a n vals
  else
    let bs := x.encode (a / x.esz) vals
    if x.f 7 0 = 1 then
      -- REDUCE_SCATTER: each byte goes only to the member whose block holds it
      let b := x.bytes / max 1 x.n
      let blk := fun (m : Nat) => (max a (m * b), min (a + n) ((m + 1) * b))
      let (lo, hi) := blk x.rank
      let (ok, c) : Bool × Chip :=
        if lo < hi then c.collOwn s (lo - x.rank * b) ((bs.drop (lo - a)).take (hi - lo)) else (true, c)
      if ¬ ok then c
      else
        let ps := ((List.range x.n).filter (fun m => decide (m ≠ x.rank) && decide ((blk m).1 < (blk m).2))).flatMap (fun m =>
          x.pktsD 2 ck m (x.dstA + (blk m).1 - m * b) ((bs.drop ((blk m).1 - a)).take ((blk m).2 - (blk m).1)))
        (c.collReady s ps).collEnd s ph ck
    else
      let (ok, c) := c.collOwn s a bs
      if ¬ ok then c
      else
        let to_ := if x.hier then (List.range x.h).map (fun k => k * x.g + x.rank % x.g) else List.range x.n
        let ps := (to_.filter (fun m => decide (m ≠ x.rank))).flatMap (fun m =>
          x.pkts (if x.hier then 4 else 2) ck m (x.dstA + a) (x.dstA + a) n)
        ((c.collReady s ps).collEnd s ph ck).collRelay s ck

/-- The reduction of a phase of chunk ck over [a, a + n) goes on as far as it can (R421, R422). -/
def Chip.collReduce (c : Chip) (s ph ck a n : Nat) : Chip :=
  let x := c.cslot s
  if x.fin.contains (ph, ck, 0) then c
  else
    let acc := x.accOf ph ck
    -- the own contribution
    let (ok, c) : Bool × Chip :=
      if acc.own then (true, c)
      else if ph = 3 then (false, c)
      else
        let (r, bs, c) := c.mread x.tag.toNat (x.srcA + a) n
        match r with
        | .held => (false, c)
        | .poisoned => (false, c.collFail s .poisoned ((x.srcA + a) / 32768))
        | .ok => (true, c.setAcc s { acc with own := true, vals := x.decode bs })
    if ¬ ok then c
    else
      let acc := (c.cslot s).accOf ph ck
      if x.f 160 160 = 1 then
        if acc.wait.length < (x.senders ph).length then c
        else
          let (l, c) := c.collAll s ph ck a n (List.range x.g) []
          match l with
          | none => c
          | some l =>
            let v := x.tree (l.length + 1) l
            (c.count pgCOL 4 (v.length * (l.length - 1))).collFinish s ph ck a n v
      else
        let c := c.collAdd s ph ck a n acc.wait
        let acc := (c.cslot s).accOf ph ck
        if (c.cslot s).st ≠ 4 ∧ acc.took.length = (x.senders ph).length then c.collFinish s ph ck a n acc.vals else c

/-- Both reductions of chunk ck that this member owns. -/
def Chip.collChunk (c : Chip) (s ck : Nat) : Chip :=
  let x := c.cslot s
  let c := match x.own1 ck with | some (_, a, n) => c.collReduce s 1 ck a n | none => c
  match x.own3 ck with | some (_, a, n) => c.collReduce s 3 ck a n | none => c

/-- Every reduction of chunk ck here has finished. -/
def CSlot.redDone (x : CSlot) (ck : Nat) : Bool :=
  ((x.own1 ck).isNone || x.fin.contains (1, ck, 0)) && ((x.own3 ck).isNone || x.fin.contains (3, ck, 0))

/-- The leading chunks that have finished. -/
def CSlot.leadUp (x : CSlot) : Nat → CSlot
  | 0 => x
  | f + 1 => if x.lead < x.chunks ∧ x.redDone x.lead then ({ x with lead := x.lead + 1 }).leadUp f else x

/-- The reductions of the window's chunks, again while leading chunks finish (fuel: chunks). -/
def Chip.collReductions (c : Chip) (s : Nat) : Nat → Chip
  | 0 => c
  | f + 1 =>
    let x := c.cslot s
    if x.st = 0 ∨ x.st = 4 ∨ ¬ x.isRed then c
    else
      let c := (List.range x.win).foldl (fun c k => if x.lead + k < x.chunks then c.collChunk s (x.lead + k) else c) c
      let y := (c.cslot s).leadUp x.chunks
      let c := c.setCslot s y
      if y.lead > x.lead then c.collReductions s f else c

/-! ## Signals and completion (R415 to R417, R419) -/

/-- Counts that have come are written to the count vector (R419). -/
def Chip.collVec (c : Chip) (s : Nat) : List (Nat × Nat) → Chip
  | [] => c
  | (r, k) :: t =>
    let x := c.cslot s
    let (res, c) := c.mwrite x.tag.toNat (x.vecA + 4 * r) (toBytes 4 k)
    match res with
    | .held => c.collVec s t
    | .poisoned => c.collFail s .poisoned ((x.vecA + 4 * r) / 32768)
    | .ok => (c.modCslot s (fun x => { x with vec := x.vec.erase (r, k) })).collVec s t

/-- Chunks are signalled in order (R416). -/
def Chip.collSignal (c : Chip) (s : Nat) : Nat → Chip
  | 0 => c
  | f + 1 =>
    let x := c.cslot s
    if x.signalled < x.chunks ∧ x.complete x.signalled then
      let k := x.f 224 209
      let c := (c.setCslot s { x with signalled := x.signalled + 1 }).count pgCOL 1 1
      (if c.clFenced (k / 1024) then c else c.ctrAdd k 1).collSignal s f
    else c

/-- A new THROUGH is granted (R415). -/
def Chip.collGrant (c : Chip) (s : Nat) : Chip :=
  let x := c.cslot s
  let t := min x.chunks (x.lead + x.win)
  if x.isRed ∧ t > x.through ∧ (t - x.through ≥ ceilDiv x.win 2 ∨ t = x.chunks) then
    (c.setCslot s { x with through := t }).collCtl s 0
  else c

/-- Packets of the slot's collective that have not completed, or wait for a tag. -/
def Chip.collOpen (c : Chip) (s : Nat) : Nat :=
  let seq := (c.cslot s).seq
  let mine := fun (b : TagBy) => match b with | .coll r p => decide (r = s) && decide (p.seq = seq) | _ => false
  c.tagsBy mine + (c.fab.wait.filter (fun r => mine r.by_)).length

/-- Every peer's entry shows DONE at or above a stage. -/
def CSlot.peersAt (x : CSlot) (stage : Nat) : Bool :=
  x.peers.all (fun r => let d := bits (Tab.get 0 x.ents (x.idx x.rank r)) 47 46; decide (stage ≤ d) && decide (d ≤ 2))

/-- The slot is free; its last COLL_SEQ, tag, queue and operands stay readable (R412, R434). -/
def CSlot.freed (x : CSlot) : CSlot :=
  { (default : CSlot) with last := x.last, tag := x.tag, queue := x.queue, op := x.op, n := x.n, signalled := x.signalled }

/-- The collective's command ends and its slot is freed. -/
def Chip.collOver (c : Chip) (s : Nat) (st : Status) (info : Nat) : Chip :=
  let x := c.cslot s
  let c := c.setCslot s x.freed
  match x.cmd with
  | some (q, i) => c.endWork q i st info
  | none => c

/-- DONE1, DONE2 and completion (R417). -/
def Chip.collDone (c : Chip) (s : Nat) : Chip :=
  let x := c.cslot s
  let c := if x.st = 1 ∧ x.signalled = x.chunks ∧ x.chunk = x.chunks ∧ x.todo = [] ∧ x.ready = [] ∧ x.again = [] ∧ x.vec = [] ∧
      x.allHeard ∧ c.collOpen s = 0 then (c.setCslot s { x with st := 2 }).collCtl s 1 else c
  let x := c.cslot s
  let c := if x.st = 2 ∧ x.peersAt 1 then (c.setCslot s { x with st := 3 }).collCtl s 2 else c
  let x := c.cslot s
  if x.st = 3 ∧ x.peersAt 2 then
    let a := x.scrA + x.seq % 2 * x.np * 16
    let (r, c) := c.mwrite x.tag.toNat a (List.replicate (16 * x.np) 0)
    match r with
    | .held => c
    | .poisoned => c.collOver s .poisoned (a / 32768)
    | .ok => c.collOver s .ok 0
  else c

/-- A failing collective writes ABORT once, sends nothing more, and ends when every packet it sent has completed (R429). -/
def Chip.collFailing (c : Chip) (s : Nat) : Chip :=
  let x := c.cslot s
  let c := if x.aborted then c
    else
      let data := fun (b : TagBy) => match b with | .coll t p => decide (t = s) && decide (p.seq = x.seq) && decide (p.ph ≠ 6) | _ => false
      let c := c.dropWait data
      let c := c.setCslot s { x with aborted := true, todo := [], ready := [], again := [] }
      (c.count pgCOL 12 x.peers.length).collCtl s 3
  if c.collOpen s = 0 then c.collOver s ((c.cslot s).fail.getD .aborted) (c.cslot s).info else c

/-- A collective goes on as far as it can without sending data. -/
def Chip.collGo (c : Chip) (s : Nat) : Chip :=
  let x := c.cslot s
  if x.st = 0 then c
  else
    let c := if x.st = 4 then c
      else
        let c := c.collReductions s (x.chunks + 1)
        let c := (c.collVec s (c.cslot s).vec).collSignal s (x.chunks + 1)
        if (c.cslot s).st = 4 then c else (c.collGrant s).collDone s
    if (c.cslot s).st = 4 then c.collFailing s else c

/-- Every running collective goes on: a move has completed, a tag has been freed. -/
def Chip.collsGo (c : Chip) : Chip := c.col.slots.foldl (fun c e => if e.2.st = 0 then c else c.collGo e.1) c

/-! ## Landing (R383, R414, R426) -/

/-- Bytes have landed in the landing space, [off, off + n): the chunk is the one of the open window at that position; what it already
took changes nothing (R426). -/
def Chip.collLand (c : Chip) (s off n : Nat) : Chip :=
  let x := c.cslot s
  let w := off / max 1 x.pos
  let ck := x.lead + (w + x.win - x.lead % max 1 x.win) % max 1 x.win
  let inner := off % max 1 x.pos
  let ph := if x.hier ∧ inner ≥ x.g * x.segA then 3 else 1
  let sender := if ph = 3 then (inner - x.g * x.segA) / max 1 x.segB else inner / max 1 x.segA
  let acc := x.accOf ph ck
  match (if ph = 3 then x.own3 ck else x.own1 ck) with
  | none => c
  | some (_, _, len) =>
    if x.fin.contains (ph, ck, 0) ∨ acc.took.contains sender ∨ acc.wait.contains sender ∨ ¬ (x.senders ph).contains sender then c
    else
      let y := { x with land := ivAdd x.land off (off + n) }
      let at_ := x.landAt ph ck sender
      let c := c.setCslot s y
      if ivHas y.land at_ (at_ + len) then c.setAcc s { acc with wait := acc.wait ++ [sender] } else c

/-- A COLL packet, or the answer to a re-fetch, has been written at [a, a + n) for a job: the collective whose range holds it takes it. -/
def Chip.collLanded (c : Chip) (job a n : Nat) : Chip :=
  c.col.slots.foldl (fun c e =>
    let s := e.1
    let x := c.cslot s
    if x.st = 0 ∨ x.job ≠ job ∨ n = 0 then c
    else if inside a n x.scrA x.cb then
      let k := (a - x.scrA) / 16
      let c := (c.modCslot s (fun x => { x with lastAt := c.time.ns })).count pgCOL 6 1
      if k / max 1 x.np ≠ x.seq % 2 then c
      else
        match x.peers.find? (fun r => decide (x.idx x.rank r = k % max 1 x.np)) with
        | some r => (c.collEntry s r).collGo s
        | none => c
    else if x.st = 4 then c
    else if inside a n (x.scrA + x.cb) (x.sreq - x.cb) then
      (((c.modCslot s (fun x => { x with lastAt := c.time.ns })).count pgCOL 3 n).collLand s (a - x.scrA - x.cb) n).collGo s
    else if inside a n x.dstA x.dstLen then
      let o := a - x.dstA
      let c := (c.modCslot s (fun x => { x with lastAt := c.time.ns, dst := ivAdd x.dst o (o + n) })).count pgCOL 3 n
      (c.collRelay s (o / x.ch)).collGo s
    else c) c

/-! ## Sending (R415, R426) -/

/-- The next chunk's copies and contributions (R415). -/
def CSlot.refill (x : CSlot) : Nat → CSlot
  | 0 => x
  | f + 1 => if x.todo = [] ∧ x.chunk < x.chunks then ({ x with todo := x.plan x.chunk, chunk := x.chunk + 1 }).refill f else x

/-- Take a packet off the lists it may stand in. -/
def CSlot.drop (x : CSlot) (p : CPkt) : CSlot :=
  if x.ready.contains p then { x with ready := x.ready.erase p }
  else if x.again.contains p then { x with again := x.again.erase p }
  else { x with todo := x.todo.erase p }

/-- COLL_SEND: one packet, results before contributions, or one piece of a local copy (R411, R415, R426, R427). -/
def Chip.collSend (c : Chip) (s : Nat) : Chip :=
  let x := (c.cslot s).refill ((c.cslot s).chunks + 1)
  if x.st ≠ 1 then c
  else
    let (c, ue) := c.injR pgCOL 0 x.tag.toNat 0
    let c := c.setCslot s x
    if ue then c
    else match (x.ready.find? x.granted).or ((x.again.find? x.granted).or (x.todo.find? x.granted)) with
    | none => c.collGo s
    | some p =>
      let here := decide (p.to_ = x.rank)
      if !here && !(c.mayAsk (.coll s p)) then c
      else if p.ph = 7 then
        let c := c.setCslot s (x.drop p)
        c.txn (.coll s p) (mkHdr 3 (c.collNode x p.to_) p.src x.job 16 0 none false) (toBytes 16 (p.dst <<< 82 + p.len <<< 70)) x.lc
          (some (p.dst, p.len))
      else
        let (r, bs, c) : AccRes × List (BitVec 8) × Chip := if p.data = [] then c.mread x.tag.toNat p.src p.len else (.ok, p.data, c)
        match r with
        | .held => c
        | .poisoned => (c.collFail s .poisoned (p.src / 32768)).collGo s
        | .ok =>
          if here then
            let (ok, c) := c.collOwn s (p.dst - x.dstA) bs
            if ok then (c.modCslot s (fun x => x.drop p)).collGo s else c.collGo s
          else
            let c := (c.setCslot s (x.drop p)).count pgCOL 2 p.len
            (c.txn (.coll s p) (mkHdr 6 (c.collNode x p.to_) p.dst x.job p.len 0 none false) bs x.lc none).collGo s

/-! ## Launch (R402, R412, R413) -/

/-- Two ranges share a byte. -/
def overlap (a n b m : Nat) : Bool := decide (n > 0) && decide (m > 0) && decide (a < b + m) && decide (b < a + n)

/-- The operand block holds no reserved encoding (R11, R400, R402). -/
def CSlot.formOk (x : CSlot) : Bool :=
  let op := x.f 7 0
  let el := x.f 164 163
  decide (x.f 155 8 = 0) && decide (x.bytes % 64 = 0) && decide (x.f 183 180 ≤ 12) && decide (4 ≤ x.f 179 176) &&
    decide (x.f 179 176 ≤ 12) && decide (x.win ≠ 0) && decide (x.f 162 161 ≤ 2) && !(decide (el = 3) && x.isRed) &&
    !((decide (x.f 157 157 = 1) || decide (x.f 156 156 = 1)) && decide (el ≠ 1)) &&
    !(decide (x.f 160 160 = 1) && (decide (x.n > 4096) || x.hier)) &&
    (!x.hier || (decide (op = 0) && decide (el ≠ 1) && decide (1 ≤ x.f 237 225) && decide (x.f 237 225 ≤ 4096) &&
      decide (x.n % x.f 237 225 = 0) && decide (x.n / x.f 237 225 ≤ 4096))) &&
    (!x.var || decide (op = 2) || decide (op = 3)) && !(decide (op = 4) && decide (x.f 255 238 ≥ x.n)) &&
    !(decide (op = 1) && decide (x.bytes % (64 * max 1 x.n) ≠ 0))

/-- SRC, DST and SCRATCH lie in the window, aligned and apart; a zero BYTES reaches neither SRC nor DST (R402). -/
def CSlot.rangesOk (x : CSlot) (k : Ctx) : Bool :=
  let z := decide (x.bytes = 0)
  let useSrc := !z && !(decide (x.f 7 0 = 4) && decide (x.f 255 238 ≠ x.rank))
  (!useSrc || (decide (x.srcA % 64 = 0) && k.covers x.srcA x.srcLen)) &&
    (z || (decide (x.dstA % 64 = 0) && k.covers x.dstA x.dstLen)) && decide (x.scrA % 256 = 0) && k.covers x.scrA x.sreq &&
    !(useSrc && overlap x.srcA x.srcLen x.dstA x.dstLen) && !(useSrc && overlap x.srcA x.srcLen x.scrA x.sreq) &&
    !(!z && overlap x.dstA x.dstLen x.scrA x.sreq)

/-- What the auxiliary block and the counts give (R401, R402, R419). -/
inductive AuxRes where
  | ok (x : CSlot) (over_ : Nat)
  | wait
  | fail (st : Status) (info : Nat)
  deriving DecidableEq, Repr

/-- Read the auxiliary block and the counts. -/
def Chip.collAux (c : Chip) (x : CSlot) (k : Ctx) : AuxRes × Chip :=
  if ¬ x.var ∧ x.f 157 157 = 0 then (.ok x 0, c)
  else
    let a := x.f 373 328
    if a % 64 ≠ 0 ∨ ¬ k.covers a 64 then (.fail .malformed 0, c)
    else
      let (r, bs, c) := c.mread x.tag.toNat a 64
      match r with
      | .held => (.wait, c)
      | .poisoned => (.fail .poisoned (a / 32768), c)
      | .ok =>
        let v := ofBytes bs
        let x := { x with seed := bits v 419 356, tensor := bits v 355 324, vecA := bits v 465 420 }
        if bits v 31 0 ≠ crc32 (toBytes 60 (v >>> 32)) ∨ bits v 323 32 ≠ 0 then (.fail .malformed 0, c)
        else if ¬ x.var then (.ok x 0, c)
        else
          let n := if x.f 7 0 = 3 then x.n else 1
          if ¬ (k.covers (bits v 511 466) (4 * n) ∧ k.covers x.vecA (4 * x.n)) then (.fail .malformed 0, c)
          else
            let (r, bs, c) := c.mread x.tag.toNat (bits v 511 466) (4 * n)
            match r with
            | .held => (.wait, c)
            | .poisoned => (.fail .poisoned (bits v 511 466 / 32768), c)
            | .ok =>
              let cs := elems 32 n bs
              if cs.any (fun y => decide (y % 4 ≠ 0)) then (.fail .malformed 0, c)
              else (.ok { x with counts := cs.map (fun y => min y x.bytes), vec := [(x.rank, min ((cs[if n = 1 then 0 else x.rank]?).getD 0) x.bytes)] }
                ((cs.map (fun y => y - x.bytes)).sum), c)

/-- Tags that running collectives hold (R413). -/
def Chip.collTags (c : Chip) : Nat := ((c.col.slots.filter (fun e => decide (e.2.st ≠ 0))).map (fun e => e.2.tags)).sum

/-- A command that its unit holds or has not started, of TYPE COLLECTIVE and this operation. -/
def Chip.collCmd (c : Chip) (q : Nat) (i : BitVec 32) (op : Nat) : Option Cmd :=
  match c.cmd? q i with
  | some k => if k.type = 5 ∧ k.f 7 0 = op ∧ (k.phase = .issued ∨ k.phase = .held) then some k else none
  | none => none

/-- A command behind another held launch that waits for tags as well: LC before BE, then in order of issue (R23, R271, R413). -/
def Chip.collBehind (c : Chip) (k : Cmd) : Bool :=
  c.allCmds.any (fun m => decide (m.type = 5) && decide (m.f 7 0 ≠ 5) && m.heldBefore k && decide ((c.cslot (m.f 192 187)).st = 0))

/-- The launch of a collective whose checks have passed (R413 steps 2 to 5). -/
def Chip.collLaunch (c : Chip) (k : Cmd) (s : Nat) (x : CSlot) (over_ : Nat) : Chip :=
  let (r, bs, c) := c.mread k.tag.toNat (x.scrA + x.seq % 2 * x.np * 16) (16 * x.np)
  match r with
  | .held => c.holdCmd k
  | .poisoned => c.endWork k.queue k.index .poisoned ((x.scrA + x.seq % 2 * x.np * 16) / 32768)
  | .ok =>
    let x := { x with st := 1, last := some x.seq, cmd := some (k.queue, k.index), tags := 2 ^ x.f 179 176,
                      through := if x.isRed then x.win else x.chunks, lastAt := c.time.ns }
    let c := ((c.injW pgCOL 0).setCslot s x).setCmd { k with phase := .running }
    let c := c.count pgCOL 0 1
    let c := if over_ > 0 then (c.count pgCOL 10 over_).err pgCOL 3 k.tag.toNat 0 else c
    let c := c.count pgCOL 11 (x.counts.filter (fun y => decide (y = 0))).length
    let early := x.peers.filter (fun r =>
      let e := ofBytes ((bs.drop (16 * x.idx x.rank r)).take 16)
      bit e 44 && decide (bits e 63 48 = x.seq))
    let c := early.foldl (fun c r => c.collEntry s r) (c.count pgCOL 7 early.length)
    (if (c.cslot s).st = 1 then c.collCtl s 0 else c).collGo s

/-- A collective command of operation op (R402, R406, R412, R413). -/
def Chip.collStart (c : Chip) (q : Nat) (i : BitVec 32) (op : Nat) : Chip :=
  match c.collCmd q i op, (c.cmd? q i).bind (fun k => c.ctxOf k.ctx) with
  | some k, some y =>
    let s := k.f 192 187
    let m := c.mslot (k.f 186 184)
    let old := c.cslot s
    let x : CSlot := { (default : CSlot) with
      last := old.last, tag := k.tag, queue := q, op := k.op, ctx := k.ctx, job := y.job, lc := k.lc, n := m.n, rank := m.rank, table := m.addr }
    if ¬ (m.valid ∧ m.ctx = k.ctx ∧ m.version = k.f 287 256 ∧ x.formOk ∧ x.rangesOk y ∧ y.hasCtrs (k.f 224 209) 1) then c.malformed k
    else if old.st ≠ 0 then c.holdCmd k
    else if old.last.isSome ∧ old.last ≠ some ((x.seq + 65535) % 65536) then c.malformed k
    else if c.fld pgCOL 0x008 0 0 = 0 then c.endWork q i .aborted 0
    else
      let (a, c) := c.collAux x y
      match a with
      | .fail .malformed _ => c.malformed k
      | .fail st info => c.endWork q i st info
      | .wait => c.holdCmd k
      | .ok x o =>
        if c.collTags + 2 ^ x.f 179 176 > 4096 ∨ c.collBehind k then c.holdCmd k
        else c.collLaunch k s x o
  | _, _ => c

/-- ALL_REDUCE. -/
def Chip.allReduce (c : Chip) (q : Nat) (i : BitVec 32) : Chip := c.collStart q i 0
/-- REDUCE_SCATTER. -/
def Chip.reduceScatter (c : Chip) (q : Nat) (i : BitVec 32) : Chip := c.collStart q i 1
/-- ALL_GATHER. -/
def Chip.allGather (c : Chip) (q : Nat) (i : BitVec 32) : Chip := c.collStart q i 2
/-- ALL_TO_ALL. -/
def Chip.allToAll (c : Chip) (q : Nat) (i : BitVec 32) : Chip := c.collStart q i 3
/-- BROADCAST. -/
def Chip.broadcast (c : Chip) (q : Nat) (i : BitVec 32) : Chip := c.collStart q i 4

/-- MLOAD (R404, R405): a table is checked and bound to its membership slot. -/
def Chip.mload (c : Chip) (q : Nat) (i : BitVec 32) : Chip :=
  match c.collCmd q i 5, (c.cmd? q i).bind (fun k => c.ctxOf k.ctx) with
  | some k, some y =>
    let s := k.f 186 184
    let m := c.mslot s
    let a := k.f 511 466
    if k.f 155 8 ≠ 0 ∨ a % 64 ≠ 0 ∨ ¬ y.covers a 64 ∨ (m.valid ∧ m.ctx ≠ k.ctx) then c.malformed k
    else if c.col.slots.any (fun e => decide (e.2.st ≠ 0) && decide (e.2.f 186 184 = s)) then c.holdCmd k
    else if c.fld pgCOL 0x008 0 0 = 0 then c.endWork q i .aborted 0
    else
      let (r, hd, c) := c.mread k.tag.toNat a 64
      match r with
      | .held => c.holdCmd k
      | .poisoned => c.poisoned k a
      | .ok =>
        let h := ofBytes hd
        let n := bits h 479 461
        if n = 0 ∨ n > 262144 ∨ bits h 460 32 ≠ 0 ∨ ¬ y.covers a (64 + 4 * n) then c.malformed k
        else
          let (r, es, c) := c.mread k.tag.toNat (a + 64) (4 * n)
          match r with
          | .held => c.holdCmd k
          | .poisoned => c.poisoned k (a + 64)
          | .ok =>
            let ns := elems 32 n es
            let rank := ns.idxOf c.node
            if bits h 31 0 ≠ crc32 (toBytes 60 (h >>> 32) ++ es) ∨ ns.any (fun v => decide (v ≥ 2 ^ 18)) ∨ ¬ ns.Nodup ∨ rank ≥ n then c.malformed k
            else
              let c := ({ c with col.mslots := Tab.put default c.col.mslots s ⟨true, k.ctx, a, bits h 511 480, n, rank⟩ }).injW pgCOL 0
              (c.count pgCOL 18 1).endWork q i .ok 0
  | _, _ => c

/-- COLL_TIMEOUT (R430). -/
def Chip.collTimeout (c : Chip) (s : Nat) : Chip :=
  let x := c.cslot s
  let t := x.f 169 165
  if x.st = 0 ∨ x.st = 4 ∨ t = 31 ∨ c.time.ns < x.lastAt + 2 ^ t * 1000 then c
  else (((c.count pgCOL 15 1).err pgCOL 5 x.tag.toNat 0).collFail s .waitExpired 0).collGo s

/-- ABORT_ALL reaches a collective (R431): a held launch ends at once. -/
def Chip.collAbort (c : Chip) (k : Cmd) : Chip :=
  match (List.range 64).find? (fun s => decide ((c.cslot s).st ≠ 0) && decide ((c.cslot s).cmd = some (k.queue, k.index))) with
  | some s => (c.collFail s .aborted 0).collGo s
  | none => c.endWork k.queue k.index .aborted 0

end Sys2Proof.Machine
end

