-- ==== Sys2Proof/Machine/Ingress.lean ====
section
/-!
DEFINITION. What a Caind port does with a packet that arrives (R370 to R373, R384, R387, R391, R482): checks, forwarding,
admission, keys, delivery, acknowledgement; and what goes on when tags come free or a held packet's tile has stopped moving.
-/

namespace Sys2Proof.Machine

/-! ## What goes on afterwards -/

/-- Tags have come free or a tile has stopped moving: COPYs, ROUTEs and collectives go on. -/
def Chip.unitsGo (c : Chip) : Chip := (c.copiesGo.routesGo).collsGo

/-! ## Violations, drops, acknowledgements (R391) -/

/-- A violation in a packet whose header carries this information. -/
def Chip.violation (c : Chip) (h : Nat) : Chip := (c.count pgCFB 16 1).err pgCFB 8 (cfbInfo0 h) (cfbInfo1 h)

/-- Acknowledge a packet with a status (R371, R372). -/
def Chip.ackPkt (c : Chip) (h : Nat) (st : Status) : Chip := c.ackPush (bits h 127 110) (bits h 109 94) (bit h 93) (bits h 92 79) st

/-- A class whose violations are answered: every one that R366 answers by ACK, READ, and the reserved ones (R391). -/
def answered (cls : Nat) : Bool := !(decide (cls = 4) || decide (cls = 5) || decide (cls = 7))

/-- R367: a header is well formed. -/
def headerOk (h : Nat) : Bool :=
  let cls := bits h 45 42
  let len := bits h 78 67
  let a := bits h 173 128
  let tiles := if a < 0xC000000000 then (tilesOf a len).length else 1
  decide (cls ≤ 8) && decide (bits h 48 46 = vcOf cls) && (!(bit h 49) || decide (cls ≤ 2) || decide (cls = 6)) &&
    (!(bit h 50) || decide (cls ≤ 1) || decide (cls = 6)) && decide (len % 4 = 0) && decide (len ≤ 2048) &&
    !((decide (cls = 2) || decide (cls = 3)) && decide (len ≠ 16)) &&
    !(decide (cls = 5) && (decide (len = 0) || decide (len > 256))) && decide (a % 4 = 0) && decide (tiles ≤ 2)

/-- Space of a port's ingress buffer of a link channel that packets occupy, in 32-B units: those held for a MOVING tile, and on VC2
those that wait to be forwarded (R379). -/
def Chip.rxUsed (c : Chip) (p ch : Nat) : Nat :=
  let held := ((c.fab.held.filter (fun e => decide (e.1 = p) && decide (e.2.1 = ch))).map (fun e => (63 + e.2.2.2.length) / 32)).sum
  if ch ≠ 2 then held
  else held + (c.fab.ports.map (fun e => ((e.2.queue.filter (fun k => decide (k.from_ = some p))).map (fun k => (k.bytes + 31) / 32)).sum)).sum

/-- Ingress buffer of a channel in 32-B units (R379). -/
def rxSize (vc : Nat) : Nat := if vc = 1 then 1024 else if vc = 4 then 256 else 2048

/-! ## Admission (R387) -/

/-- What admission makes of a packet. -/
inductive Admit where
  | accept
  | early
  | stale
  | late
  deriving DecidableEq, Repr

/-- R387, for the VC of the header's class. -/
def Chip.admission (c : Chip) (job vc : Nat) : Admit :=
  let e := c.admOf (job / 16)
  let d := (job % 16 + 16 - (if e.st = 0 then e.next else e.gen)) % 16
  if vc = 4 then .accept
  else if e.st ≠ 0 ∧ d = 0 ∧ (e.st = 1 ∨ vc = 1) then .accept
  else if vc = 1 then .late
  else if e.st = 0 then (if d ≤ 7 then .early else .stale)
  else if d = 0 then .stale
  else if d ≤ 7 then .early
  else .stale

/-- A packet that admission drops (R387). -/
def Chip.admitDrop (c : Chip) (h : Nat) (a : Admit) : Chip :=
  let last := fun (c : Chip) (r : Nat) => c.setReg pgCFB 0x228 (bits h 127 110 <<< 46 + bits h 109 94 <<< 30 + r <<< 28)
  match a with
  | .accept => c
  | .late => last (c.count pgCFB 15 1) 2
  | .early => (last ((c.count pgCFB 8 1).err pgCFB 2 (cfbInfo0 h) (cfbInfo1 h)) 0).ackPkt h .droppedEarly
  | .stale => (last ((c.count pgCFB 9 1).err pgCFB 2 (cfbInfo0 h) (cfbInfo1 h)) 1).ackPkt h .droppedStale

/-! ## Keys (R480 to R482) -/

/-- The payload in plain text, when the packet passes the key check (R482); NOTICE and MGMT packets are never keyed. -/
def Chip.unseal (c : Chip) (h : Nat) (data : List (BitVec 8)) : Option (List (BitVec 8)) :=
  if bits h 45 42 ≥ 7 then some data
  else
    match c.linkKey (bits h 109 94) with
    | none => if bit h 32 then none else some data
    | some (x, _, _) =>
      if ¬ bit h 32 then none
      else
        match c.lKey x (bit h 33) with
        | none => none
        | some key =>
          let t := linkT key h
          if ofBytes (t.take 8) = bits h 255 192 then some (linkCrypt key t data) else none

/-! ## Delivery of each class (R370 steps 5 to 8) -/

/-- A packet as the class rules see it. -/
def arriveOf (h : Nat) (data : List (BitVec 8)) : Arrive :=
  { node := bits h 127 110, job := bits h 109 94, cls := bits h 45 42, addr := bits h 173 128, epoch := bits h 41 34,
    ctr := if bit h 50 then some (bits h 66 51) else none, data := data, local_ := false, info0 := cfbInfo0 h, info1 := cfbInfo1 h }

/-- A COLL packet is written, counted, and taken by the collective it belongs to (R383, R414). -/
def Chip.deliverColl (c : Chip) (p : Arrive) : Option Status × Chip :=
  let (st, c) := match region p.addr with
    | .tiled _ => c.deliverMem p
    | _ => if p.data = [] then (some .ok, c) else let (s, c) := c.refuse p pgHOM; (some s, c)
  match st with
  | some .ok =>
    let (s, c) := match p.ctr with | some k => c.deliverCtr p k false 1 | none => (.ok, c)
    (some s, c.collLanded p.job p.addr p.data.length)
  | _ => (st, c)

/-- What a READ is answered with. -/
inductive ReadAns where
  | data (bs : List (BitVec 8))
  | ack (st : Status)
  | wait
  deriving DecidableEq, Repr

/-- A READ reads the tiled range within its job's window, or one CNT_VALUE word (R288, R294, R373, R585). -/
def Chip.deliverRead (c : Chip) (p : Arrive) : ReadAns × Chip :=
  let n := bits (ofBytes p.data) 81 70
  if n = 0 then (.data [], c)
  else
    match region p.addr with
    | .tiled _ =>
      let inWin : Bool := match c.ctxOfJob p.job with | some (_, x) => x.covers p.addr n | none => false
      if ¬ inWin then let (st, c) := c.refuse p pgHOM; (.ack st, c)
      else
        let (r, bs, c) := c.mread 0 p.addr n
        match r with
        | .held => (.wait, c)
        | .poisoned => (.ack .poisoned, c)
        | .ok => (.data bs, c)
    | .ctr k off =>
      let ok : Bool := match c.ctxOfJob p.job with | some (_, x) => x.hasCtrs k 1 | none => false
      if n ≠ 4 ∨ off ≠ 0 then let (st, c) := c.refuse p (pgCNT (k / 1024)); (.ack st, c)
      else if c.clFenced (k / 1024) then (.ack .fenced, c)
      else if ¬ ok then
        let c := (c.count (pgCNT (k / 1024)) 5 1).err (pgCNT (k / 1024)) 2 k p.node
        let (st, c) := c.refuse p (pgCNT (k / 1024)); (.ack st, c)
      else let (v, c) := c.ctrSample k; (.data (toBytes 4 v), c)
    | _ => let (st, c) := c.refuseAt p; (.ack st, c)

/-- The tag that a READ_DATA or an acknowledgement entry matches: outstanding, of that TGEN, sent to that node (R377, R391). -/
def Chip.matchTag (c : Chip) (t : Nat) (tgen : Bool) (node : Nat) : Option Tag :=
  match c.tagOf t with
  | some x => if Tab.get false c.fab.gens t = tgen ∧ x.node = node ∧ x.held.isNone then some x else none
  | none => none

/-- A late acknowledgement or answer is ignored (R391). -/
def Chip.lateAck (c : Chip) (h : Nat) : Chip := (c.count pgCFB 15 1).err pgCFB 10 (cfbInfo0 h) (cfbInfo1 h)

/-- A READ_DATA is written only where its tag says (R373, R382). None: a MOVING tile holds it. -/
def Chip.deliverReadData (c : Chip) (h : Nat) (data : List (BitVec 8)) : Option Chip :=
  match c.matchTag (bits h 92 79) (bit h 93) (bits h 127 110) with
  | none => some (c.lateAck h)
  | some x =>
    if x.read ≠ some (bits h 173 128, data.length) then some (c.lateAck h)
    else
      let (r, c) := c.mwrite 0 (bits h 173 128) data
      match r with
      | .held => none
      | .poisoned => some (c.completeTag (bits h 92 79) .poisoned)
      | .ok => some ((c.collLanded (bits h 109 94) (bits h 173 128) data.length).completeTag (bits h 92 79) .ok)

/-- Statuses that an acknowledgement may carry (R371, R391). -/
def ackStatusOk (code : Nat) : Bool := [0, 2, 4, 6, 9, 10].contains code

/-- One acknowledgement entry (R372, R377, R391). -/
def Chip.ackEntry (c : Chip) (h e : Nat) : Chip :=
  match c.matchTag (bits e 28 15) (bit e 29) (bits h 127 110) with
  | none => c.lateAck h
  | some _ =>
    if ackStatusOk (bits e 14 11) then c.completeTag (bits e 28 15) (Status.ofCode (bits e 14 11)) else c.violation h

/-- The class rules for one packet, and its answer; a packet that a MOVING tile holds waits (R294, R370). -/
def Chip.classRules (c : Chip) (port ch : Nat) (hdr : BitVec 256) (data : List (BitVec 8)) : Chip :=
  let h := hdr.toNat
  let p := arriveOf h data
  let hold := fun (c : Chip) => { c with fab.held := c.fab.held ++ [(port, ch, hdr, data)] }
  match p.cls with
  | 3 =>
    let (a, c) := c.deliverRead p
    match a with
    | .wait => hold c
    | .ack st => c.ackPkt h st
    | .data bs =>
      let ret := bits (ofBytes data) 127 82
      (c.count pgCFB 21 1).sendReply (mkHdr 4 p.node ret p.job bs.length 0 none false) bs (bits h 92 79) (bit h 93)
  | 4 => match c.deliverReadData h data with | some c => c | none => hold c
  | 5 =>
    let es := (List.range (data.length / 4)).map (fun j => ofBytes ((data.drop (4 * j)).take 4))
    es.foldl (fun c e => c.ackEntry h e) (c.count pgCFB 5 1)
  | 6 =>
    let (st, c) := c.deliverColl p
    match st with
    | some st => c.ackPkt h st
    | none => hold c
  | 7 => if data.length ≠ 8 ∨ bits (ofBytes data) 29 28 ≥ 2 then c.violation h else c.pathNotice h (ofBytes data)
  | _ =>
    let (st, c) := c.deliver p
    match st with
    | some st => c.ackPkt h st
    | none => hold c

/-- Packets held for MOVING tiles are looked at again, in order of arrival (R294). -/
def Chip.heldGo (c : Chip) : Chip :=
  let l := c.fab.held
  l.foldl (fun c e => c.classRules e.1 e.2.1 e.2.2.1 e.2.2.2) { c with fab.held := [] }

/-! ## Arrival (R370, R384, R391) -/

/-- A packet for this node: R370 from step 1. The answer holds the payload of a MGMT packet that has passed, for the Curator. -/
def Chip.ingressOwn (c : Chip) (port ch : Nat) (hdr : BitVec 256) (data : List (BitVec 8)) : Chip × Option (List (BitVec 8)) :=
  let h := hdr.toNat
  let c := (c.count pgCFB 2 1).count pgCFB 3 (32 + data.length)
  let badRead := decide (bits h 45 42 = 3) && (decide (bits (ofBytes data) 81 70 > 2048) || decide (bits (ofBytes data) 81 70 % 4 ≠ 0) ||
    decide (bits (ofBytes data) 127 82 % 4 ≠ 0))
  if ¬ headerOk h ∨ badRead then
    let c := c.violation h
    (if answered (bits h 45 42) then c.ackPkt h .aborted else c, none)
  else
    let (c, ue) := c.injR pgCFB 0 (cfbInfo0 h) (cfbInfo1 h)
    if ue then (c, none)
    else match c.admission (bits h 109 94) (bits h 48 46) with
    | .accept =>
      match c.unseal h data with
      | none => ((c.count pgCFB 17 1).err pgCFB 9 (cfbInfo0 h) (cfbInfo1 h), none)
      | some plain => if bits h 45 42 = 8 then (c, some plain) else (c.classRules port ch hdr plain, none)
    | a => (c.admitDrop h a, none)

/-- A disallowed arrival (R384). -/
def Chip.turn (c : Chip) (port h : Nat) : Chip := (c.count (pgCPT port) 19 1).err (pgCPT port) 9 (bits h 127 110) 0

/-- A packet for forwarding that is dropped (R391). -/
def Chip.fwdDrop (c : Chip) (h : Nat) : Chip := (c.count pgCFB 19 1).err pgCFB 11 (cfbInfo0 h) (cfbInfo1 h)

/-- A packet for another node (R384, R391). -/
def Chip.ingressOther (c : Chip) (port : Nat) (vc2 : Bool) (hdr : BitVec 256) (data : List (BitVec 8)) : Chip :=
  let h := hdr.toNat
  let node := bits h 191 174
  let fwdIn := decide (c.fld pgCFB 0x008 2 2 = 1)
  let vc := bits h 48 46
  let go := fun (c : Chip) (ports : List Nat) =>
    match c.leastQueued vc ports with
    | none => c.fwdDrop h
    | some r => (c.count (pgCPT port) 20 1).enqueue r ⟨hdr, data, vc, false, some port⟩
  if c.isBypass port then
    if !vc2 || decide (node = c.peer) || !fwdIn then c.turn port h else go c (c.switchPorts node)
  else if c.bypass && decide (node = c.peer) then
    if !fwdIn || !c.bypUp then c.fwdDrop h else if !vc2 then c.turn port h else go c c.bypPorts
  else c.turn port h

/-- A packet arrives on a port, on its header VC or on VC2 (R370, R379, R391); after a discarded frame nothing is taken until the
replay arrives (R363). The answer holds the payload of a MGMT packet for the Curator. -/
def Chip.ingress (c : Chip) (port : Nat) (vc2 : Bool) (hdr : BitVec 256) (data : List (BitVec 8)) : Chip × Option (List (BitVec 8)) :=
  let h := hdr.toNat
  let vc := bits h 48 46
  let ch := if vc2 then 2 else vc
  if ¬ c.portUp port ∨ (c.portOf port).rxWait ∨ data.length ≠ bits h 78 67 then (c, none)
  else
    let c := (c.count (pgCPT port) 2 1).count (pgCPT port) 3 (32 + data.length)
    if c.rxUsed port ch + (63 + data.length) / 32 > rxSize ch then ((c.count (pgCPT port) 18 1).err (pgCPT port) 8 (bits h 127 110) 0, none)
    else if bits h 31 0 ≠ hdrCrc h then (c.violation h, none)
    else if bits h 45 42 ≠ 7 ∧ bits h 191 174 ≠ c.node then (c.ingressOther port vc2 hdr data, none)
    else
      let c := if vc2 && decide (vc = vcOf (bits h 45 42)) then c.count pgCFB 16 1 else c
      let (c, m) := c.ingressOwn port ch hdr data
      (c.unitsGo, m)

/-- A CAIND_ row: the packet is of the row's class; a packet of a reserved CLASS comes with the WRITE row, and a MGMT packet with the
row of its frame (R450). -/
def Chip.caind (c : Chip) (port cls : Nat) (hdr : BitVec 256) (data : List (BitVec 8)) : Chip :=
  let k := hf hdr 45 42
  if k = cls ∨ (cls = 0 ∧ k > 8) then (c.ingress port false hdr data).1 else c

end Sys2Proof.Machine
end

