-- ==== Sys2Proof/Machine/Cpx.lean ====
section
/-!
DEFINITION. Core memories as the host window and the CPX reach them (R288), and the requests that the CPX firmware serves (R284 to
R286, R586).
-/

namespace Sys2Proof.Machine

/-! ## Core memories (R288) -/

/-- Faults placed in words of a core memory that are read are met; no command fails while the core runs no kernel, and ERR_INFO0 is
then free (R236, log 7). -/
def Chip.coreFound (c : Chip) (imem : Bool) (n a len : Nat) : Chip :=
  (c.faultsIn (pgCORE n) (if imem then 0 else 1) a len).foldl (fun c p =>
    let i := if imem then 2 ^ 31 + p.at_ / 4 % 16384 else p.at_ / 4 % 65536
    let (t, c) := c.orFree 32 (if (c.coreOf n).cmd.isSome then some (c.coreOf n).tag.toNat else none)
    (c.faultFound p t i t i).1) c

/-- A read of len bytes of a core's local or instruction memory, within one core (R288, R507). -/
def Chip.coreMemRead (c : Chip) (imem : Bool) (n off len : Nat) : List (BitVec 8) × Chip :=
  let a := n * (if imem then 65536 else 262144) + off
  if c.clGated (n / 8) then (List.replicate len 0, c.count pgPWR 17 1)
  else (Mem.readN (if imem then c.core.imem else c.core.lmem) a len, c.coreFound imem n a len)

/-- A write there: only while the core is IDLE or stopped (R288, R507, R582). An armed fault of the memory is placed in it (R539). -/
def Chip.coreMemWrite (c : Chip) (imem : Bool) (n off : Nat) (bs : List (BitVec 8)) : Chip :=
  let a := n * (if imem then 65536 else 262144) + off
  let target := if imem then 0 else 1
  if c.clGated (n / 8) then c.count pgPWR 17 1
  else if (c.coreOf n).st = 1 ∨ (c.coreOf n).st = 2 then
    c.badAddr (pgCORE n) ((if imem then 0x150000000000 else 0x110000000000) + a) true
  else
    let c := if imem then { c with core.imem := Mem.writeL c.core.imem a bs } else { c with core.lmem := Mem.writeL c.core.lmem a bs }
    (c.rewritten (pgCORE n) target a bs.length).injWA (pgCORE n) target (a / 4 * 4)

/-- A range cut at the boundaries between cores: core, offset, length. -/
def coreCuts (size n off len : Nat) : List (Nat × Nat × Nat) :=
  if off + len ≤ size then [(n, off, len)] else [(n, off, size - off), (n + 1, 0, off + len - size)]

/-- Size of the region that an address lies in, from that address to the region's end (R287). -/
def roomAt (a : Nat) : Nat :=
  match region a with
  | .tiled _ => 0xBFF0000000 - a
  | .sys _ => 0xC000000000 - a
  | .lmem _ _ => 0x110008000000 - a
  | .ctr _ _ => 0x120000100000 - a
  | .page _ _ => 0x130010000000 - a
  | .mbx _ => 0x140000100000 - a
  | .imem _ _ => 0x150002000000 - a
  | .none => 0

/-- Bytes of a core memory, over the boundaries between cores. -/
def Chip.coreRange (c : Chip) (imem : Bool) (k off n : Nat) : List (BitVec 8) × Chip :=
  (coreCuts (if imem then 65536 else 262144) k off n).foldl (fun (s : List (BitVec 8) × Chip) p =>
    let (b, c) := s.2.coreMemRead imem p.1 p.2.1 p.2.2; (s.1 ++ b, c)) ([], c)

/-- Bytes written to a core memory, over the boundaries between cores. -/
def Chip.corePut (c : Chip) (imem : Bool) (k off : Nat) (bs : List (BitVec 8)) : Chip :=
  ((coreCuts (if imem then 65536 else 262144) k off bs.length).foldl (fun (s : Chip × List (BitVec 8)) p =>
    (s.1.coreMemWrite imem p.1 p.2.1 (s.2.take p.2.2), s.2.drop p.2.2)) (c, bs)).1

/-! ## The request block (R284, R285, R288) -/

/-- The CPX reads its 64-B request block: a MOVING tile holds it; a reserved address, a POISONED tile or an uncorrectable error makes
it unreadable. -/
def Chip.reqRead (c : Chip) (a : Nat) : AccRes × Nat × Chip :=
  if roomAt a < 64 then (.poisoned, 0, c.badAddr (badPage a) a false)
  else match region a with
    | .tiled _ => let (r, bs, c) := c.mread 0 a 64; (r, ofBytes bs, c)
    | .sys _ => let (r, bs, c) := c.mread 0 a 64; (r, ofBytes bs, c)
    | .lmem k off => let (bs, c) := c.coreRange false k off 64; (.ok, ofBytes bs, c)
    | .imem k off => let (bs, c) := c.coreRange true k off 64; (.ok, ofBytes bs, c)
    | _ => (.poisoned, 0, c.badAddr (badPage a) a false)

/-- A core memory takes a write of the CPX: its core is IDLE or stopped, and not gated. -/
def Chip.coreOpen (c : Chip) (k : Nat) : Bool := !(c.clGated (k / 8)) && decide ((c.coreOf k).st ≠ 1) && decide ((c.coreOf k).st ≠ 2)

/-- Whether RESULT can be written into the block: not in the home table, a core memory that is not open, or a POISONED tile. -/
def Chip.reqRoom (c : Chip) (a : Nat) : AccRes :=
  match region a with
  | .tiled _ => c.accRes a 64
  | .sys _ => if a < 0xBFF0000000 + 8 * 25165824 then .poisoned else c.accRes a 64
  | .lmem k off => if (coreCuts 262144 k off 64).all (fun p => c.coreOpen p.1) then .ok else .poisoned
  | .imem k off => if (coreCuts 65536 k off 64).all (fun p => c.coreOpen p.1) then .ok else .poisoned
  | _ => .poisoned

/-- A RESULT that cannot be written is logged as the access that it is (R288, R294, R582). -/
def Chip.reqDenied (c : Chip) (a : Nat) : Chip :=
  match region a with
  | .tiled _ => c.poisonRefuse 0 a 64
  | _ => c.badAddr (badPage a) a true

/-- The block is written back, where it can be. -/
def Chip.reqWrite (c : Chip) (a v : Nat) : Chip :=
  match region a with
  | .lmem k off => c.corePut false k off (toBytes 64 v)
  | .imem k off => c.corePut true k off (toBytes 64 v)
  | _ => (c.mwrite 0 a (toBytes 64 v)).2

/-! ## Operations (R286) -/

/-- A POISONED tile comes first, or no tile of the range moves: TILE_PIN waits for a MOVING one (R286). -/
def Chip.pinReady (c : Chip) (first : Nat) : Nat → Bool
  | 0 => true
  | n + 1 => match (c.tileOf first).st with
    | .moving => false
    | .poisoned => true
    | _ => Chip.pinReady c (first + 1) n

/-- Tiles become PINNED or RESIDENT where they are, up to a POISONED one; the answer says whether there was one (R286, R308). -/
def Chip.pinWalk (c : Chip) (pin : Bool) (first : Nat) : Nat → Bool × Chip
  | 0 => (false, c)
  | n + 1 =>
    let t := c.tileOf first
    match t.st with
    | .poisoned => (true, c)
    | _ =>
      let c := c.setTile first { t with st := if pin then .pinned else .resident }
      let c := if t.tier then c.setSlot t.slot { c.slotOf t.slot with pinned := pin } else c
      Chip.pinWalk (c.entryTraffic first false) pin (first + 1) n

/-- The waiting moves of a context's Timetable and demand bindings are withdrawn with the bindings (R308, R286). -/
def Chip.dropCtxMoves (c : Chip) (x : Nat) : Chip :=
  c.dropBy (fun b => match b with
    | .timetable y => decide (y = x)
    | .demand n _ => (match Tab.get none c.hom.dbinds n with | some d => decide (d.ctx = x) | none => false)
    | _ => false)

/-- A CTX_CREATE that breaks the Fails column: another context has its job, or a tile or counter of its ranges (R286). -/
def Chip.createClash (c : Chip) (job wf wt cb cc : Nat) : Bool :=
  c.fe.ctxs.any (fun e => match e.2 with
    | some k => decide (k.job = job) || (decide (0 < wt) && decide (0 < k.winTiles) && decide (wf < k.winFirst + k.winTiles) && decide (k.winFirst < wf + wt)) ||
        (decide (0 < cc) && decide (0 < k.ctrCount) && decide (cb < k.ctrBase + k.ctrCount) && decide (k.ctrBase < cb + cc))
    | none => false)

/-- A request as its checks find it: OK, or the RESULT of its failure (R285, R286). -/
def Chip.cpxCheck (c : Chip) (b : Nat) : Status :=
  let op := bits b 511 504
  let x := bits b 503 496
  let wf := bits b 479 455
  let wt := bits b 454 430
  let cb := bits b 429 414
  let cc := bits b 413 397
  let plain := setBits (setBits b 396 389 0) 388 388 0
  if crc32 ((toBytes 64 plain).drop 4) ≠ bits b 31 0 ∨ op = 0 ∨ op > 7 ∨ bits b 387 32 ≠ 0 then .malformed
  else
    match op, c.ctxOf x with
    | 5, _ => .ok
    | 1, none =>
      if c.createClash (bits b 495 480) wf wt cb cc ∨ cb % 64 ≠ 0 ∨ cc % 64 ≠ 0 ∨ cb + cc > 65536 ∨ (0 < wt ∧ wf + wt > 25157632) then .malformed
      else .ok
    | 1, some _ => .malformed
    | _, none => .malformed
    | 2, some _ => if (c.ctxQueues x).any (fun e => e.2.enabled) || c.ctxInFlight x then .malformed else .ok
    | 3, some _ => if c.ctxBlocked x then .ok else .aborted
    | 4, some _ => if c.freeSlots = [] then .aborted else .ok
    | _, some k => if k.hasTiles wf wt then .ok else .malformed

/-- Time of a request that passes, in ns (R286). -/
def cpxNs (b : Nat) : Nat :=
  match bits b 511 504 with
  | 1 => 4000 | 2 => 3000 | 3 => 700 | 4 => 1800 | 5 => 500 | _ => 2000 + 10 * bits b 454 430

/-- A request that passes takes its effect; RESULT (R286). -/
def Chip.cpxEffect (c : Chip) (b : Nat) : Status × Chip :=
  let x := bits b 503 496
  let wf := bits b 479 455
  let wt := bits b 454 430
  match bits b 511 504 with
  | 1 =>
    let c := c.setCtx x (some ⟨bits b 495 480, wf, wt, bits b 429 414, bits b 413 397, none, 0, false, none⟩)
    let c := match c.freeSlots with | s :: _ => c.ctxIn x s | [] => c
    (.ok, c.ctxRefresh)
  | 2 =>
    (.ok, { (((c.dropCtxMoves x).setCtx x none).setKeys x default) with
      hom.tts := Tab.put none c.hom.tts x none,
      hom.dbinds := c.hom.dbinds.filter (fun e => match e.2 with | some d => !(decide (d.ctx = x)) | none => true),
      rd.rtags := c.rd.rtags.filter (fun e => decide (e.1 ≠ x)) })
  | 3 => (.ok, (c.ctxOut x).ctxRefresh)
  | 4 =>
    match c.ctxOf x, c.freeSlots with
    | some k, s :: _ => (.ok, if k.slot.isSome then c else (c.ctxIn x s).ctxRefresh)
    | _, _ => (.aborted, c)
  | 5 => (.ok, c)
  | op =>
    let (bad, c) := c.pinWalk (decide (op = 6)) wf wt
    (if bad then .poisoned else .ok, c)

/-- Fields 387:300 that CTX_QUERY writes (R586). -/
def Chip.queryBits (c : Chip) (x : Nat) : Nat :=
  match c.ctxOf x with
  | none => 0
  | some k =>
    (b2n k.slot.isSome) <<< 87 + (k.slot.getD 0) <<< 83 + 1 <<< 82 + (b2n (c.ctxBlocked x)) <<< 81 +
      (b2n (c.ctxRunnable x)) <<< 80 + k.blockTime.toNat

/-- REQ_READ: ERR_INFO0 holds the block's address; R284 gives ERR_INFO1 no content (a free value, log 7). -/
def Chip.cpxReadErr (c : Chip) (a : Nat) : Chip :=
  let (v, c) := c.freeVal 32
  c.err pgCPX 0 (a % 2 ^ 32) v

/-! ## Service (R284, R286) -/

/-- The request that has come is read and checked: one whose block cannot be read, or whose RESULT cannot be written there, has no
effect and ends within 1 µs, as does one that fails a check. -/
def Chip.cpxStart (c : Chip) (a : Nat) : Chip :=
  let (r, b, c) := c.reqRead a
  match r with
  | .held => { c with fe.cpx := some ⟨a, 0, c.time.ns + 1000, .ok, 0, 0, true, true⟩ }
  | .poisoned => { c with fe.cpx := some ⟨a, 0, c.time.ns + 1000, .poisoned, 0, 0, false, false⟩ }
  | .ok =>
    if c.reqRoom a = .poisoned then { (c.reqDenied a) with fe.cpx := some ⟨a, 0, c.time.ns + 1000, .poisoned, 0, 0, false, false⟩ }
    else
      let st := c.cpxCheck b
      { c with fe.cpx := some ⟨a, BitVec.ofNat 512 b, c.time.ns + (if st = .ok then cpxNs b else 1000), st, 0, 0, true, false⟩ }

/-- CPX_REQ (R284). -/
def Chip.cpxReq (c : Chip) (a : Nat) : Chip :=
  if ¬ c.fe.cpxUp then c
  else if c.fe.cpx.isSome then c.errFree2 pgCPX 8
  else c.cpxStart a

/-- A CPX_REQ write whose request block names operation op, or cannot be read. -/
def Chip.cpxRow (c : Chip) (op a : Nat) : Chip :=
  match c.reqRead a with
  | (.ok, b, _) => if bits b 511 504 = op then c.cpxReq a else c
  | _ => c.cpxReq a

/-- The effect of a request whose Time has ended, and its RESULT; none: a MOVING tile is waited for. A request that no longer passes
its checks has no effect (log 170). -/
def Chip.cpxTake (c : Chip) (r : ReqSt) : Option (Status × Chip) :=
  let b := r.block.toNat
  if r.result ≠ .ok then some (r.result, c)
  else if c.cpxCheck b ≠ .ok then some (c.cpxCheck b, c)
  else if 6 ≤ bits b 511 504 ∧ ¬ c.pinReady (bits b 479 455) (bits b 454 430) then none
  else some (c.cpxEffect b)

/-- CPX_REQUEST_DONE (R286): the request takes its effect, RESULT and DONE are written, and BUSY clears. -/
def Chip.cpxRequestDone (c : Chip) : Chip :=
  match c.fe.cpx with
  | none => c
  | some r =>
    if c.time.ns < r.until_ then c
    else if ¬ r.readable then { (c.cpxReadErr r.addr) with fe.cpx := none }
    else if r.again then c.cpxStart r.addr
    else
      let (a, now, c) := c.reqRead r.addr
      match a, c.reqRoom r.addr with
      | .ok, .ok =>
        match c.cpxTake r with
        | none => c
        | some (st, c) =>
          let w := setBits (setBits now 396 389 st.code) 388 388 1
          let w := if bits r.block.toNat 511 504 = 5 ∧ st = .ok then setBits w 387 300 (c.queryBits (bits r.block.toNat 503 496)) else w
          { (c.reqWrite r.addr w) with fe.cpx := none }
      | .ok, .poisoned => { ((c.reqDenied r.addr).cpxReadErr r.addr) with fe.cpx := none }
      | .poisoned, _ => { (c.cpxReadErr r.addr) with fe.cpx := none }
      | _, _ => c

end Sys2Proof.Machine
end

