-- ==== Sys2Proof/Machine/Sec.lean ====
section
/-!
DEFINITION. The security block (13_security.md): firmware checks and floors (R457, R463 to R467), the identity key's signature
state (R468 to R470), requests (R471 to R477), the key store (R478) and rotation (R483 to R485). The algorithms that the spec
takes from other standards by name are the constants without a body of Config.lean (log 2).
-/

namespace Sys2Proof.Machine

/-! ## Flash (R456) -/

/-- A byte of the flash: as written, else as manufacture left it. -/
def Chip.flashByte (c : Chip) (a : Nat) : BitVec 8 := (Tab.get none c.fz.flash a).getD (Config.flash0 a)

/-- n bytes of the flash. -/
def Chip.flashN (c : Chip) (a n : Nat) : List (BitVec 8) := (List.range n).map (fun i => c.flashByte (a + i))

/-- Program bytes. -/
def Chip.flashPut (c : Chip) (a : Nat) : List (BitVec 8) → Chip
  | [] => c
  | b :: bs => Chip.flashPut { c with fz.flash := Tab.put none c.fz.flash a (some b) } (a + 1) bs

/-- Erase n bytes: every byte reads 0xFF (PRESUMED, NOR flash; log 20). -/
def Chip.flashErase (c : Chip) (a n : Nat) : Chip := c.flashPut a (List.replicate n 255)

/-- Offset and size of a component's region (R456). -/
def compRegion (k : Nat) : Nat × Nat :=
  match k with
  | 1 => (0x100000, 0x200000) | 2 => (0x300000, 0x100000) | 3 => (0x400000, 0x400000) | 4 => (0x800000, 0x800000)
  | _ => (0x1500000, 0x100000)

/-! ## Images (R457, R465, R466) -/

/-- Result of the check of an image. -/
inductive ImgRes where
  | ok | bad | rollback
  deriving DecidableEq, Repr

/-- VERSION of an image header. -/
def imgVersion (h : List (BitVec 8)) : Nat := ofBytes ((h.drop 8).take 4)
/-- LENGTH of an image header. -/
def imgLength (h : List (BitVec 8)) : Nat := ofBytes ((h.drop 16).take 8)
/-- DIGEST of an image header. -/
def imgDigest (h : List (BitVec 8)) : List (BitVec 8) := (h.drop 24).take 64

/-- MAGIC, COMPONENT, LENGTH, DIGEST, signature and the epoch rule (R457, R466). -/
def imgCheck (k floor : Nat) (h body : List (BitVec 8)) : ImgRes :=
  if ofBytes (h.take 4) ≠ 0x4B465748 ∨ ofBytes ((h.drop 4).take 1) ≠ k ∨ imgLength h > (compRegion k).2 - 4096 ∨
      Config.shake512 body ≠ imgDigest h ∨ ¬ Config.xmssVerify (h.take 128) ((h.drop 128).take 2820) ∨
      imgVersion h / 2 ^ 24 > 64 then .bad
  else if imgVersion h / 2 ^ 24 < floor then .rollback
  else .ok

/-- Fused floor of a component (R466). -/
def Chip.floorOf (c : Chip) (k : Nat) : Nat := c.fz.floors.getD (k - 1) 0

/-- The report of a check: counters, VERIFY and ROLLBACK (R466, R492). -/
def Chip.imgReport (c : Chip) (k : Nat) (r : ImgRes) : Chip :=
  match r with
  | .ok => c.count pgSEC 9 1
  | .bad => (c.count pgSEC 10 1).err pgSEC 2 k 0
  | .rollback => ((c.count pgSEC 10 1).err pgSEC 2 k 0).err pgSEC 3 k 0

/-- The image that the flash holds for a component. -/
def Chip.flashCheck (c : Chip) (k : Nat) : ImgRes :=
  let h := c.flashN (compRegion k).1 4096
  imgCheck k (c.floorOf k) h (c.flashN ((compRegion k).1 + 4096) (min (imgLength h) ((compRegion k).2 - 4096)))

/-- The ROM verifies a component before it loads it; a good one's DIGEST and VERSION are latched and its reset is no longer
awaited (R465, R475). The answer is whether it passed. -/
def Chip.verifyComp (c : Chip) (k : Nat) : Bool × Chip :=
  let r := c.flashCheck k
  let c := c.imgReport k r
  let h := c.flashN (compRegion k).1 4096
  if r = .ok then
    (true, { c with sec.meas := Tab.put [] c.sec.meas k (imgDigest h), sec.vers := Tab.put 0 c.sec.vers k (imgVersion h),
                    sec.pending := c.sec.pending &&& ~~~(BitVec.ofNat 5 (2 ^ (k - 1))) })
  else (false, c)

/-- Verify components in ascending order until one fails; the answer names it (R465). -/
def Chip.verifyComps (c : Chip) : List Nat → Option Nat × Chip
  | [] => (none, c)
  | k :: ks => if (c.verifyComp k).1 then Chip.verifyComps (c.verifyComp k).2 ks else (some k, (c.verifyComp k).2)

/-- The digest of a component's image is still the latched one (R518 steps 7 and 10). -/
def Chip.digestHolds (c : Chip) (k : Nat) : Bool :=
  let h := c.flashN (compRegion k).1 4096
  decide (Config.shake512 (c.flashN ((compRegion k).1 + 4096) (min (imgLength h) ((compRegion k).2 - 4096))) = Tab.get [] c.sec.meas k)

/-- Running epoch of component k. -/
def Chip.epochOf (c : Chip) (k : Nat) : Nat := Tab.get 0 c.sec.vers k / 2 ^ 24

/-- The floors once every component has verified: each is raised to its image's epoch (R467). -/
def Chip.newFloors (c : Chip) : List Nat := (List.range 5).map (fun i => max (c.floorOf (i + 1)) (min 64 (c.epochOf (i + 1))))

/-- Floors are raised and the Ledger gets a FIRMWARE record for each that rose (R467). -/
def Chip.raiseFloors (c : Chip) : Chip :=
  let up := (List.range 5).filter (fun i => decide (c.floorOf (i + 1) < c.newFloors.getD i 0))
  let c' := { c with fz.floors := c.newFloors }
  up.foldl (fun (d : Chip) i => d.ledgerEv pgSEC 4 (some (i + 1)) none none) c'

/-- At boot NEXT and LIMIT take the highest LIMIT reserved (R469). -/
def Chip.xmssBoot (c : Chip) : Chip :=
  let m := c.fz.xmssRecs.foldl max 0
  { c with fz.xmssNext := m, fz.xmssLimit := m }

/-! ## The key store (R478) -/

/-- An installed key. -/
def KeySet.key (k : KeySet) (link gen : Bool) : Option (BitVec 512) :=
  match link, gen with
  | false, false => k.w0 | false, true => k.w1 | true, false => k.l0 | true, true => k.l1

/-- Install or erase a key. -/
def KeySet.setKey (k : KeySet) (link gen : Bool) (v : Option (BitVec 512)) : KeySet :=
  match link, gen with
  | false, false => { k with w0 := v } | false, true => { k with w1 := v }
  | true, false => { k with l0 := v } | true, true => { k with l1 := v }

/-- Current generation of a kind. -/
def KeySet.cur (k : KeySet) (link : Bool) : Option Bool := if link then k.lCur else k.wCur

/-- An entry of the key store is read: an uncorrectable error erases that generation alone (R478, R523);
R492 gives a corrected one no ERR_INFO0 (a free value, log 7). -/
def Chip.keyCheck (c : Chip) (x : Nat) (link gen : Bool) : Chip :=
  let ce := (c.flt.placed.find? (fun p => decide (p.page = pgSEC) && decide (p.target = 0))).any (fun p => decide (p.kind = 0 ∨ p.kind = 3))
  let (c, ue) := if ce then c.injRF pgSEC 0 0 else c.injR pgSEC 0 x (b2n gen + 2 * b2n link)
  if ue then c.setKeys x ((c.keysOf x).setKey link gen none) else c

/-! ## Requests (R471 to R473) -/

/-- The security block accepts requests (SEC_STAT.UP). -/
def Chip.secUp (c : Chip) : Bool := decide (c.pwr.st = .active)

/-- Memory that a request names beyond its block: its input and its output (R471, R473). -/
def secRanges (b : Nat) : List (Nat × Nat) :=
  match bits b 511 504 with
  | 1 => [(bits b 493 448, 32), (bits b 447 402, 4868)]
  | 2 => [(bits b 447 402, 136)]
  | 3 => [(bits b 493 448, 1680)]
  | _ => []

/-- The form of a request: CRC, OP, reserved fields, the windows and alignments of what it names (R471 to R473, R485). -/
def secForm (k : Ctx) (a b : Nat) : Bool :=
  let plain := setBits (setBits (setBits b 351 344 0) 343 343 0) 319 288 0
  decide (crc32 ((toBytes 64 plain).drop 4) = bits b 31 0) && decide (1 ≤ bits b 511 504) && decide (bits b 511 504 ≤ 7) &&
    decide (bits b 342 320 = 0) && decide (bits b 287 32 = 0) && k.covers a 64 && decide (a % 64 = 0) &&
    (secRanges b).all (fun r => k.covers r.1 r.2 && decide (r.1 % 64 = 0)) &&
    (decide (bits b 511 504 ≠ 6) || (decide (bits b 376 352 ≤ 25165824) && k.hasTiles (bits b 401 377) (bits b 376 352)))

/-- How far a request has come: its RESULT, tiles left to walk, tiles re-keyed, its Time in ns. -/
structure SecOut where
  st : Status
  left : Nat
  rekeyed : Nat
  ns : Nat
  deriving DecidableEq, Repr

/-- ERR_INFO1 of a key (R492). -/
def keyInfo (link gen : Bool) : Nat := b2n gen + 2 * b2n link

/-! ### ATTEST and PUBKEY (R468 to R470, R474, R475) -/

/-- n bytes of a value of another standard, cut or filled to the length that its standard gives. -/
def sized (n : Nat) (bs : List (BitVec 8)) : List (BitVec 8) := (bs ++ List.replicate n 0).take n

/-- Bytes 0 to 2,047 of the Provenance report (R475). -/
def Chip.report (c : Chip) (k : Ctx) (idx pair : Nat) (nonce : List (BitVec 8)) : List (BitVec 8) :=
  toBytes 4 0x4B505256 ++ toBytes 2 1 ++ toBytes 2 0x4101 ++ toBytes 8 Config.dieSerial.toNat ++ toBytes 4 (c.reg pgCFB 0x200) ++
    toBytes 2 k.job ++ toBytes 2 0 ++ toBytes 8 c.time.tb.toNat ++ toBytes 4 idx ++ c.fz.floors.map (fun f => BitVec.ofNat 8 f) ++
    List.replicate 23 0 ++ (List.range 5).flatMap (fun i => sized 64 (Tab.get [] c.sec.meas (i + 1))) ++
    (List.range 5).flatMap (fun i => toBytes 4 (Tab.get 0 c.sec.vers (i + 1))) ++ toBytes 1 c.sec.pending.toNat ++
    List.replicate 43 0 ++ sized 32 nonce ++ sized 1568 (Config.kemKey pair)

/-- The 32 bytes of a reservation record (R469). -/
def xmssRecord (limit : Nat) : List (BitVec 8) :=
  let b := toBytes 4 0x4B585352 ++ toBytes 4 limit ++ List.replicate 20 0
  b ++ toBytes 4 (crc32 b)

/-- A block of 64 indices is reserved before an index at LIMIT is used: its record is programmed after the earlier ones (R469). The
answer says whether a record was written. -/
def Chip.xmssReserve (c : Chip) : Bool × Chip :=
  if c.fz.xmssNext = c.fz.xmssLimit then
    let n := c.fz.xmssLimit + 64
    let c := (c.count pgSEC 2 1).flashPut (0x1400000 + 32 * c.fz.xmssRecs.length) (xmssRecord n)
    (true, { c with fz.xmssRecs := c.fz.xmssRecs ++ [n], fz.xmssLimit := n })
  else (false, c)

/-- ATTEST: a new ML-KEM key pair, and the signed report (R473 to R475). -/
def Chip.attest (c : Chip) (k : Ctx) (b : Nat) : SecOut × Chip :=
  if c.fz.xmssNext ≥ 1048576 then (⟨.key, 0, 0, 1500000⟩, c.errFree pgSEC 8 0)
  else
    let n := c.time.draws
    let c := { c with time.draws := n + 1 }
    if ¬ Config.entropyOk n then (⟨.aborted, 0, 0, 1500000⟩, (c.count pgSEC 11 1).errFree pgSEC 5 0)
    else
      let (r, nonce, c) := c.mread 0 (bits b 493 448) 32
      if r ≠ .ok then (⟨.poisoned, 0, 0, 1500000⟩, c)
      else
        let (wrote, c) := c.xmssReserve
        let idx := c.fz.xmssNext
        let c := { c with sec.kem := some n, sec.nonce := nonce }
        let bs := c.report k idx n nonce
        let sig := sized 2820 (Config.xmssSign idx bs)
        let c := { (c.count pgSEC 1 1) with fz.xmssNext := idx + 1 }
        let (w, c) := c.mwrite 0 (bits b 447 402) (bs ++ sig)
        (⟨if w = .ok then .ok else .poisoned, 0, 0, if wrote then 1700000 else 1500000⟩, c)

/-- PUBKEY: the identity public key, then the firmware public key (R473). -/
def Chip.pubkey (c : Chip) (b : Nat) : SecOut × Chip :=
  let (w, c) := c.mwrite 0 (bits b 447 402) (sized 68 Config.identityKey ++ sized 68 Config.firmwareKey)
  (⟨if w = .ok then .ok else .poisoned, 0, 0, 10000⟩, c)

/-! ### Keys (R473, R477, R483, R484) -/

/-- ASCII of KSN-ENV and KSN-TAG (R477). -/
def sEnv : List (BitVec 8) := [0x4B, 0x53, 0x4E, 0x2D, 0x45, 0x4E, 0x56]
def sTag : List (BitVec 8) := [0x4B, 0x53, 0x4E, 0x2D, 0x54, 0x41, 0x47]

/-- KEY_INSTALL (R477). -/
def Chip.keyInstall (c : Chip) (x : Nat) (k : Ctx) (b : Nat) : SecOut × Chip :=
  let (link, gen) := (bit b 495, bit b 494)
  let (r, env, c) := c.mread 0 (bits b 493 448) 1680
  let h := (env.drop 1568).take 16
  let wrapped := (env.drop 1584).take 64
  let out (st : Status) : SecOut := ⟨st, 0, 0, 300000⟩
  if r ≠ .ok then (out .poisoned, c)
  else if ofBytes (h.take 2) ≠ k.job ∨ ofBytes ((h.drop 2).take 1) ≠ b2n link ∨ ofBytes ((h.drop 3).take 1) ≠ b2n gen then (out .malformed, c)
  else if ((c.keysOf x).key link gen).isSome then (out .aborted, c)
  else match c.sec.kem with
    | none => (out .key, c)
    | some n =>
      let d := Config.kmac (Config.kemDecaps n (env.take 1568)) (c.sec.nonce ++ h) 64 sEnv
      if Config.kmac ((d.drop 32).take 32) (h ++ wrapped) 32 sTag ≠ (env.drop 1648).take 32 then
        (out .key, (c.count pgSEC 4 1).err pgSEC 4 x (keyInfo link gen))
      else
        let v := BitVec.ofNat 512 (ofBytes (Config.aesCtr (d.take 32) 0 wrapped))
        (out .ok, (((c.setKeys x ((c.keysOf x).setKey link gen (some v))).injW pgSEC 0).count pgSEC 3 1))

/-- SET_CURRENT (R473, R483). -/
def Chip.setCurrent (c : Chip) (x b : Nat) : SecOut × Chip :=
  let (link, gen) := (bit b 495, bit b 494)
  let ks := c.keysOf x
  if (ks.key link gen).isNone then (⟨.aborted, 0, 0, 2000⟩, c)
  else (⟨.ok, 0, 0, 2000⟩, ((c.setKeys x (if link then { ks with lCur := some gen } else { ks with wCur := some gen })).count pgSEC 5 1))

/-- What keeps a generation from being retired: it is current; for WEIGHT a slot or a claimed move holds an ENC tile of the
window under it; for LINK a tag is held for a packet sent under it (R484). -/
def Chip.retireBusy (c : Chip) (x : Nat) (k : Ctx) (link gen : Bool) : Bool :=
  decide ((c.keysOf x).cur link = some gen) ||
    (if link then c.fab.tags.any (fun t => match t.2 with | some t => decide (t.kgen = some (x, gen)) | none => false)
     else c.hom.slots.any (fun s => decide (s.2.st ≠ .free) && s.2.enc && decide (s.2.kgen = gen) && k.hasTiles s.2.tile 1) ||
       c.hom.shus.any (fun s => s.2.flight.any (fun m => m.enc && decide (m.kgen = gen) && k.hasTiles m.tile 1)))

/-- RETIRE (R484). -/
def Chip.retire (c : Chip) (x : Nat) (k : Ctx) (b : Nat) : SecOut × Chip :=
  let (link, gen) := (bit b 495, bit b 494)
  if c.retireBusy x k link gen then (⟨.aborted, 0, 0, 2000⟩, (c.count pgSEC 7 1).err pgSEC 9 x (keyInfo link gen))
  else (⟨.ok, 0, 0, 2000⟩, (c.setKeys x ((c.keysOf x).setKey link gen none)).count pgSEC 6 1)

/-- ERASE (R473, R478). -/
def Chip.eraseKeys (c : Chip) (x : Nat) : SecOut × Chip :=
  if (c.ctxQueues x).any (fun e => e.2.enabled) then (⟨.aborted, 0, 0, 2000⟩, c)
  else (⟨.ok, 0, 0, 2000⟩, c.setKeys x default)

/-! ### REKEY (R485) -/

/-- One tile of a REKEY walk: the status that it adds (OK, POISONED, KEY) and whether it was re-encrypted or marked. -/
def Chip.rekeyTile (c : Chip) (x t : Nat) : Status × Bool × Chip :=
  let e := c.tileOf t
  match (c.keysOf x).wCur with
  | none => if e.st = .poisoned then (.poisoned, false, c) else if e.enc then (.key, false, c) else (.ok, false, c)
  | some g =>
    if e.st = .poisoned then (.poisoned, false, c)
    else if ¬ e.enc then (.ok, false, c)
    else if e.tier then
      let s := c.slotOf e.slot
      if s.kgen = g then (.ok, false, c)
      else (.ok, true, (c.setSlot e.slot { s with dirty := true, kgen := g }).count pgSEC 8 1)
    else if e.kgen = g then (.ok, false, c)
    else match c.wKey x e.kgen, c.wKey x g with
      | some old, some new =>
        let sh := pgSHU (t % 16)
        let c := c.lpRead 0 (t * 32768) 32768
        if (c.tileOf t).st = .poisoned then (.poisoned, false, c)
        else
          let bs := Config.xtsDec old (t * 32768) (Mem.readN c.hom.lp (t * 32768) 32768)
          let c := { c with hom.lp := Mem.writeL c.hom.lp (t * 32768) (Config.xtsEnc new (t * 32768) bs) }
          let c := (((c.count sh 6 1).count sh 7 1).count sh 9 1).lpWrite 0 (t * 32768) 32768
          (.ok, true, ((c.setTile t { e with kgen := g }).entryTraffic t false).count pgSEC 8 1)
      | _, _ => (.key, false, c)

/-- The worse of two results of a walk: POISONED before KEY before OK (R543). -/
def worse (a b : Status) : Status := if a.rank ≤ b.rank then a else b

/-- A walk of n tiles from t until a MOVING one: result, tiles left, tiles handled. -/
def Chip.rekeyWalk (c : Chip) (x t : Nat) (st : Status) (done : Nat) : Nat → Status × Nat × Nat × Chip
  | 0 => (st, 0, done, c)
  | n + 1 =>
    if (c.tileOf t).st = .moving then (st, n + 1, done, c)
    else
      let r := c.rekeyTile x t
      Chip.rekeyWalk r.2.2 x (t + 1) (worse st r.1) (done + b2n r.2.1) n

/-- REKEY of a resident context (R473, R485). -/
def Chip.rekey (c : Chip) (x : Nat) (k : Ctx) (b : Nat) : SecOut × Chip :=
  let n := bits b 376 352
  if n = 0 then (⟨.ok, 0, 0, 122⟩, c)
  else if k.slot.isNone then (⟨.aborted, 0, 0, 122⟩, c)
  else
    let (st, left, done, c) := c.rekeyWalk x (bits b 401 377) .ok 0 n
    (⟨st, left, done, 122 + 512 * ((n + 15) / 16)⟩, c)

/-! ### Service -/

/-- A request that has its block takes its effect; none: a MOVING tile holds its input or output (R294). -/
def Chip.secEffect (c : Chip) (a b : Nat) : Option SecOut × Chip :=
  let x := bits b 503 496
  match c.ctxOf x with
  | none => (some ⟨.malformed, 0, 0, 1000⟩, c)
  | some k =>
    if ¬ secForm k a b then (some ⟨.malformed, 0, 0, 1000⟩, c)
    else if (secRanges b).any (fun r => decide (c.accRes r.1 r.2 = .held)) then (none, c)
    else if (secRanges b).any (fun r => decide (c.accRes r.1 r.2 = .poisoned)) then
      (some ⟨.poisoned, 0, 0, 1000⟩, (secRanges b).foldl (fun (c : Chip) r => if c.accRes r.1 r.2 = .poisoned then c.poisonRefuse 0 r.1 r.2 else c) c)
    else
      let op := bits b 511 504
      let c := if 3 ≤ op ∧ op ≤ 5 then c.keyCheck x (bit b 495) (bit b 494) else c
      let (o, c) : SecOut × Chip :=
        match op with
        | 1 => c.attest k b
        | 2 => c.pubkey b
        | 3 => c.keyInstall x k b
        | 4 => c.setCurrent x b
        | 5 => c.retire x k b
        | 6 => c.rekey x k b
        | _ => c.eraseKeys x
      (some o, c)

/-- The block reads its 64-B request, which only the tiled range can hold (R288, R471): a MOVING tile holds it. -/
def Chip.secBlock (c : Chip) (a : Nat) : AccRes × Nat × Chip :=
  match region a, region (a + 63) with
  | .tiled _, .tiled _ => let (r, bs, c) := c.mread 0 a 64; (r, ofBytes bs, c)
  | _, _ => (.poisoned, 0, c.badAddr (badPage a) a false)

/-- The request that waits for its block is read and takes its effect. -/
def Chip.secStart (c : Chip) (a : Nat) : Chip :=
  let (r, b, c) := c.secBlock a
  match r with
  | .held => { c with sec.req := some ⟨a, 0, c.time.ns, .ok, 0, 0, true, true⟩ }
  | .poisoned => { c with sec.req := some ⟨a, 0, c.time.ns + 1000, .poisoned, 0, 0, false, false⟩ }
  | .ok =>
    match c.secEffect a b with
    | (none, c) => { c with sec.req := some ⟨a, 0, c.time.ns, .ok, 0, 0, true, true⟩ }
    | (some o, c) => { c with sec.req := some ⟨a, BitVec.ofNat 512 b, c.time.ns + o.ns, o.st, o.left, o.rekeyed, true, false⟩ }

/-- A write of SEC_REQ (R471). -/
def Chip.secReq (c : Chip) (a : Nat) : Chip :=
  if ¬ c.secUp then c
  else if c.sec.req.isSome then c.errFree pgSEC 10 0
  else (c.count pgSEC 0 1).secStart a

/-- A SEC_REQ write whose request block names operation op. -/
def Chip.secRow (c : Chip) (op a : Nat) : Chip :=
  if bits (ofBytes (c.bytesAt a 64)) 511 504 = op then c.secReq a else c

/-- RESULT, DONE and REKEYED are written and BUSY clears (R472). -/
def Chip.secFinish (c : Chip) (r : ReqSt) : Chip :=
  let (a, now, c) := c.secBlock r.addr
  match a with
  | .held => { c with sec.req := some r }
  | .poisoned => { c with sec.req := none }
  | .ok =>
    let w := setBits (setBits now 351 344 r.result.code) 343 343 1
    let w := if bits r.block.toNat 511 504 = 6 then setBits w 319 288 r.rekeyed else w
    { (c.mwrite 0 r.addr (toBytes 64 w)).2 with sec.req := none }

/-- SEC_REQUEST_DONE (R473). -/
def Chip.secRequestDone (c : Chip) : Chip :=
  match c.sec.req with
  | none => c
  | some r =>
    if c.time.ns < r.until_ then c
    else if ¬ r.readable then { c with sec.req := none }
    else if r.again then c.secStart r.addr
    else if r.left = 0 then c.secFinish r
    else
      let b := r.block.toNat
      let n := bits b 376 352
      let (st, left, done, c) := c.rekeyWalk (bits b 503 496) (bits b 401 377 + (n - r.left)) r.result r.rekeyed r.left
      if left ≠ 0 then { c with sec.req := some { r with result := st, left := left, rekeyed := done } }
      else c.secFinish { r with result := st, left := 0, rekeyed := done }

end Sys2Proof.Machine
end

