-- ==== Sys2Proof/Machine/Faults.lean ====
section
/-!
DEFINITION. Stopping commands (R266, R516, R529, R532), fencing cores and clusters (R528 to R535), die-level errors (R536, R537)
and error injection (R538 to R541).
-/

namespace Sys2Proof.Machine

/-! ## Stopping commands -/

/-- A core that runs the kernel of a command. -/
def Chip.coreOfCmd (c : Chip) (q : Nat) (i : BitVec 32) : Option Nat :=
  (c.core.cores.find? (fun e => decide (e.2.cmd = some (q, i)))).map (fun e => e.1)

/-- A running kernel is aborted: one that runs halts at the end of its bundle; one that loads or is stopped ends at once (R266). -/
def Chip.abortKernel (c : Chip) (k : Cmd) : Chip :=
  match c.coreOfCmd k.queue k.index with
  | none => c.launchFails k.queue k.index .aborted 0
  | some n =>
    if (c.coreOf n).st = 2 then c.setCmd { k with fin := true, status := .aborted } else c.kernelEnds n .aborted 0

/-- An in-flight command is aborted under the rule of its type (R266, R73, R97, R431). -/
def Chip.abortCmd (c : Chip) (k : Cmd) : Chip :=
  if ¬ k.working then c
  else if k.type = 0 then (if k.phase = .running then c.abortKernel k else c.launchFails k.queue k.index .aborted 0)
  else if k.type = 5 then c.collAbort k
  else if ¬ k.phase = .running then c.endWork k.queue k.index .aborted 0
  else if k.type = 2 then
    match c.rd.routes.find? (fun r => decide (r.queue = k.queue) && decide (r.index = k.index)) with
    | some r => c.routeFail r .aborted 0
    | none => c.endWork k.queue k.index .aborted 0
  else if k.type = 3 then
    match c.rd.drovers.find? (fun d => decide (d.queue = k.queue) && decide (d.index = k.index)) with
    | some d => c.stopDrun d .aborted 0
    | none => c.endWork k.queue k.index .aborted 0
  else if k.type = 4 then
    match (List.range 64).find? (fun w => decide ((c.winOf w).comb = some (k.queue, k.index))) with
    | some w => c.combFail w .aborted 0
    | none => c.endWork k.queue k.index .aborted 0
  else if k.type = 6 then (c.dropBy (fun b => decide (b = .cmd k.queue k.index))).endWork k.queue k.index .aborted 0
  else if k.left = 0 then c.endWork k.queue k.index .aborted 0
  else
    let (gone, c) := c.dropPackets k.queue k.index
    let st := if k.status = .ok then .aborted else k.status
    if k.left = gone then c.endWork k.queue k.index st k.info.toNat else c.setCmd { k with fin := true, status := st, left := k.left - gone }

/-- CMDQ_CTRL ABORT_ALL (R266). -/
def Chip.abortAll (c : Chip) (q : Nat) : Chip :=
  let c := c.abortPosted q true
  let c := ((c.queueOf q).cmds.filter (fun k => k.working)).foldl (fun c k => match c.cmd? q k.index with | some k => c.abortCmd k | none => c) c
  (c.setQueue q { c.queueOf q with failed := true }).ctxRefresh

/-- Commands that use a cluster's RTE or Drover fail with a status (R73, R74, R97, R120, R516, R532). -/
def Chip.failCluster (c : Chip) (cl : Nat) (st : Status) : Chip :=
  let c := (c.rd.routes.filter (fun r => r.clus.any (fun y => decide (y.cluster = cl)))).foldl (fun c r => c.routeFail r st 0) c
  let c := (c.rd.drovers.filter (fun d => d.clus.any (fun y => decide (y.cluster = cl)))).foldl (fun c d => c.stopDrun d st 0) c
  (List.range 64).foldl (fun c w =>
    if (c.winOf w).comb.isSome ∧ bit (c.winOf w).mask.toNat cl then c.combFail w st 0 else c) c

/-- The kernel of core n fails with a status; a core that runs nothing is left alone. -/
def Chip.failKernel (c : Chip) (n : Nat) (st : Status) : Chip := if (c.coreOf n).cmd.isSome then c.kernelEnds n st 0 else c

/-! ## Fencing a core (R528 to R531) -/

/-- Launches aimed at core n that resolve or wait fail with FENCED (R530, R531). -/
def Chip.failLaunches (c : Chip) (n : Nat) : Chip :=
  (c.allCmds.filter (fun m => decide (m.type = 0) && (decide (m.phase = .resolving) || decide (m.phase = .ready)) &&
    (launchCores m (c.imageOf m).lists).any (fun p => decide (p.1 = n)))).foldl (fun c m => c.launchFails m.queue m.index .fenced 0) c

/-- The claim of a move into a slot of a fenced core is undone (R530). -/
def Chip.undoMove (c : Chip) (m : Move) : Chip :=
  let x := c.shuOf (m.tile % 16)
  let c := c.setShu (m.tile % 16) { x with flight := x.flight.filter (fun y => !(decide (y.tile = m.tile))) }
  let t := c.tileOf m.tile
  let c := match m.slot with | some s => c.setSlot s default | none => c
  let c := match m.old with
    | some o => (c.setSlot o { c.slotOf o with st := .held, cls := 0 }).setTile m.tile { t with st := m.was, tier := true, dir := false, to_ := 0, slot := o }
    | none => c.setTile m.tile { t with st := m.was, tier := false, dir := false, to_ := 0, slot := 0 }
  ((c.count pgFLT 5 1).entryTraffic m.tile false).moveEnds m.by_ m.tile m.cls .fenced

/-- Claims into the slots of core n are undone (R530). -/
def Chip.undoCore (c : Chip) (n : Nat) : Chip :=
  (c.hom.shus.flatMap (fun s => s.2.flight.filter (fun m => match m.slot with | some s => decide (s / 128 = n) | none => false))).foldl
    (fun c m => c.undoMove m) c

/-- Every HELD slot of core n is to be evacuated, in slot order (R529 step 3, R530). -/
def Chip.evacuate (c : Chip) (n : Nat) : Chip :=
  let c := (List.range 128).foldl (fun (c : Chip) j =>
    let s := c.slotOf (128 * n + j)
    if s.st = .held then c.reqMove s.tile .out 1 false (decide ((c.tileOf s.tile).st = .pinned)) (.evac n) else c) c
  ({ c with flt.evac := c.flt.evac ++ [n] }).evacGo

/-- ROUTE commands whose lanes core n feeds fail with FENCED and LANE_FAULT (R48, R531). -/
def Chip.laneFault (c : Chip) (n : Nat) : Chip :=
  (c.rd.routes.filter (fun r => decide (bits r.op.toNat 262 262 = 0) &&
    r.clus.any (fun y => decide (y.cluster = n / 8)))).foldl (fun c r =>
      let tok := match r.part (n / 8) with | some y => (y.first + y.toks.length) % 65536 | none => 0
      (c.err (pgRTE (n / 8)) 4 r.tag.toNat ((n % 8) <<< 16 + tok)).routeFail r .fenced ((n % 8) <<< 16 + tok)) c

/-- What the fence of core n does beside the fence itself (R529 to R531); `undoCore` has run for every core of the fence. -/
def Chip.fenceWork (c : Chip) (n : Nat) : Chip :=
  let c := ((c.failKernel n .fenced).failLaunches n).laneFault n
  (c.setCore n { c.coreOf n with preload := none }).evacuate n

/-- FLT_LAST_FENCE, FENCE and the interrupt (R527, R544, R545). -/
def Chip.fenceSeen (c : Chip) (kind target page b : Nat) : Chip :=
  ((c.setReg pgFLT 0x260 (target <<< 54 + page <<< 32 + b <<< 24 + kind)).err pgFLT 3 page target).raise 265

/-- Core n is marked as fenced. -/
def Chip.setCoreFence (c : Chip) (n : Nat) : Chip := { c with fz.coreFence := c.fz.coreFence ||| BitVec.ofNat 512 (2 ^ n) }

/-- Cluster cl and its cores are marked as fenced. -/
def Chip.setClFence (c : Chip) (cl : Nat) : Chip :=
  { c with fz.clFence := c.fz.clFence ||| BitVec.ofNat 64 (2 ^ cl), fz.coreFence := c.fz.coreFence ||| BitVec.ofNat 512 (255 * 2 ^ (8 * cl)) }

/-- A core is fenced (R528, R529); page 0 and bit 0xFF stand for a software request. One already fenced: nothing changes (R534). -/
def Chip.fenceCore (c : Chip) (n page b : Nat) : Chip :=
  if c.coreFenced n then c
  else
    let c := (c.setCoreFence n).undoCore n
    let c := (c.count pgFLT 0 1).fenceSeen 1 n page b
    ((c.fenceWork n).launchesGo).ctxRefresh

/-! ## Fencing a cluster (R532) -/

/-- Heads that wait on a counter of a fenced cluster fail with FENCED (R283). -/
def Chip.failWaits (c : Chip) : Chip := c.fe.queues.foldl (fun c e => c.newHead e.1) c

/-- A cluster is fenced: its cores, its RTE and Drover, its counters, mailboxes and BPM; it is gated and never wakes (R532). -/
def Chip.fenceCluster (c : Chip) (cl page b : Nat) : Chip :=
  if c.clFenced cl then c
  else
    let cores := (List.range 8).map (· + 8 * cl)
    let new := cores.filter (fun n => !(c.coreFenced n))
    let c := c.setClFence cl
    let c := new.foldl (fun c n => c.undoCore n) c
    let c := (c.count pgFLT 1 1).fenceSeen 2 cl page b
    let c := c.failCluster cl .fenced
    let c := new.foldl (fun c n => c.fenceWork n) c
    let c := { c with pwr.gated := c.pwr.gated ||| BitVec.ofNat 64 (2 ^ cl),
                      pwr.wakeQ := c.pwr.wakeQ.filter (fun w => !(decide (w.cluster = cl))), pwr.waking := Tab.del c.pwr.waking cl,
                      flt.fuseQ := c.flt.fuseQ ++ [(true, cl)] }
    let c := c.ledgerEv pgFLT 1 none none none
    (c.failWaits.launchesGo).ctxRefresh

/-- The COMBINE that works on a cluster: its window (lowest). -/
def Chip.combOn (c : Chip) (cl : Nat) : Option Nat :=
  (List.range 64).find? (fun w => (c.winOf w).comb.isSome && bit (c.winOf w).mask.toNat cl)

/-- CMD_TAG of what cluster cl's RTE runs. -/
def Chip.routeTag (c : Chip) (cl : Nat) : Option Nat := (c.routeOn cl).map (fun r => r.tag.toNat)

/-- CMD_TAG of what cluster cl's Drover runs: a DISPATCH or RETURN, else a COMBINE. -/
def Chip.droverTag (c : Chip) (cl : Nat) : Option Nat :=
  match c.rd.drovers.find? (fun d => d.clus.any (fun y => decide (y.cluster = cl))) with
  | some d => some d.tag.toNat
  | none => (c.combOn cl).bind (fun w => (c.combOp (c.winOf w)).map (fun k => k.tag.toNat))

/-- CMD_TAG of the kernel that core n runs. -/
def Chip.kernelTag (c : Chip) (n : Nat) : Option Nat := if (c.coreOf n).cmd.isSome then some (c.coreOf n).tag.toNat else none

/-- ERR_INFO0 and ERR_INFO1 of an uncorrectable error that a page finds, as its rule gives them (R79, R120, R154, R189, R236, R283,
R324, R352); what depends on the word that went bad, or on a command where none runs, is left open (log 24). -/
def Chip.ueInfo (c : Chip) (page : Nat) : Option Nat × Option Nat :=
  match (blockOf page).map (fun b => b.1) with
  | some 0x20 => (c.routeTag (page % 256), some 0)
  | some 0x21 => (c.droverTag (page % 256), some 0)
  | some 0x22 => (if (c.coreOf (8 * (page % 256))).gang then c.kernelTag (8 * (page % 256)) else none, none)
  | some 0x30 => (c.kernelTag (page - 0x3000), none)
  | some 0x32 => (c.kernelTag (page - 0x3200), some 0)
  | some 0x02 => (some 0, some 0)
  | some 0x26 | some 0x0A => (none, none)
  | _ => (none, some 0)

/-- An uncorrectable error is reported by its page. -/
def Chip.ueSeen (c : Chip) (page b : Nat) : Chip :=
  let i := c.ueInfo page
  let (i0, c) := c.orFree 32 i.1
  let (i1, c) := c.orFree 32 i.2
  c.err page b i0 i1

/-- CORE_FENCE (R528): an uncorrectable error in a core-level structure of core n, found by its core or SIU page. -/
def Chip.coreFence (c : Chip) (n page b : Nat) : Chip :=
  if ueLevel page = some (0, n) ∧ ¬ c.coreFenced n then (c.ueSeen page b).fenceCore n page b else c

/-- CLUSTER_FENCE (R532). -/
def Chip.clusterFence (c : Chip) (cl page b : Nat) : Chip :=
  if ueLevel page = some (1, cl) ∧ ¬ c.clFenced cl then (c.ueSeen page b).fenceCluster cl page b else c

/-- FENCE_FUSE (R533): the fuses of a fenced unit are blown and read back; a second one where the first fails. -/
def Chip.fenceFuse (c : Chip) (cl : Bool) (u : Nat) (okA okB : Bool) : Chip :=
  if ¬ c.flt.fuseQ.contains (cl, u) then c
  else
    let c := { c with flt.fuseQ := c.flt.fuseQ.erase (cl, u) }
    let a := BitVec.ofNat 512 (if okA then 2 ^ u else 0)
    let b := BitVec.ofNat 512 (if !okA && okB then 2 ^ u else 0)
    let c := if cl then { c with fz.clFuseA := c.fz.clFuseA ||| a.setWidth 64, fz.clFuseB := c.fz.clFuseB ||| b.setWidth 64 }
      else { c with fz.coreFuseA := c.fz.coreFuseA ||| a, fz.coreFuseB := c.fz.coreFuseB ||| b }
    let c := c.count pgFLT 9 (if okA then 1 else 2)
    if okA || okB then c else c.errFree pgFLT 4 u

/-! ## Die-level errors (R536, R537) -/

/-- What a die-level error does at once; page: its source. DIE_ERROR is reported to the Curator whatever ERR_MASK and ERR_ROUTE
hold (R527, log 77). -/
def Chip.dieError (c : Chip) (page cause : Nat) : Chip :=
  let c := (c.count pgFLT 6 1).err pgFLT 2 page 0
  let c := if bit (c.reg pgFLT 0x014) 2 ∨ ¬ bit (c.reg pgFLT 0x01C) 2 then c.ledgerEv pgFLT 0 (some 2) (some page) (some 0) else c
  let c := if c.flt.dieAt.isNone then { c with flt.dieAt := some (c.time.ns + 2 ^ c.fld pgFLT 0x250 4 0 * 1000, cause) } else c
  c.raise 265

/-- DIE_ERROR: an uncorrectable error in state that the die shares. -/
def Chip.dieErrorRow (c : Chip) (page b : Nat) : Chip :=
  if ueLevel page = some (2, 0) ∨ page = pgFLT ∨ page = pgIRQ then
    (c.ueSeen page b).dieError page 6
  else c

/-- A control core kicks its watchdog (R537). -/
def Chip.wdtKick (c : Chip) (k : Nat) : Chip := ({ c with flt.kicks := Tab.put 0 c.flt.kicks k c.time.ns }).injW pgFLT 0

/-- WDT (R537): control core k has missed its period; the next one starts. -/
def Chip.wdt (c : Chip) (k : Nat) : Chip :=
  if bit (c.fld pgFLT 0x254 3 0) k ∧ Tab.get 0 c.flt.kicks k + 2 ^ c.fld pgFLT 0x254 7 4 * 1000000 ≤ c.time.ns then
    let c := (((c.injRF pgFLT 0 0).1).count pgFLT 8 1).err pgFLT 5 k 0
    ({ c with flt.kicks := Tab.put 0 c.flt.kicks k c.time.ns }).dieError pgFLT 7
  else c

/-! ## Injection (R538 to R541) -/

/-- How many TARGET codes a page has (R540). -/
def injTargets (page : Nat) : Nat :=
  match (blockOf page).map (fun b => b.1) with
  | some 0x30 => 5 | some 0x20 | some 0x23 | some 0x09 | some 0x0D => 2 | some 0x0B => 3 | _ => 1

/-- A register write of ERR_INJ: ignored while INJ_EN is 0; TARGET and KIND stay where they carry a reserved encoding (R11). -/
def Chip.errInj (c : Chip) (page v : Nat) : Chip :=
  if (blockOf page).isNone then c
  else if c.fld pgFLT 0x008 0 0 = 0 then c.badWrite page
  else
    let old := c.reg page 0x018
    let link := decide ((blockOf page).map (fun b => b.1) = some 0x0B) || decide ((blockOf page).map (fun b => b.1) = some 0x0D)
    let link := link || (decide ((blockOf page).map (fun b => b.1) = some 0x09) && decide (bits v 23 20 = 1))
    let tOk := decide (bits v 23 20 < injTargets page)
    let target := if tOk then bits v 23 20 else bits old 23 20
    let kind := bits v 30 29
    let fences := match ueLevel page with | some (0, _) | some (1, _) => true | _ => false
    let kOk := link || !((decide (kind = 2) && !(decide ((blockOf page).map (fun b => b.1) = some 0x30) && decide (target = 3))) ||
      (decide (kind = 3) && decide (bits v 19 15 > 6)) || ((decide (kind = 1) || decide (kind = 2)) && fences && decide (c.fld pgFLT 0x008 1 1 = 0)))
    let new := (if bit v 31 || bit old 31 then 2 ^ 31 else 0) + (if kOk then kind else bits old 30 29) <<< 29 + target <<< 20 + bits v 19 15 <<< 15
    let c := c.setReg page 0x018 new
    if tOk ∧ kOk then c else c.badWrite page

end Sys2Proof.Machine
end

