-- ==== Sys2Proof/Machine/Curator.lean ====
section
/-!
DEFINITION. The always-on domain's Curator (12_host_management.md): READY and health (R443, R447), sensors (R446), the Ledger
(R448, R449), the timebase (R444, R445), Inventory (R454, R455), the I3C target (R451), the Halter link's states and frames (R437
to R439), interrupt enables (R556) and the test port (R568 to R570).
-/

namespace Sys2Proof.Machine

/-! ## READY and health (R443, R447) -/

/-- The READY signal (R443); it falls at a die-level error too (R536). -/
def Chip.isReady (c : Chip) : Bool :=
  c.flt.dieAt.isNone && decide (c.pwr.st = .active) && c.pwr.booted && decide (c.fld pgFE 0x008 0 0 = 1) && !c.hom.init && c.fe.cpxUp

/-- Some sensor has a status. -/
def Chip.anySensor (c : Chip) (st : Nat) : Bool := c.cur.sensors.any (fun e => decide (e.2.status = st))

/-- Health by the first row that applies (R447); RECOVERY and a ROM stopped at step 2 as R459 and R464 give. -/
def Chip.healthNow (c : Chip) : Nat :=
  if c.cur.fw.recovery then 3
  else if c.sec.romStop ∨ c.anySensor 2 ∨ c.flt.dieAt.isSome then 2
  else if c.fz.coreFence ≠ 0 ∨ c.fz.clFence ≠ 0 ∨ c.fab.ports.any (fun p => decide (p.2.st = .failed)) ∨ c.hlt.st = .failed ∨
      c.anySensor 1 ∨ c.anySensor 3 ∨ bit (c.reg pgTBS 0x00C) 1 then 1
  else 0

/-- A change of health sets CUR_ATTN.HEALTH and writes a Ledger record, of a KIND that the spec leaves open (R447, log 4). -/
def Chip.healthGo (c : Chip) : Chip :=
  let h := c.healthNow
  if h = c.cur.health then c
  else
    let (k, c) := c.freeVal 8
    (({ c with cur.health := h }).ledgerEv pgCUR (k % 9) none none none).attn 0

/-! ## The Ledger (R448, R449) -/

/-- LEDGER_WRITE: the oldest waiting record is written; a sector is erased first where the ring comes round; a LOST record follows
once space has returned. Records wait while an update erases or programs (R458). -/
def Chip.ledgerWrite (c : Chip) : Chip :=
  if ¬ c.cur.up ∨ c.cur.fw.st = 2 ∨ c.cur.fw.st = 3 then c
  else match c.cur.buf with
    | [] => c
    | r :: rs =>
      let kept := if c.fz.ledger.length ≥ 131072 then c.fz.ledger.drop 2048 else c.fz.ledger
      let c := { c with fz.ledger := kept ++ [{ r with seq := c.fz.ledgerSeq }], fz.ledgerSeq := (c.fz.ledgerSeq + 1) % 2 ^ 48, cur.buf := rs }
      let c := c.count pgCUR 5 1
      if c.cur.lost = 0 then c else ({ c with cur.lost := 0 }).ledgerEv 0 7 none (some c.cur.lost) none

/-! ## Sensors (R446) -/

/-- Sensors whose domain is powered: sites, MAIN48, AUX12, VAON and the rest of the module while the main rails are on. -/
def Chip.sensorOn (c : Chip) (i : Nat) : Bool :=
  decide (i < 66) || decide (i = 70) || decide (i = 71) || decide (i = 72) || decide (i = 77) || c.pwr.rails

/-- Hysteresis of a return: 2 °C of a site, 1 % of the threshold elsewhere (R446). -/
def sensorHyst (i : Nat) (thr : Int) : Int := if i < 64 then 16 else thr.natAbs / 100

/-- Status that a value gives: a crossing raises it, a return needs the hysteresis (R446). -/
def sensorStatus (i : Nat) (old : Nat) (v : Int) : Nat :=
  let w := Config.sensorWarn i
  let k := Config.sensorCrit i
  if v ≥ k then 2
  else if old = 2 ∧ v > k - sensorHyst i k then 2
  else if v ≥ w then 1
  else if (old = 1 ∨ old = 2) ∧ v > w - sensorHyst i w then 1
  else 0

/-- A sensor's value lies beyond the absolute maximum ratings (R571), as far as sensors see them: site junctions, MAIN48 and
AUX12, optical receive power of 5.0 dBm. -/
def outsideRatings (i : Nat) (v : Int) : Bool :=
  if i < 64 then decide (v > 1000)
  else if i = 64 then decide (v > 65000 ∨ v < -500)
  else if i = 65 then decide (v > 16000 ∨ v < -500)
  else decide (206 ≤ i) && decide (v > 31622)

/-- A sensor takes a status: a change is recorded and reported (R446). -/
def Chip.sensorTakes (c : Chip) (i : Nat) (v : Int) (st : Nat) : Chip :=
  let old := c.sensorOf i
  let c := c.setSensor i ⟨v, st⟩
  if st = old.status then c
  else
    let c := if st = 1 then c.count pgCUR 7 1 else if st = 2 then c.count pgCUR 8 1 else c
    let c := if st = 3 then c.err pgCUR 8 i 0 else c
    ((c.ledgerEv pgCUR 3 (some st) (some i) (some (ofSigned 32 v))).attn 1).healthGo

/-- The Curator samples sensor i; none: it gives no reading. -/
def Chip.sensorSample (c : Chip) (i : Nat) (v : Option (BitVec 32)) : Chip :=
  if ¬ c.cur.up then c
  else if ¬ c.sensorOn i then c.sensorTakes i (c.sensorOf i).value 4
  else match v with
    | none => c.sensorTakes i (c.sensorOf i).value 3
    | some v => c.sensorTakes i v.toInt (sensorStatus i (c.sensorOf i).status v.toInt)

/-! ## Timebase (R444, R445) -/

/-- The timebase's rate: 10⁹ plus the correction in ppb (R445). -/
def Chip.rate (c : Chip) : Int := 1000000000 + toSigned 32 (c.reg pgTBS 0x21C)

/-- n nanoseconds pass: the timebase moves under its rate (R444), and with it the clock of every duration, which the spec measures on
the timebase (00_scope.md, R263). TBS_SET loads the count and leaves that clock. Without AUX12 only the clock moves. -/
def Chip.later (c : Chip) (n : Nat) : Chip :=
  if ¬ c.pwr.aux12 then { c with time.ns := c.time.ns + n }
  else
    let f := c.time.frac + (n : Int) * c.rate
    { c with time.ns := c.time.ns + (f / 1000000000).toNat, time.tb := c.time.tb + BitVec.ofInt 64 (f / 1000000000),
             time.frac := f % 1000000000 }

/-- Time passes: the open cycles of the counters have ended, the Vitrines' FIFOs drain, and cores whose load has ended start (R198,
R233, R260). What no reset clears stands. -/
def Chip.pass (c : Chip) (n : Nat) : Chip :=
  let d := c.ctrsClose.later n
  { (d.vitsDrain (fclkAt d.time.ns - fclkAt c.time.ns)).coresStart with fz := c.fz }

/-- A nanosecond passes. -/
def Chip.tick (c : Chip) : Chip := c.pass 1

/-- Nanoseconds until the clock has moved by d. -/
def Chip.nsUntil (c : Chip) (d : Nat) : Nat :=
  if ¬ c.pwr.aux12 ∨ c.rate ≤ 0 then d else (((d : Int) * 1000000000 - c.time.frac + c.rate - 1) / c.rate).toNat

/-- The clock comes to the time of an event (log 9). -/
def Chip.passTo (c : Chip) (t : Nat) : Chip := if c.time.ns < t then c.pass (c.nsUntil (t - c.time.ns)) else c

/-- LOCKED and HOLDOVER take new values; a change is a Ledger record of KIND TIMEBASE (R449). -/
def Chip.tbsState (c : Chip) (locked hold : Bool) : Chip :=
  let old := c.reg pgTBS 0x00C
  let new := b2n locked + 2 * b2n hold
  if old = new then c else ((c.setReg pgTBS 0x00C new).ledgerEv pgTBS 5 none none none).healthGo

/-- TBP_IN rises (R445). A rate that is no whole number of ppb is rounded to one of its neighbours, which one is free (log 5). -/
def Chip.tbpIn (c : Chip) : Chip :=
  if c.fld pgTBS 0x008 0 0 = 0 then c
  else
    let c := (c.injRF pgTBS 0 0).1.count pgTBS 0 1
    let p : Int := c.reg pgTBS 0x210
    let x : Int := (c.time.tb.toNat : Int) - c.reg pgTBS 0x214
    let m : Int := (2 * x + p) / (2 * p) * p
    let e := x - m
    if 4 * e.natAbs > p.natAbs then ((c.count pgTBS 1 1).err pgTBS 3 (c.time.tb.toNat % 2 ^ 32) 0)
    else
      let num := -e * 1000000000
      let (up, c) := if num % p = 0 then (0, c) else c.freeVal 1
      let rate := max (-500000) (min 500000 (num / p + (up : Int)))
      let c := (c.setReg pgTBS 0x218 (ofSigned 32 e)).setReg pgTBS 0x21C (ofSigned 32 rate)
      ({ c with time.lastPulse := c.time.ns }).tbsState (decide (e.natAbs ≤ 20)) false

/-- TBP_OUT (R445): the count stands at a multiple of TBS_PERIOD. -/
def Chip.tbpOut (c : Chip) : Chip :=
  if c.fld pgTBS 0x008 1 1 = 1 ∧ c.time.tb.toNat % c.reg pgTBS 0x210 = 0 then { c with time.tbpOutCount := c.time.tbpOutCount + 1 } else c

/-- HOLDOVER (R445): two periods without an accepted pulse. -/
def Chip.holdover (c : Chip) : Chip :=
  if c.fld pgTBS 0x008 0 0 = 1 ∧ ¬ bit (c.reg pgTBS 0x00C) 1 ∧ c.time.lastPulse + 2 * c.reg pgTBS 0x210 ≤ c.time.ns then
    ((((c.count pgTBS 2 1).errFree pgTBS 2 0).tbsState false true).attn 4).raise 270
  else c

/-- TBS_SET may load the count (R444). -/
def Chip.tbsFree (c : Chip) : Bool := c.fe.ctxs.all (fun e => e.2.isNone) || decide (c.fld pgFE 0x008 0 0 = 0)

/-- A write of TBS_SET (R444). -/
def Chip.tbsSet (c : Chip) (v : BitVec 64) : Chip :=
  if c.tbsFree then ({ c with time.tb := v, time.snapAt := none }).injW pgTBS 0 else c.badWrite pgTBS

/-- A write of TBS_CTRL: enabling SYNC_EN starts the period that holdover is judged by (R445). -/
def Chip.tbsCtrl (c : Chip) (v : Nat) : Chip :=
  let was := c.fld pgTBS 0x008 0 0
  let c := c.setReg pgTBS 0x008 (v % 4)
  if was = 0 ∧ v % 2 = 1 then { c with time.lastPulse := c.time.ns } else c

/-! ## Inventory (R454, R455) -/

/-- The last 2 µs before an armed tick. -/
def Chip.snapClose (c : Chip) : Bool :=
  match c.time.snapAt with
  | some t => decide (t.toNat < c.time.tb.toNat + 2000)
  | none => false

/-- A refused arm or cancel (R454). -/
def Chip.invLate (c : Chip) (t : Nat) : Chip := (c.count pgTBS 4 1).err pgTBS 4 (t % 2 ^ 32) 0

/-- An arm at a tick is refused: less than 2 µs away, or within the last 2 µs of the armed snapshot (R454). -/
def Chip.armLate (c : Chip) (t : BitVec 64) : Bool := decide (t.toNat < c.time.tb.toNat + 2000) || c.snapClose

/-- Arm a snapshot at a tick (R454). -/
def Chip.invArmAt (c : Chip) (t : BitVec 64) : Chip := if c.armLate t then c.invLate t.toNat else { c with time.snapAt := some t }

/-- INV_CTRL ARM. -/
def Chip.invArm (c : Chip) : Chip := c.invArmAt (BitVec.ofNat 64 (c.reg pgTBS 0x220))

/-- INV_CTRL CANCEL. -/
def Chip.invCancel (c : Chip) : Chip :=
  match c.time.snapAt with
  | none => c
  | some t => if c.snapClose then c.invLate t.toNat else { c with time.snapAt := none }

/-- Every page's counters are copied into its shadows (R455). -/
def Chip.snapCopy (c : Chip) : Chip :=
  let isSh : Nat → Bool := fun k => decide (0x100 ≤ k % 4096) && decide (k % 4096 < 0x1C0)
  let isCtr : Nat → Bool := fun k => decide (0x40 ≤ k % 4096) && decide (k % 4096 < 0x100)
  let ctrs := c.regs.filter (fun e => isCtr e.1)
  let c := { c with regs := c.regs.filter (fun e => !(isSh e.1)) }
  ctrs.foldl (fun (c : Chip) e => c.setReg (e.1 / 4096) (e.1 % 4096 + 0xC0) e.2.toNat) c

/-- INVENTORY_SNAPSHOT: the armed tick has come. -/
def Chip.snapshot (c : Chip) : Chip :=
  match c.time.snapAt with
  | none => c
  | some t =>
    if c.time.tb.toNat < t.toNat then c
    else
      let c := ({ c.snapCopy with time.snapAt := none }).count pgTBS 3 1
      (c.setFld pgTBS 0x22C 31 16 ((c.fld pgTBS 0x22C 31 16 + 1) % 65536)).raise 271

/-! ## The I3C target (R450, R451) -/

/-- STATUS, LEN, data and CRC of a response frame (R450). -/
def respFrame (st : Nat) (data : List (BitVec 8)) : List (BitVec 8) :=
  let b := BitVec.ofNat 8 st :: BitVec.ofNat 8 data.length :: data
  b ++ toBytes 4 (crc32 b)

/-- An I3C read transfer: the response, else BUSY with LEN 0. -/
def Chip.i3cRead (c : Chip) : Chip :=
  match c.cur.i3cResp with
  | some r => { c with cur.i3cOut := r, cur.i3cResp := none }
  | none => { c with cur.i3cOut := respFrame 1 [] }

/-- The bytes that a common command drives to the controller. -/
def Chip.i3cDrive (c : Chip) (bs : List (BitVec 8)) : Chip := { c with cur.i3cOut := bs }

/-- ENTDAA and SETDASA: a target without a dynamic address takes one (R451). -/
def Chip.i3cAddr (c : Chip) (a : BitVec 7) : Chip := if c.cur.dynAddr.isNone then { c with cur.dynAddr := some a } else c

/-- ENEC and DISEC: bit 0 of the events names in-band interrupts (R451; MIPI I3C Basic). -/
def Chip.i3cEvents (c : Chip) (on : Bool) (events : BitVec 8) : Chip := if events.getLsbD 0 then { c with cur.ibiEn := on } else c

/-- GETSTATUS: its 16 bits are of another standard and free here (log 6). -/
def Chip.i3cStatus (c : Chip) : Chip :=
  let (v, c) := c.freeVal 16
  c.i3cDrive (toBytes 2 v)

/-- IBI: the in-band interrupt that is due is raised (R451). -/
def Chip.ibi (c : Chip) : Chip :=
  if c.cur.ibiDue ∧ c.cur.ibiEn then ({ c with cur.ibiDue := false }).count pgCUR 11 1 else c

/-! ## The Halter link (R437 to R439, R460) -/

/-- The link takes a state; a change raises HLT_LINK (R438). -/
def Chip.hltState (c : Chip) (st : LinkSt) : Chip :=
  if c.hlt.st = st then c else (({ c with hlt.st := st }).raise 269).healthGo

/-- Training starts (R438). -/
def Chip.hltTrain (c : Chip) : Chip := ({ c with hlt.since := c.time.ns }).hltState .training

/-- A write of HLT_CTRL.ENABLE (R460). -/
def Chip.hltEnable (c : Chip) (on : Bool) : Chip :=
  let c := c.setFld pgHLT 0x008 0 0 (b2n on)
  if on then (if c.hlt.st = .disabled then c.hltTrain else c)
  else if c.hlt.st = .disabled then c
  else
    let c := if c.hlt.st = .up then (c.count pgHLT 12 1).errFree pgHLT 2 c.hlt.lanes.toNat else c
    ({ c with hlt.lanes := 0, hlt.train := (0, 0) }).hltState .disabled

/-- HLT_CTRL RETRAIN: leave UP or FAILED and train again (R460). -/
def Chip.hltRetrain (c : Chip) : Chip :=
  if c.hlt.st = .up then ((c.count pgHLT 12 1).errFree pgHLT 2 c.hlt.lanes.toNat).hltTrain
  else if c.hlt.st = .failed then ({ c with hlt.train := (0, c.hlt.train.2) }).hltTrain
  else c

/-- Interrupts held while the link was not UP are sent (R439). -/
def Chip.hltHeld (c : Chip) : Chip :=
  c.hlt.held.foldl (fun (c : Chip) h =>
    ((c.hltSend ⟨3, 8, 0, 0, 0, toBytes 8 (h.1 + h.2 <<< 16)⟩).count pgIRQ 1 1).count pgHLT 6 1)
    { c with hlt.held := [] }

/-- A link that is DOWN trains again (R438). -/
def Chip.hltTrains (c : Chip) : Chip := if c.hlt.st = .down then c.hltTrain else c

/-- A training attempt ends (R438): the step that failed (0: none) and what the partner reports. -/
def Chip.hltTrained (c : Chip) (fail : BitVec 2) (ha8 : Bool) (version : BitVec 16) (htags : BitVec 11) (lanes : BitVec 8) : Chip :=
  let c := c.hltTrains
  if c.hlt.st ≠ .training then c
  else
    let step := if fail = 1#2 ∨ lanes ≠ 255#8 then 1 else if fail = 2#2 ∨ ¬ ha8 ∨ htags.toNat < 1 ∨ htags.toNat > 1024 then 2 else fail.toNat
    if step ≠ 0 then
      let n := c.hlt.train.1 + 1
      let c := { c with hlt.train := (n, step), hlt.lanes := lanes }
      if n ≥ 4 then (c.errFree pgHLT 3 lanes.toNat).hltState .failed else c.hltState .down
    else
      let c := { c with hlt.train := (0, 0), hlt.lanes := lanes, hlt.partner := (version.toNat, htags.toNat),
                        hlt.frames := { c.hlt.frames with rxWait := false, replays := 0 } }
      if c.cur.fw.recovery then c.hltState .recovery else (c.hltState .up).hltHeld

/-- The link loses a lane, or its replays fail, and goes DOWN (R437, R438). -/
def Chip.hltDown (c : Chip) (lanes : BitVec 8) : Chip :=
  if c.hlt.st = .up ∨ c.hlt.st = .recovery then
    ((({ c with hlt.lanes := lanes }).count pgHLT 12 1).errFree pgHLT 2 lanes.toNat).hltState .down
  else c

/-- Frames sent and acknowledged up to a sequence number leave the replay buffer (R363). -/
def Chip.hltAcked (c : Chip) (ack : Nat) : Chip :=
  let n := (ack + 65536 - c.hlt.frames.txSeq) % 65536
  if n = 0 ∨ n > c.hlt.out.length then c
  else { c with hlt.out := c.hlt.out.drop n, hlt.frames := { c.hlt.frames with txSeq := (c.hlt.frames.txSeq + n) % 65536, replays := 0 } }

/-- A frame arrives on the Halter link (R363, R437). -/
def Chip.hltFrame (c : Chip) (f : FrameIn) : Chip :=
  if c.hlt.st ≠ .up ∧ c.hlt.st ≠ .recovery then c
  else
    let c := c.count pgHLT 8 f.symbols.toNat
    if ¬ f.fecOk then (({ c with hlt.frames := { c.hlt.frames with rxWait := true } }).count pgHLT 9 1).err pgHLT 0 f.seq.toNat 0
    else if ¬ f.crcOk then (({ c with hlt.frames := { c.hlt.frames with rxWait := true } }).count pgHLT 10 1).err pgHLT 1 f.seq.toNat 0
    else if f.seq.toNat ≠ c.hlt.frames.rxSeq then c
    else ({ c with hlt.frames := { c.hlt.frames with rxSeq := (c.hlt.frames.rxSeq + 1) % 65536, rxWait := false } }).hltAcked f.ack.toNat

/-- The partner asks for a replay: frames from the acknowledged one on are sent again; a request that finds 8 replays of the frame
failed takes the link DOWN (R363, R437; log 156). -/
def Chip.hltReplay (c : Chip) (ack : Nat) : Chip :=
  if c.hlt.st ≠ .up ∧ c.hlt.st ≠ .recovery then c
  else
    let c := c.hltAcked ack
    if c.hlt.out = [] then c
    else if c.hlt.frames.replays ≥ 8 then (c.err pgHLT 8 ack 0).hltDown c.hlt.lanes
    else ({ c with hlt.frames := { c.hlt.frames with replays := c.hlt.frames.replays + 1 } }).count pgHLT 11 1

/-! ## Interrupt enables (R556, R557) -/

/-- Vectors of register j that exist (R555, R557). -/
def vecMask (j : Nat) : Nat := if j < 4 then 2 ^ 64 - 1 else if j = 4 then 2 ^ 18 - 1 else 0

/-- A w1c write of IRQ_PENDj; IRQ_BLKSRC clears with BLK_ERR (R557). -/
def Chip.irqClear (c : Chip) (j v : Nat) : Chip :=
  let c := (c.injR pgIRQ 0 0 0).1
  let old := c.reg pgIRQ (0x200 + 8 * j)
  let c := c.setReg pgIRQ (0x200 + 8 * j) (old - (old &&& v))
  if j = 4 ∧ bit v 10 then c.setReg pgIRQ 0x2C8 0 else c

/-- Vectors of register j that are newly enabled and pending, in order. -/
def newlyDue (j old v pend : Nat) : List Nat := ((List.range 64).filter (fun k => bit v k && !(bit old k) && bit pend k)).map (· + 64 * j)

/-- A write of IRQ_HOSTj: pending vectors that it enables are delivered (R556). -/
def Chip.irqHostEn (c : Chip) (j v : Nat) : Chip :=
  let v := v &&& vecMask j
  let due := newlyDue j (c.reg pgIRQ (0x240 + 8 * j)) v (c.reg pgIRQ (0x200 + 8 * j))
  due.foldl (fun (c : Chip) n => if c.hlt.st = .up then c.irqHost n else (c.irqHost n).attn 3) ((c.injW pgIRQ 0).setReg pgIRQ (0x240 + 8 * j) v)

/-- A write of IRQ_CPXj. -/
def Chip.irqCpxEn (c : Chip) (j v : Nat) : Chip :=
  let v := v &&& vecMask j
  (newlyDue j (c.reg pgIRQ (0x280 + 8 * j)) v (c.reg pgIRQ (0x200 + 8 * j))).foldl (fun c n => c.irqCpx n) ((c.injW pgIRQ 0).setReg pgIRQ (0x280 + 8 * j) v)

/-! ## The test port (R568 to R570) -/

/-- Commands in flight are lost with what their units hold of them, as at a MODULE reset (R570). -/
def Chip.dropWork (c : Chip) : Chip :=
  { c with
    fe.queues := c.fe.queues.map (fun e => (e.1, { e.2 with cmds := e.2.cmds.filter (fun k => !k.inFlight) })),
    core.cores := c.core.cores.filter (fun e => e.2.cmd.isNone),
    rd.routes := [], rd.drovers := [], rd.wins := c.rd.wins.map (fun e => (e.1, { e.2 with comb := none, lists := [], done := [], apply := [] })),
    col.slots := c.col.slots.filter (fun e => e.2.st = 0),
    hom.shus := c.hom.shus.map (fun e => (e.1, { e.2 with waiting := e.2.waiting.filter (fun r => match r.by_ with | .cmd _ _ => false | _ => true) })) }

/-- TAP_INSTRUCTION: an instruction is loaded (R569, R570). The order of the boundary cells is not given: what they capture is free. -/
def Chip.tapLoad (c : Chip) (t : TapInstr) : Chip :=
  if ¬ c.pwr.rails then c
  else
    let (v, c) := if t = .sample ∨ t = .extest then c.freeVal 64 else (if t = .idcode then 0x14948A5B else 0, c)
    let c := { c with pwr.tap := t, pwr.tapDr := BitVec.ofNat 64 v }
    if t = .extest ∨ t = .clamp ∨ t = .highz then
      let c := c.ledgerEv 0 6 (some 0x49) none none
      let c := if c.fld pgFE 0x008 0 0 = 1 ∧ c.pwr.booted then c.dropWork else c
      { c with pwr.booted := false }
    else c

end Sys2Proof.Machine
end

