-- ==== Sys2Proof/Machine/Power.lean ====
section
/-!
DEFINITION. Power, clocks and reset (14_power_clocks_reset.md): module load and phases (R498, R499), operating points (R501 to
R503), thermal control (R505, R506), gating and wake (R507 to R510), module states (R511, R512), reset levels (R513 to R517) and
boot (R518).
-/

namespace Sys2Proof.Machine

/-! ## Operating points (R501, R502) -/

/-- Design-point load in W of a point (R501). -/
def pointLoad (p : Nat) : Nat := [2000, 1808, 1639, 1490, 1375, 1273, 1179, 1099].getD p 1099

/-- VCORE in mV of a point (R501). -/
def pointMv (p : Nat) : Nat := [850, 810, 770, 730, 700, 670, 635, 600].getD p 600

/-- The fastest point whose design-point load does not exceed the limit (R502). -/
def limitFloor (limit : Nat) : Nat := ((List.range 8).find? (fun p => decide (pointLoad p ≤ limit))).getD 7

def Chip.pwrLimit (c : Chip) : Nat := c.fld pgPWR 0x200 11 0
def Chip.pwrFast (c : Chip) : Nat := c.fld pgPWR 0x204 2 0
def Chip.pwrIlim (c : Chip) : Nat := c.fld pgPWR 0x208 27 16

/-- The slowest allowed point (R502). -/
def Chip.slowPoint (c : Chip) : Nat := max c.pwrFast (limitFloor c.pwrLimit)

/-- A thermal site has a status. -/
def Chip.anySite (c : Chip) (st : Nat) : Bool := c.cur.sensors.any (fun e => decide (e.1 < 64) && decide (e.2.status = st))

/-- PWR_STAT.THERM. -/
def Chip.therm (c : Chip) : Nat := if c.anySite 2 then 2 else if c.anySite 1 then 1 else 0

/-- Average of samples; 0 of none. -/
def avgOf (xs : List Nat) : Nat := if xs = [] then 0 else xs.sum / xs.length

/-- 1 ms average of the module load in mW, and of VCORE current in mA (R499). -/
def Chip.avgMw (c : Chip) : Nat := avgOf c.pwr.loads
def Chip.avgMa (c : Chip) : Nat := avgOf c.pwr.amps

/-- Average load above the limit; current above 0.9 ILIM (R502). -/
def Chip.overW (c : Chip) : Bool := decide (c.avgMw > 1000 * c.pwrLimit)
def Chip.overA (c : Chip) : Bool := decide (10 * c.avgMa > 9 * 1000 * c.pwrIlim)

/-- Both averages below the raise thresholds (R502). -/
def Chip.lowLoad (c : Chip) : Bool := decide (100 * c.avgMw < 95 * 1000 * c.pwrLimit) && decide (100 * c.avgMa < 85 * 1000 * c.pwrIlim)

/-- The target of a control step (R502). -/
def Chip.dvfsTarget (c : Chip) : Nat :=
  let cur := c.pwr.point
  let top := max c.pwrFast c.pwr.thermCap
  let quiet : Bool := match c.pwr.lowSince with | some t => decide (t + 1000000 ≤ c.time.ns) | none => false
  if c.anySite 2 then 7
  else
    let t :=
      if c.fld pgPWR 0x008 0 0 = 0 then max c.slowPoint c.pwr.thermCap
      else if (c.overW || c.overA) ∧ cur < c.slowPoint then cur + 1
      else if quiet ∧ cur > top then cur - 1
      else cur
    max t top

/-- One point toward the target; a CRIT site jumps to P7 (R502, R505). -/
def Chip.dvfsNext (c : Chip) : Nat :=
  let cur := c.pwr.point
  let t := c.dvfsTarget
  if c.anySite 2 then 7 else if cur < t then cur + 1 else if t < cur then cur - 1 else cur

/-- The point changes (R502). -/
def Chip.setPoint (c : Chip) (p : Nat) : Chip := if p = c.pwr.point then c else ({ c with pwr.point := p }).count pgPWR 0 1

/-- DVFS_STEP: every 25 µs (R502). -/
def Chip.dvfsStep (c : Chip) : Chip :=
  if c.pwr.st ≠ .active ∨ c.time.ns < c.pwr.lastDvfs + 25000 then c
  else
    let cur := c.pwr.point
    let byLimit := !c.anySite 2 && decide (c.fld pgPWR 0x008 0 0 = 1) && (c.overW || c.overA) && decide (cur < c.slowPoint)
    let byA := byLimit && c.overA
    let c := (((({ c with pwr.lastDvfs := c.time.ns }).injW pgPWR 0).injR pgPWR 0 0 0).1).setPoint c.dvfsNext
    let c := if byLimit ∧ c.pwr.point ≠ cur then c.count pgPWR 1 1 else c
    if byA ∧ c.pwr.point ≠ cur then c.err pgPWR 5 cur 0 else c

/-- THERM_STEP: each millisecond THERM_CAP moves by one (R505). -/
def Chip.thermStep (c : Chip) : Chip :=
  if c.pwr.st ≠ .active ∨ c.time.ns < c.pwr.lastTherm + 1000000 then c
  else
    let t := c.pwr.thermCap
    let n := if c.anySite 1 then min 7 (t + 1) else if c.anySite 2 then t else t - 1
    let c := { c with pwr.lastTherm := c.time.ns, pwr.thermCap := n }
    if n = t then c else c.count pgPWR 2 1

/-! ## The regulator stage (R498 to R500) -/

/-- Groups that a current in mA needs (R498). -/
def groupsFor (ma : Nat) : Nat := min 9 (max 1 (ceilDiv ma 320000))

/-- PHASE_ADD: a rise in current adds groups at once (R498). -/
def Chip.phaseAdd (c : Chip) : Chip :=
  let n := groupsFor (c.pwr.amps.headD 0)
  if c.pwr.rails ∧ c.pwr.groups < n then ({ c with pwr.groups := n }).count pgPWR 8 (n - c.pwr.groups) else c

/-- PHASE_SHED: 100 µs below the lower count's threshold sheds a group (R498). -/
def Chip.phaseShed (c : Chip) : Chip :=
  match c.pwr.shedSince with
  | some t =>
    if c.pwr.rails ∧ 1 < c.pwr.groups ∧ t + 100000 ≤ c.time.ns then
      ({ c with pwr.groups := c.pwr.groups - 1, pwr.shedSince := none }).count pgPWR 9 1
    else c
  | none => c

/-- A module-load sample, with what is judged on it (R499, R498, R502, R521). -/
def Chip.loadSample (c : Chip) : Chip :=
  let v (i : Nat) : Nat := (c.sensorOf i).value.toNat
  let mw := ([0, 1, 2, 3].map (fun r => v (66 + r) * v (73 + r) / 1000)).sum
  let e := c.pwr.energyFrac + mw
  let c := { c with pwr.loads := (mw :: c.pwr.loads).take 100, pwr.amps := (v 73 :: c.pwr.amps).take 100, pwr.energyFrac := e % 100000000 }
  let c := c.count pgPWR 16 (e / 100000000)
  let keep (on : Bool) (o : Option Nat) : Option Nat := if on then some (o.getD c.time.ns) else none
  { c with pwr.lowSince := keep c.lowLoad c.pwr.lowSince,
           pwr.shedSince := keep (decide (v 73 < 320000 * (c.pwr.groups - 1))) c.pwr.shedSince }

/-- A site that reaches CRIT takes the part to P7 (R505). -/
def Chip.siteCrit (c : Chip) (i : Nat) : Chip :=
  if c.pwr.rails then ((c.setPoint 7).err pgPWR 3 i (ofSigned 32 (c.sensorOf i).value)).raise 273 else c

/-- SENSOR_SAMPLE with what the power controller does on it (R446, R499, R505). -/
def Chip.sensorRow (c : Chip) (i : Nat) (v : Option (BitVec 32)) : Chip :=
  let old := (c.sensorOf i).status
  let c := c.sensorSample i v
  let c := if i < 64 ∧ old ≠ 2 ∧ (c.sensorOf i).status = 2 then c.siteCrit i else c
  if i = 77 ∧ c.pwr.rails ∧ c.cur.up then c.loadSample else c

/-- DROOP: VCORE has fallen 25 mV below its setpoint for n ns (R500). -/
def Chip.droop (c : Chip) (n : Nat) : Chip :=
  if ¬ c.pwr.rails ∨ n = 0 then c
  else (((({ c with pwr.droopUntil := c.time.ns + 512 * ceilDiv n 512 }).count pgPWR 3 1).count pgPWR 4 n).err pgPWR 2 c.pwr.point 0)

/-! ## Gating and wake (R507 to R510) -/

/-- No launch, ROUTE, DISPATCH, RETURN or COMBINE keeps cluster cl from being gated, and no core of it is stopped (R508). -/
def Chip.clIdle (c : Chip) (cl : Nat) : Bool :=
  (List.range 8).all (fun j => decide ((c.coreOf (8 * cl + j)).st = 0)) &&
    !(c.allCmds.any (fun m => decide (m.type = 0) && (decide (m.phase = .resolving) || decide (m.phase = .ready) || decide (m.phase = .running)) &&
      (launchCores m (c.imageOf m).lists).any (fun p => decide (p.1 / 8 = cl)))) &&
    !(c.rd.routes.any (fun r => r.clus.any (fun y => decide (y.cluster = cl)))) &&
    !(c.rd.drovers.any (fun d => d.clus.any (fun y => decide (y.cluster = cl)))) &&
    !((List.range 64).any (fun w => (c.winOf w).comb.isSome && bit (c.winOf w).mask.toNat cl))

/-- A wake of the cluster has been asked for. -/
def Chip.wakeAsked (c : Chip) (cl : Nat) : Bool := c.pwr.wakeQ.any (fun w => decide (w.cluster = cl)) || c.pwr.waking.any (fun w => decide (w.1 = cl))

/-- Since when every cluster has been gated. -/
def Chip.gatedSince (c : Chip) : Chip :=
  { c with pwr.allGatedSince := if c.pwr.gated = BitVec.allOnes 64 then some (c.pwr.allGatedSince.getD c.time.ns) else none }

/-- GATE (R508): the cluster is powered off but for its slices and pages; preloaded lists are lost. -/
def Chip.gate (c : Chip) (cl : Nat) : Chip :=
  if bit (c.reg pgPWR 0x218) cl ∧ ¬ c.clGated cl ∧ c.clIdle cl ∧ ¬ c.wakeAsked cl ∧ c.pwr.st = .active then
    let c := (List.range 8).foldl (fun (c : Chip) j => c.setCore (8 * cl + j) { c.coreOf (8 * cl + j) with preload := none }) c
    (({ c with pwr.gated := c.pwr.gated ||| BitVec.ofNat 64 (2 ^ cl) }).count pgPWR 6 1).gatedSince
  else c

/-- Order among waiting wakes (R509). -/
def WakeReq.before (a b : WakeReq) : Bool :=
  if a.lc ≠ b.lc then a.lc else if a.at_ ≠ b.at_ then decide (a.at_ < b.at_) else decide (a.cluster < b.cluster)

/-- WAKE (R509, R510): the first waiting wake starts, at most 8 in 1 µs; stopped ACLK PLLs are started first. -/
def Chip.wake (c : Chip) (cl : Nat) : Chip :=
  match firstBy WakeReq.before c.pwr.wakeQ with
  | none => c
  | some w =>
    let recent := c.pwr.wakeStarts.filter (fun t => decide (c.time.ns < t + 1000))
    if w.cluster ≠ cl ∨ c.pwr.st ≠ .active then c
    else if ¬ c.pwr.aclkOn then { c with pwr.aclkOn := true, pwr.aclkLock := c.time.ns + 20000 }
    else if c.time.ns < c.pwr.aclkLock ∨ recent.length ≥ 8 then c
    else
      ({ c with pwr.wakeQ := c.pwr.wakeQ.filter (fun x => !(decide (x.cluster = cl))), pwr.wakeStarts := c.time.ns :: recent,
                pwr.waking := Tab.put (0, 0) c.pwr.waking cl (c.time.ns + 2000, w.at_) }).count pgPWR 5 1

/-- WAKE_READY (R509): 2 µs after its start; the cores stand as R198 gives, with what their pages show of the last kernel (R235). -/
def Chip.wakeReady (c : Chip) (cl : Nat) : Chip :=
  match c.pwr.waking.find? (fun w => decide (w.1 = cl)) with
  | none => c
  | some (_, t, asked) =>
    if c.time.ns < t ∨ c.clFenced cl then c
    else
      let c := { c with pwr.waking := Tab.del c.pwr.waking cl, pwr.gated := c.pwr.gated &&& ~~~(BitVec.ofNat 64 (2 ^ cl)) }
      let c := (List.range 8).foldl (fun (c : Chip) j =>
        let k := c.coreOf (8 * cl + j)
        c.setCore (8 * cl + j) { coreInit with tag := k.tag, queue := k.queue, cyc := k.cyc, last := k.last }) c
      (c.count pgPWR 7 (c.time.ns - asked)).gatedSince

/-- A write of PWR_GATE_REQ: clusters whose bit is cleared wake (R509). -/
def Chip.gateReq (c : Chip) (v : Nat) : Chip :=
  let old := c.reg pgPWR 0x218
  let c := c.setReg pgPWR 0x218 v
  if c.pwr.st = .active then
    (List.range 64).foldl (fun c cl => if bit old cl ∧ ¬ bit v cl then c.askWake cl false else c) c
  else c

/-- ACLK_IDLE (R510). -/
def Chip.aclkIdle (c : Chip) : Chip :=
  match c.pwr.allGatedSince with
  | some t => if c.fld pgPWR 0x008 1 1 = 1 ∧ c.pwr.aclkOn ∧ t + 100000 ≤ c.time.ns ∧ c.pwr.wakeQ = [] ∧ c.pwr.waking = [] then { c with pwr.aclkOn := false } else c
  | none => c

/-! ## What a reset clears (R513 to R515) -/

def Level.rank : Level → Nat
  | .none => 0 | .core => 1 | .cluster => 2 | .dieWarm => 3 | .module => 4 | .cold => 5

/-- Coding of PWR_RESET.LEVEL (R519). -/
def Level.code : Level → Nat
  | .none => 0 | .cold => 1 | .module => 2 | .dieWarm => 3 | .cluster => 4 | .core => 5

/-- Rank of the reset that acts, a boot included (R517). -/
def Chip.acting (c : Chip) : Nat :=
  match c.pwr.boot with
  | some (l, _) => l.rank
  | none => if c.pwr.unitResets.any (fun r => r.cluster) then 2 else if c.pwr.unitResets ≠ [] then 1 else 0

/-- Pages of the always-on domain (R495). -/
def aonPage (p : Nat) : Bool := decide (p = pgPWR) || decide (p = pgCUR) || decide (p = pgTBS)

/-- The die's logic clears: everything but the always-on domain, the home unit, fences, fuses, flash and the Ledger (R514). An
update that runs is interrupted (R458); the record and the fuse of a fence still being completed are not lost (R514, log 25). -/
def Chip.dieClear (c : Chip) : Chip :=
  let late := c.flt.evac
  let c := { (c.clearPages (fun p => !(aonPage p))) with
    fe := { FeSt.reset with fresh := c.fe.fresh }, bm := BmSt.reset, core := CoreSt.reset, rd := RdSt.reset, fab := FabSt.reset,
    col := ColSt.reset, hlt := HltSt.reset,
    sec := { c.sec with keys := [], kem := none, nonce := List.replicate 32 0, req := none },
    flt := { FltSt.reset with placed := c.flt.placed.filter (fun p => aonPage p.page), fuseQ := c.flt.fuseQ ++ c.flt.evac.map (fun n => (false, n)) },
    cur.fw := { c.cur.fw with st := 0, progress := 0 },
    pwr := { c.pwr with
      gated := BitVec.allOnes 64, wakeQ := [], waking := [], wakeStarts := [], unitResets := [], aclkOn := false, allGatedSince := none,
      point := 7, lowSince := none } }
  late.foldl (fun c _ => c.ledgerEv pgFLT 1 none none none) c

/-- A tile's home after DIE_WARM (R515). -/
def tileHome (t : Tile) (st : TileSt) : Tile := { t with st := st, tier := false, dir := false, to_ := 0, slot := 0 }

/-- Slots are resolved into the home table (R515); a tile whose clean slot drains keeps the state it had. -/
def Chip.resolveSlots (c : Chip) : Tab Tile :=
  let c1 := c.hom.slots.foldl (fun (d : Chip) e =>
    let s := e.2
    let t := d.tileOf s.tile
    let was := (((c.shuOf (s.tile % 16)).flight.find? (fun m => decide (m.tile = s.tile))).map (fun m => m.was)).getD .resident
    match s.st with
    | .held => d.setTile s.tile (if s.dirty then tileHome t .poisoned else tileHome t t.st)
    | .draining => d.setTile s.tile (if s.dirty then tileHome t .poisoned else tileHome t was)
    | _ => d) c
  let c2 := c1.hom.tiles.foldl (fun (d : Chip) e => if e.2.st = .moving then d.setTile e.1 (tileHome e.2 .poisoned) else d) c1
  c2.hom.tiles

/-- The home unit through DIE_WARM: LPDDR5X and its training kept, slots resolved, everything else clear. -/
def Chip.homWarm (c : Chip) : HomSt :=
  { HomSt.reset with tiles := c.resolveSlots, lp := c.hom.lp, order := c.hom.order,
                     shus := c.hom.shus.map (fun e => (e.1, { (default : Shu) with trained := e.2.trained, lp := 2 })) }

/-- What a level clears, the flag set that READY waits for (R443, R514). -/
def Chip.clearTo (c : Chip) (l : Level) : Chip :=
  match l with
  | .dieWarm =>
    { c.dieClear with hom := c.homWarm,
                      flt.placed := c.flt.placed.filter (fun p => aonPage p.page || (decide (pgSHU 0 ≤ p.page) && decide (p.page ≤ pgSHU 15))) }
  | .module => { c.dieClear with hom := HomSt.reset, pwr.booted := false }
  | .cold =>
    let d := c.dieClear
    { d with hom := HomSt.reset, flt.placed := [], regs := [], sec := SecSt.reset, cur := CurSt.reset,
             time := { TimeSt.reset with ns := c.time.ns, tbpIn := c.time.tbpIn, resetL := c.time.resetL, resetLLow := c.time.resetLLow,
                                         draws := c.time.draws, boots := c.time.boots },
             pwr := { PwrSt.reset with aux12 := c.pwr.aux12, main48 := c.pwr.main48, st := c.pwr.st, toLog := c.pwr.toLog } }
  | _ => c

/-- The reset is noted: PWR_LAST_RESET, its counter, and the record that the next boot writes (R513, R517, R521). -/
def Chip.noteReset (c : Chip) (l : Level) (cause : Nat) : Chip :=
  let c := { (c.setReg pgPWR 0x230 (cause <<< 8 + l.code)) with pwr.toLog := c.pwr.toLog ++ [(l, cause)] }
  match l with
  | .module => c.count pgPWR 10 1
  | .dieWarm => c.count pgPWR 11 1
  | .cluster => c.count pgPWR 12 1
  | .core => c.count pgPWR 13 1
  | _ => c

/-! ## Boot (R464, R465, R518) -/

/-- Components that a boot verifies (R518 step 3). -/
def bootComps (l : Level) : List Nat :=
  match l with
  | .cold => [1, 2, 3, 4, 5] | .module => [2, 3, 4, 5] | _ => [4]

/-- The ROM enters recovery for component k (R459). -/
def Chip.enterRecovery (c : Chip) (k : Nat) : Chip :=
  let c := { c with cur.up := false, cur.recBuf := [], cur.fw := { c.cur.fw with st := 0, comp := k, recovery := true, nextOff := 0, header := [], progress := 0 } }
  c.healthGo

/-- Every component has passed: floors, signature state, the Curator's firmware and the records of the resets (R467, R469, R518). -/
def Chip.bootGoes (c : Chip) (l : Level) : Chip :=
  let c := if l = .cold then c.raiseFloors else c
  let c := { c.xmssBoot with cur.up := true, cur.fw := { c.cur.fw with recovery := false } }
  let c := c.pwr.toLog.foldl (fun (c : Chip) r => c.ledgerEv pgPWR 2 (some r.1.code) (some r.2) none) c
  (({ c with pwr.toLog := [] }).attn 6).healthGo

/-- The root hash of FACTORY's firmware public key: SHAKE256 of its 68 bytes, taken to 256 bits, against the ROM's constant (R463). -/
def rootHashOk : Bool := decide (Config.shake256 Config.firmwareKey = Config.rootHash)

/-- Boot step 2: the ROM checks FACTORY's CRC at the n-th boot, then its root hash (R464). -/
def factoryOk (n : Nat) : Bool := Config.factoryCrc n && rootHashOk

/-- Boot steps 2 to 4 (R464, R465, R518). -/
def Chip.bootRom (c : Chip) (l : Level) : Chip :=
  let n := c.time.boots
  let c := { c with time.boots := n + 1, sec.romStop := false, cur.fw := { c.cur.fw with recovery := false } }
  if l = .cold ∧ ¬ factoryOk n then ({ c with sec.romStop := true, cur.up := false }).healthGo
  else match c.verifyComps (bootComps l) with
    | (some k, c) => c.enterRecovery k
    | (none, c) => c.bootGoes l

/-- The boot goes on with MAIN48: rails and Halter training (R518 steps 5 to 8). A ROM that goes no further runs no component, so
that the rails stay off (R464, R495). -/
def Chip.bootRails (c : Chip) : Chip :=
  if c.sec.romStop then { c with pwr.st := .aux }
  else
    let c := { c with pwr.st := .booting, pwr.rails := true, pwr.groups := max 1 c.pwr.groups }
    if c.hlt.st ≠ .disabled then c else c.hltTrain

/-- A boot enters at a level (R518); it waits in AUX for MAIN48. -/
def Chip.bootFrom (c : Chip) (l : Level) (cause : Nat) : Chip :=
  let c := ({ c with pwr.boot := some (l, cause), pwr.st := if c.pwr.main48 then .booting else .aux }).bootRom l
  if c.pwr.main48 then c.bootRails else c

/-- A reset of DIE_WARM level or higher (R513, R514, R517): discarded while an equal or higher level acts. -/
def Chip.resetTo (c : Chip) (l : Level) (cause : Nat) : Chip :=
  if c.pwr.st = .off ∨ (c.pwr.boot.isSome ∧ l.rank ≤ c.acting) ∨ (l = .dieWarm ∧ ¬ c.pwr.rails) then c
  else ((c.clearTo l).noteReset l cause).bootFrom l cause

/-- Fuses are read at boot step 7; fences whose fuses are not blown yet stand (R514, R533). -/
def Chip.fencesLoaded (c : Chip) : Chip :=
  let cl := c.fz.clFence ||| c.fz.clFuseA ||| c.fz.clFuseB
  let cores := (List.range 64).foldl (fun (v : BitVec 512) k => if cl.getLsbD k then v ||| BitVec.ofNat 512 (255 * 2 ^ (8 * k)) else v) 0
  { c with fz.clFence := cl, fz.coreFence := c.fz.coreFence ||| c.fz.coreFuseA ||| c.fz.coreFuseB ||| cores }

/-- Boot steps 7 to 10 end (R518). -/
def Chip.bootEnds (c : Chip) (l : Level) : Chip :=
  let c := c.fencesLoaded
  let t := c.time.ns
  let c := { c with
    hom.init := false, hom.shus := (List.range 16).map (fun s => (s, { c.shuOf s with trained := true, lp := 0 })),
    pwr := { c.pwr with
      st := .active, boot := none, booted := c.pwr.booted || decide (l ≠ Level.dieWarm), fclkOn := true, rails := true,
      gated := BitVec.allOnes 64, aclkOn := false, allGatedSince := some t, point := 7, lastDvfs := t, lastTherm := t },
    fe.cpxUp := true, fe.winStart := t, flt.kicks := if t = 0 then [] else [(0, t), (1, t), (2, t), (3, t)] }
  (c.setFld pgFE 0x008 0 0 1).healthGo

/-- BOOT_COMPLETE (R518): the digests of PHY and CPX are checked as they load, and READY rises (R443). -/
def Chip.bootComplete (c : Chip) : Chip :=
  match c.pwr.boot with
  | none => c
  | some (l, _) =>
    if c.pwr.st ≠ .booting ∨ c.cur.fw.recovery ∨ c.sec.romStop ∨ ¬ c.pwr.main48 then c
    else if l ≠ .dieWarm ∧ ¬ c.digestHolds 3 then c.enterRecovery 3
    else if ¬ c.digestHolds 4 then c.enterRecovery 4
    else c.bootEnds l

/-! ## Supplies (R494 to R497) -/

/-- The main rails turn off and the part enters AUX (R496): a MODULE-level loss with its cause. -/
def Chip.railsOff (c : Chip) (cause : Nat) : Chip :=
  let c := (c.clearTo .module).noteReset .module cause
  { c with pwr := { c.pwr with st := .aux, rails := false, boot := none, fclkOn := false, groups := 0, shedSince := none, loads := [], amps := [] } }

/-- AUX12_ON: AUX12 is applied from OFF, a COLD reset (R494, R513). -/
def Chip.aux12On (c : Chip) : Chip :=
  if c.pwr.st ≠ .off then c
  else
    let c := { c with pwr.aux12 := true, pwr.st := .aux }
    ((c.clearTo .cold).noteReset .cold 0).bootFrom .cold 0

/-- AUX12_LOSS (R497): the part is OFF; fences whose fuses were never blown end (R533). -/
def Chip.aux12Loss (c : Chip) : Chip :=
  let z := c.fz
  let off := { Chip.off with
    fz := { z with coreFence := 0, clFence := 0 },
    time := { TimeSt.reset with ns := c.time.ns, tbpIn := c.time.tbpIn, resetL := c.time.resetL, resetLLow := c.time.resetLLow,
                                draws := c.time.draws, boots := c.time.boots },
    pwr := { PwrSt.reset with main48 := c.pwr.main48 }, fe.fresh := c.fe.fresh }
  off.fencesLoaded

/-- MAIN48_APPLIED (R494): a boot that waits for it goes on. -/
def Chip.main48On (c : Chip) : Chip :=
  let c := { c with pwr.main48 := true }
  if c.pwr.boot.isSome ∧ c.pwr.st = .aux then c.bootRails else c

/-- MAIN_UV (R496): MAIN48 below 38 V for 5 µs. -/
def Chip.mainUv (c : Chip) : Chip :=
  let on := c.pwr.rails
  let c := { c with pwr.main48 := false }
  if on then (((c.railsOff 4).count pgPWR 15 1).err pgPWR 4 0 0) else c

/-- AUTO_RESTART (R496): MAIN48 is back for 100 ms after a loss. -/
def Chip.autoRestart (c : Chip) : Chip :=
  if c.pwr.st = .aux ∧ c.pwr.boot.isNone ∧ c.fld pgPWR 0x230 11 8 = 4 ∧ c.fld pgPWR 0x008 2 2 = 1 then
    ({ c with pwr.main48 := true }).bootFrom .module 4
  else c

/-- THERMAL_TRIP (R506): a site has reached 108 °C. -/
def Chip.thermalTrip (c : Chip) (site : Nat) : Chip :=
  if c.pwr.rails then (c.railsOff 5).err pgPWR 8 site (ofSigned 32 (c.sensorOf site).value) else c

/-! ## Module power states (R511, R512) -/

/-- A request that is not accepted (R512). -/
def Chip.stateRefused (c : Chip) : Chip := c.err pgPWR 9 0 0

/-- PWR_STATE_REQ STANDBY; a reset that acts discards any request (R517). -/
def Chip.toStandby (c : Chip) : Chip :=
  if c.pwr.st = .booting ∨ c.pwr.st = .reset ∨ c.pwr.st = .off ∨ c.pwr.unitResets ≠ [] then c
  else if c.pwr.st = .active ∧ c.fld pgFE 0x008 0 0 = 0 ∧ ¬ c.allCmds.any (fun k => k.inFlight) ∧
      c.fab.ports.all (fun p => decide (p.2.st = .disabled)) ∧ (c.cur.fw.st = 0 ∨ c.cur.fw.st ≥ 4) then
    let n := ((List.range 64).filter (fun cl => !(c.clGated cl))).length
    let c := { c with
      pwr := { c.pwr with st := .standby, gated := BitVec.allOnes 64, wakeQ := [], waking := [], fclkOn := false, aclkOn := false,
                          standbyAt := c.time.ns, point := 7 },
      hom.shus := (List.range 16).map (fun s => (s, { c.shuOf s with lp := 2, pd := 0 })),
      core.cores := c.core.cores.map (fun (e : Nat × Core) => (e.1, { e.2 with preload := none })),
      hlt.lanes := 0, hlt.train := (0, 0) }
    ((c.count pgPWR 6 n).count pgPWR 14 1).hltState .disabled
  else c.stateRefused

/-- PWR_STATE_REQ ACTIVE. -/
def Chip.toActive (c : Chip) : Chip :=
  match c.pwr.st with
  | .standby =>
    let c := { c with pwr.st := .active, pwr.fclkOn := true, pwr.allGatedSince := some c.time.ns,
                      hom.shus := (List.range 16).map (fun s => (s, { c.shuOf s with lp := 0 })) }
    if c.fld pgHLT 0x008 0 0 = 1 then c.hltTrain else c
  | .aux =>
    if c.pwr.boot.isSome then c
    else if c.cur.sensors.any (fun e => decide (e.1 < 64) && decide (e.2.value ≥ 720)) then c.stateRefused
    else c.bootFrom .module (c.fld pgPWR 0x230 11 8)
  | .active => c.stateRefused
  | _ => c

/-- PWR_STATE_REQ AUX: the shutdown of R496 with cause REGISTER. -/
def Chip.toAux (c : Chip) : Chip :=
  match c.pwr.st with
  | .active | .standby => c.railsOff 3
  | .aux => c.stateRefused
  | _ => c

/-! ## Resets of a cluster or core (R516) -/

/-- Faults placed in structures that a unit's reset clears go with them (R514, R583); those of a core's slice stand. -/
def Chip.faultsClear (c : Chip) (pages : Nat → Bool) : Chip :=
  { c with flt.placed := c.flt.placed.filter (fun p => !(pages p.page) || (decide (pgCORE 0 ≤ p.page) && decide (p.page ≤ pgCORE 511) && decide (p.target = 2))) }

/-- Pages clear, with the structures behind them. -/
def Chip.unitPages (c : Chip) (pages : Nat → Bool) : Chip := (c.clearPages pages).faultsClear pages

/-- A core's own state and pages clear (R514). -/
def Chip.coreClear (c : Chip) (n : Nat) : Chip :=
  let c := { (c.unitPages (fun p => decide (p = pgCORE n) || decide (p = pgSIU n))) with
    core.lmem := Mem.clear c.core.lmem (n * 262144) 262144, core.imem := Mem.clear c.core.imem (n * 65536) 65536,
    core.tbl := Mem.clear c.core.tbl (n * 12288) 12288 }
  c.setCore n coreInit

/-- CORE_RESET (R516); of a fenced core too, which stays fenced (R514). -/
def Chip.coreReset (c : Chip) (n : Nat) : Chip :=
  if c.pwr.st ≠ .active ∨ 1 ≤ c.acting then c
  else
    let c := c.failKernel n .aborted
    let c := (c.coreClear n).noteReset .core 3
    { c with pwr.unitResets := [⟨n, false, c.time.ns + 1000⟩] }

/-- CLUSTER_RESET (R516): it completes at once on a gated cluster, a fenced one among them (R507). -/
def Chip.clusterReset (c : Chip) (cl : Nat) : Chip :=
  if c.pwr.st ≠ .active ∨ 2 ≤ c.acting then c
  else
    let c := (List.range 8).foldl (fun (c : Chip) j => c.failKernel (8 * cl + j) .aborted) c
    let c := c.failCluster cl .aborted
    let c := (List.range 8).foldl (fun (c : Chip) j => c.coreClear (8 * cl + j)) c
    let c := (c.unitPages (fun p => decide (p = pgRTE cl) || decide (p = pgDRV cl) || decide (p = pgGNG cl) || decide (p = pgVIT cl))).setVit cl vitInit
    let c := c.noteReset .cluster 3
    { c with pwr.unitResets := if c.clGated cl then [] else [⟨cl, true, c.time.ns + 4000⟩] }

/-- RESET_DONE (R516): 1 µs of a core or 4 µs of a cluster have passed. -/
def Chip.resetDone (c : Chip) (cl : Bool) (u : Nat) : Chip :=
  { c with pwr.unitResets := c.pwr.unitResets.filter (fun r => !(decide (r.cluster = cl) && decide (r.target = u) && decide (r.until_ ≤ c.time.ns))) }

/-! ## RESET_L (R443) -/

/-- RESET_L has been low for 1 µs: a MODULE reset, held until it rises. -/
def Chip.resetLow (c : Chip) : Chip :=
  let c := { c with time.resetL := false, time.resetLLow := c.time.ns }
  if c.pwr.st = .off ∨ (c.pwr.boot.isSome ∧ Level.rank .module ≤ c.acting) then c
  else
    let c := (c.clearTo .module).noteReset .module 1
    { c with pwr.st := .reset, pwr.boot := some (.module, 1) }

/-- RESET_L rises: the reset that it held is released and boots. -/
def Chip.resetRelease (c : Chip) : Chip :=
  let c := { c with time.resetL := true }
  if c.pwr.st = .reset then c.bootFrom .module 1 else c

/-- DIE_HOLD_EXPIRY (R536): the hold of a die-level error ends in a DIE_WARM reset. -/
def Chip.dieHold (c : Chip) : Chip :=
  match c.flt.dieAt with
  | some (t, cause) => if c.time.ns < t then c else c.resetTo .dieWarm cause
  | none => c

end Sys2Proof.Machine
end

