-- ==== Sys2Proof/Machine/Regs.lean ====
section
/-!
DEFINITION. What every register reads as: status registers are computed from the state they show (the register maps of the
chapters); every other register holds what was stored (Ops.lean).
-/

namespace Sys2Proof.Machine

/-- Little-endian packing of one value per byte. -/
def packBytes (vs : List Nat) : Nat := vs.reverse.foldl (fun a v => a * 256 + v % 256) 0

/-- Number of set bits among the first n. -/
def ones (n v : Nat) : Nat := ((List.range n).filter (fun i => bit v i)).length

/-! ## Front-end, CPX (R278, R281, R284) -/

/-- FE_WREC0 or CMDQ_WREC0. -/
def wrec0 (r : List Nat) (queue : Bool) : Nat :=
  (if queue then r.getD 0 0 <<< 23 else 0) + r.getD 1 0 <<< 18 + r.getD 2 0 <<< 16 + r.getD 3 0

/-- FE_WREC1 or CMDQ_WREC1. -/
def wrec1 (r : List Nat) : Nat := r.getD 4 0 <<< 32 + r.getD 5 0

/-- Context number of a resident slot, 0 where it is free. -/
def Chip.slotCtx (c : Chip) (s : Nat) : Nat := ((c.ctxInSlot s).map (fun p => p.1)).getD 0

/-- FE page. -/
def Chip.feReg (c : Chip) (off : Nat) : Nat :=
  let occ := (List.range 16).filter (fun s => (c.ctxInSlot s).isSome)
  match off with
  | 0x00C => occ.length <<< 16 + b2n c.fe.swap.isSome
  | 0x208 => c.lcSum % 2 ^ 32
  | 0x210 => wrec0 c.fe.wrec true
  | 0x218 => wrec1 c.fe.wrec
  | 0x220 => packBytes ((List.range 8).map c.slotCtx)
  | 0x228 => packBytes ((List.range 8).map (fun s => c.slotCtx (s + 8)))
  | 0x230 => (occ.map (fun s => 2 ^ s)).sum
  | _ => c.reg pgFE off

/-- CMDQ pages: queue q, register r of its block. -/
def Chip.cmdqReg (c : Chip) (page off : Nat) : Nat :=
  if off < 0x200 then c.reg page off
  else
    let q := (page - 0x400) * 32 + (off - 0x200) / 0x40
    let x := c.queueOf q
    let w := Tab.get [] c.fe.qwrec q
    match (off - 0x200) % 0x40 with
    | 0x18 => x.tail.toNat
    | 0x1C => x.head.toNat
    | 0x20 => x.done.toNat
    | 0x24 => x.inFlight <<< 4 + c.qState q
    | 0x2C => x.used / 1000 % 2 ^ 32
    | 0x30 => wrec0 w false
    | 0x38 => wrec1 w
    | _ => c.reg page off

/-- CPX page. -/
def Chip.cpxReg (c : Chip) (off : Nat) : Nat :=
  match off with
  | 0x200 => if c.fe.cpxUp then Tab.get 0 c.sec.vers 4 else 0
  | 0x204 => (b2n c.fe.cpx.isSome) <<< 1 + b2n c.fe.cpxUp
  | _ => c.reg pgCPX off

/-! ## Routing and dispatch (R78, R81, R119, R122) -/

/-- RQS page. -/
def Chip.rqsReg (c : Chip) (off : Nat) : Nat :=
  let relay := fun (s : Nat) => c.rd.routes.find? (fun (r : RouteRun) => decide (r.slot = s) && decide (r.grant < r.clus.length))
  if 0x200 ≤ off ∧ off < 0x240 then
    let s := (off - 0x200) / 16
    match (c.rslot s).dom with
    | none => 0
    | some d =>
      if off % 16 = 0 then
        d.tag <<< 48 + 1 <<< 43 + (b2n (c.rd.routes.any (fun (r : RouteRun) => decide (r.slot = s)))) <<< 42 + d.e <<< 27 + d.groups <<< 20 + d.srcRank <<< 2
      else d.ctx
  else if off = 0x240 then
    ((List.range 4).map (fun s => match relay s with
      | some r => ((2 ^ 7 + ((r.clus[r.grant]?).map (fun (y : RClu) => y.cluster)).getD 0) <<< (8 * s))
      | none => 0)).sum
  else if off = 0x24C then
    let i := c.reg pgRQS 0x248
    let e := Tab.get default (c.rslot (bits i 15 14)).quota (bits i 13 0)
    e.used <<< 16 + e.remain
  else c.reg pgRQS off

/-- DWT page. -/
def Chip.dwtReg (c : Chip) (off : Nat) : Nat :=
  if 0x200 ≤ off ∧ off < 0xA00 then
    let x := c.winOf ((off - 0x200) / 32)
    match (off - 0x200) % 32 with
    | 0 => x.epoch <<< 56 + (b2n x.armed) <<< 54 + (b2n (x.comb.isSome && x.mode)) <<< 53 + (b2n x.comb.isSome) <<< 52 +
        x.marks.length <<< 37 + (if x.armed then x.tokens - x.done.length else 0) <<< 21 + x.retCtr
    | 8 => x.tag.toNat <<< 32 + x.domTag <<< 16 + x.dseq
    | 16 => x.retAddr
    | _ => x.arrAddr
  else c.reg pgDWT off

/-- RTE pages. -/
def Chip.rteReg (c : Chip) (cl off : Nat) : Nat :=
  match off with
  | 0x00C =>
    match c.routeOn cl with
    | none => 0
    | some r =>
      match r.part cl with
      | none => 0
      | some x =>
        let e := (((c.rslot r.slot).dom).map Domain.e).getD 0
        let wait := decide (x.stage = 1) && decide (r.f 262 262 = 0) && !(c.laneEntry cl (nextLane r x e) (r.f 259 254))
        x.toks.length <<< 16 + (if x.stage = 6 then 0 else x.stage) <<< 5 + (b2n wait) <<< 4 + r.slot <<< 2 + 2
  | 0x214 =>
    let i := c.reg (pgRTE cl) 0x210
    match (c.rslot (bits i 15 14)).dom with
    | some d => ((d.bias[bits i 13 0]?).getD 0).toNat
    | none => 0
  | _ => c.reg (pgRTE cl) off

/-- DRV pages: the oldest command that runs in the cluster. -/
def Chip.drvReg (c : Chip) (cl off : Nat) : Nat :=
  let run := c.rd.drovers.find? (fun (d : DRun) => d.clus.any (fun (y : DClu) => decide (y.cluster = cl)))
  let comb := c.combOn cl
  match off with
  | 0x00C =>
    let tags := c.tagsBy (fun x => match x with | .drover e _ _ _ => decide (e = cl) | _ => false)
    let hold := c.fab.tags.any (fun e => match e.2 with
      | some t => t.held.isSome && (match t.by_ with | .drover d _ _ _ => decide (d = cl) | _ => false) | none => false)
    match run, comb with
    | some d, _ => (if d.kind = 1 then bits d.op.toNat 121 116 else 0) <<< 10 + d.kind <<< 7 + (b2n (decide (192 ≤ tags))) <<< 3 + (b2n hold) <<< 2 + 2
    | none, some w => w <<< 10 + (if (c.winOf w).mode then 4 else 3) <<< 7 + (b2n (decide (192 ≤ tags))) <<< 3 + (b2n hold) <<< 2 + 2
    | none, none => (b2n (decide (192 ≤ tags))) <<< 3 + (b2n hold) <<< 2
  | 0x208 =>
    match run, comb with
    | some d, _ => ((d.clus.find? (fun (y : DClu) => decide (y.cluster = cl))).map (fun (y : DClu) => y.last - y.next)).getD 0
    | none, some w =>
      let x := c.winOf w
      (x.lists.filter (fun (l : DList) => decide (l.cluster = cl))).foldl (fun n (l : DList) =>
        n + ((List.range l.count).filter (fun t => !(x.done.contains (l.first + t)))).length) 0
    | none, none => 0
  | _ => c.reg (pgDRV cl) off

/-! ## Memory (R323, R326) -/

/-- HOM_SLOT_DATA. -/
def Slot.word (s : Slot) : Nat :=
  let st := match s.st with | .free => 0 | .filling => 1 | .held => 2 | .draining => 3
  s.tile <<< 39 + st <<< 37 + (b2n s.dirty) <<< 36 + (b2n s.pinned) <<< 35 + s.locks <<< 27 +
    (if s.st = .filling ∨ s.st = .draining then s.cls else 0) <<< 24

/-- HOM_TTs: the walk of the context in resident slot s. -/
def Chip.ttWord (c : Chip) (s : Nat) : Nat :=
  match (c.ctxInSlot s).bind (fun p => Tab.get none c.hom.tts p.1) with
  | none => 0
  | some b =>
    let ps := (List.range 16).map b.posOf
    let low := ps.foldl (fun (m : Nat × Nat × Nat) p => if p.2.1 < m.2.1 ∨ (p.2.1 = m.2.1 ∧ p.1 < m.1) then p else m) (b.posOf 0)
    let step := (b.base.toNat + low.2.1 * b.period.toNat + (if low.1 < b.entries then bits (c.ttEntryAt b low.1) 127 96 else 0)) % 2 ^ 32
    step <<< 32 + (low.1 % 4096) <<< 20 + (b2n (!b.stalled.isEmpty)) <<< 17 + 2 ^ 16 + b.ctr

/-- The Timetable of the context in resident slot s is being walked: some Shunter's walk has not ended (R312). -/
def Chip.ttWalks (c : Chip) (s : Nat) : Bool :=
  match (c.ctxInSlot s).bind (fun p => Tab.get none c.hom.tts p.1) with
  | none => false
  | some b => (List.range 16).any (fun h => !(b.ended.contains h) && decide ((b.posOf h).1 < b.entries))

/-- HOM page. -/
def Chip.homReg (c : Chip) (off : Nat) : Nat :=
  if 0x240 ≤ off ∧ off < 0x2C0 then
    match Tab.get none c.hom.dbinds ((off - 0x240) / 8) with
    | none => 0
    | some b => b.ctx <<< 56 + b.domain <<< 40 + 1 <<< 39 + b.entries <<< 24 + b.latched.length <<< 9
  else if 0x2C0 ≤ off ∧ off < 0x340 then c.ttWord ((off - 0x2C0) / 8)
  else match off with
  | 0x00C =>
    (c.hom.dbinds.filter (fun e => e.2.isSome)).length <<< 13 +
      ((List.range 16).filter (fun s => c.ttWalks s)).length <<< 8 + b2n c.hom.init
  | 0x208 => let t := c.reg pgHOM 0x200; if t < 25165824 then (c.tileOf t).word else 0
  | 0x218 => (c.slotOf (c.reg pgHOM 0x210)).word
  | _ => c.reg pgHOM off

/-- SHU pages. -/
def Chip.shuReg (c : Chip) (s off : Nat) : Nat :=
  let x := c.shuOf s
  let w := fun (k : Nat) => min 65535 (x.waiting.filter (fun r => decide (r.cls = k))).length
  match off with
  | 0x00C => x.flight.length
  | 0x200 => w 1 <<< 48 + w 2 <<< 32 + w 3 <<< 16 + w 4
  | _ => c.reg (pgSHU s) off

/-- BPM pages. -/
def Chip.bpmReg (c : Chip) (k off : Nat) : Nat :=
  let cell := c.fld (pgBPM k) 0x208 17 0
  if 0x240 ≤ off ∧ off % 16 = 8 then
    let p := c.poolOf (32 * k + (off - 0x240) / 16)
    p.free <<< 45 + p.minFree <<< 26 + p.buffers <<< 7
  else match off with
  | 0x00C => b2n ((List.range 32).any (fun p => c.poolBuilding k p))
  | 0x210 => if cell < c.cells k then c.cell k cell % 2 ^ 64 else 0
  | 0x218 => if cell < c.cells k then c.cell k cell / 2 ^ 64 else 0
  | _ => c.reg (pgBPM k) off

/-! ## Fabric and collectives (R393, R396, R434) -/

/-- Codes of link states (R396, R460). -/
def LinkSt.code : LinkSt → Nat
  | .disabled => 0 | .training => 1 | .up => 2 | .down => 3 | .failed => 4 | .recovery => 5

/-- CFB page. -/
def Chip.cfbReg (c : Chip) (off : Nat) : Nat :=
  match off with
  | 0x00C => (b2n c.bypUp) <<< 16 + (((List.range 16).filter c.portUp).map (fun p => 2 ^ p)).sum
  | 0x20C => (c.fld pgCFB 0x20C 30 16) <<< 16 + c.tagsInUse + c.hlt.htags.length
  | 0x214 =>
    let j := c.fld pgCFB 0x210 11 0
    let a := c.admOf j
    a.st <<< 30 + a.gen <<< 26 + a.next <<< 22 +
      (c.fab.tags.filter (fun e => match e.2 with | some t => decide (t.job / 16 = j) | none => false)).length
  | 0x224 => Tab.get 0 c.fab.reach (c.fld pgCFB 0x220 17 0)
  | _ => c.reg pgCFB off

/-- CPT pages. -/
def Chip.cptReg (c : Chip) (p off : Nat) : Nat :=
  let x := c.portOf p
  if 0x208 ≤ off ∧ off < 0x230 then
    let v := (off - 0x208) / 8
    (x.tx.getD v 0) <<< 32 + (rxSize v - c.rxUsed p v)
  else match off with
  | 0x00C => x.lanes <<< 4 + x.st.code
  | 0x200 => (b2n x.kind) <<< 31 + x.plane <<< 18 + x.node
  | 0x230 => x.step <<< 4 + x.attempts
  | _ => c.reg (pgCPT p) off

/-- COL page. -/
def Chip.colReg (c : Chip) (off : Nat) : Nat :=
  if 0x200 ≤ off ∧ off < 0x280 then
    let s := (off - 0x200) / 16
    let m := c.mslot s
    let used := c.col.slots.any (fun e => decide (e.2.st ≠ 0) && decide (e.2.f 186 184 = s))
    if off % 16 = 0 then m.version <<< 32 + m.ctx <<< 24 + (b2n m.valid) <<< 23 + (b2n used) <<< 22 + m.n else m.addr <<< 18 + m.rank
  else if 0x300 ≤ off ∧ off < 0x700 then
    let x := c.cslot ((off - 0x300) / 16)
    if off % 16 = 0 then
      x.tag.toNat <<< 32 + x.last.getD 0 <<< 16 + (x.f 7 0 % 8) <<< 13 + x.st <<< 10 + x.queue <<< 1 + x.f 160 160
    else x.signalled <<< 35 + x.chunks <<< 6
  else if off = 0x00C then c.collTags <<< 16 + (c.col.slots.filter (fun e => decide (e.2.st ≠ 0))).length
  else c.reg pgCOL off

/-! ## Host link, Curator, timebase, security, power, faults (R460 to R462, R491, R519, R544) -/

/-- HLT page. -/
def Chip.hltReg (c : Chip) (off : Nat) : Nat :=
  match off with
  | 0x00C => c.hlt.lanes.toNat <<< 4 + c.hlt.st.code
  | 0x200 => c.hlt.partner.1 <<< 16 + c.hlt.partner.2
  | 0x208 => c.hlt.train.2 <<< 4 + c.hlt.train.1
  | _ => c.reg pgHLT off

/-- CUR page. -/
def Chip.curReg (c : Chip) (off : Nat) : Nat :=
  let s := c.sensorOf (c.fld pgCUR 0x218 8 0)
  match off with
  | 0x00C => c.cur.health <<< 4 + (b2n (decide (1 ≤ c.cur.fw.st) && decide (c.cur.fw.st ≤ 3))) <<< 3 + (b2n (!c.cur.frameQ.isEmpty)) <<< 2 +
      (b2n c.attnLow) <<< 1 + b2n c.cur.up
  | 0x21C => ofSigned 32 s.value
  | 0x220 => s.status
  | _ => c.reg pgCUR off

/-- TBS page. -/
def Chip.tbsReg (c : Chip) (off : Nat) : Nat :=
  match off with
  | 0x200 => c.time.tb.toNat
  | 0x22C => (c.fld pgTBS 0x22C 31 16) <<< 16 + b2n c.time.snapAt.isSome
  | 0x230 => match c.time.snapAt with
    | some t => if t.toNat ≤ c.time.tb.toNat then 2 ^ 64 - 1 else 0
    | none => 0
  | _ => c.reg pgTBS off

/-- SEC page. -/
def Chip.secReg (c : Chip) (off : Nat) : Nat :=
  let x := c.fld pgSEC 0x218 7 0
  let k := c.keysOf x
  let gen := fun (g : Bool) => (c.fab.tags.filter (fun e => match e.2 with | some t => decide (t.kgen = some (x, g)) | none => false)).length
  if 0x240 ≤ off ∧ off < 0x380 then
    let n := (off - 0x240) / 64
    ofBytes (((Tab.get (List.replicate 64 0) c.sec.meas (n + 1)).drop ((off - 0x240) % 64)).take 8)
  else if 0x380 ≤ off ∧ off < 0x394 then Tab.get 0 c.sec.vers ((off - 0x380) / 4 + 1)
  else match off with
  | 0x00C => (b2n c.sec.kem.isSome) <<< 2 + (b2n c.sec.req.isSome) <<< 1 + b2n c.secUp
  | 0x208 => c.fz.xmssLimit <<< 32 + c.fz.xmssNext
  | 0x210 => packBytes c.fz.floors
  | 0x220 =>
    let ctx := c.ctxOf x
    (((ctx.map (fun y => y.job)).getD 0) % 65536) <<< 48 + (b2n (ctx.bind (fun y => y.slot)).isSome) <<< 47 + ((ctx.bind (fun y => y.slot)).getD 0) <<< 43 +
      (b2n (k.lCur.getD false)) <<< 5 + (b2n k.l1.isSome) <<< 4 + (b2n k.l0.isSome) <<< 3 +
      (b2n (k.wCur.getD false)) <<< 2 + (b2n k.w1.isSome) <<< 1 + b2n k.w0.isSome
  | 0x228 => gen true <<< 15 + gen false
  | 0x394 => c.sec.pending.toNat
  | _ => c.reg pgSEC off

/-- Codes of module states (R519): OFF shows nothing, since AUX12 powers the page. -/
def ModSt.code : ModSt → Nat
  | .off => 0 | .aux => 0 | .standby => 1 | .active => 2 | .booting => 3 | .reset => 4

/-- PWR page. -/
def Chip.pwrReg (c : Chip) (off : Nat) : Nat :=
  match off with
  | 0x00C => (8 * c.pwr.groups) <<< 16 + (b2n c.pwr.aclkOn) <<< 15 + (b2n c.pwr.fclkOn) <<< 14 + c.therm <<< 12 + c.slowPoint <<< 8 +
      c.pwr.point <<< 4 + c.pwr.st.code
  | 0x208 => c.pwrIlim <<< 16 + (if c.pwr.rails then pointMv c.pwr.point else 0)
  | 0x210 => (c.avgMw / 1000 % 65536) <<< 48 + (c.pwr.loads.headD 0 / 1000 % 65536) <<< 32 + (c.avgMa / 1000 % 65536) <<< 16 + c.pwr.thermCap
  | 0x220 => c.pwr.gated.toNat
  | _ => c.reg pgPWR off

/-- FLT page. -/
def Chip.fltReg (c : Chip) (off : Nat) : Nat :=
  let cores := c.fz.coreFence.toNat
  let cls := c.fz.clFence.toNat
  if 0x200 ≤ off ∧ off < 0x240 then 2 ^ 64 - 1 - cores / 2 ^ (8 * (off - 0x200)) % 2 ^ 64
  else match off with
  | 0x00C => (b2n c.flt.dieAt.isSome) <<< 31 + (b2n (!c.flt.fuseQ.isEmpty)) <<< 30 + ones 512 cores <<< 16 + ones 64 cls
  | 0x240 => cls
  | _ => c.reg pgFLT off

/-! ## Clusters and cores (R154, R188, R235, R238) -/

/-- GNG pages. -/
def Chip.gngReg (c : Chip) (cl off : Nat) : Nat :=
  match off with
  | 0x00C =>
    let k := c.coreOf (8 * cl)
    let busy := (List.range 8).any (fun j => decide ((c.coreOf (8 * cl + j)).st ≠ 0))
    let held := busy && c.allCmds.any (fun m =>
      decide (m.type = 0) && decide (m.phase = .ready) && decide ((c.imageOf m).lists = 8) && decide (m.f 17 9 / 8 = cl))
    (c.fld (pgGNG cl) 0x00C 7 5) <<< 5 + (b2n held) <<< 1 + b2n (k.gang && decide (k.st ≠ 0))
  | _ => c.reg (pgGNG cl) off

/-- VIT pages. -/
def Chip.vitReg (c : Chip) (cl off : Nat) : Nat :=
  let v := c.vitOf cl
  if 0x240 ≤ off ∧ off < 0x280 then ofBytes ((v.rd.drop (off - 0x240)).take 8)
  else match off with
  | 0x00C => (b2n v.stopped) <<< 2 + (b2n v.wrapped) <<< 1 + b2n (decide (c.fld (pgVIT cl) 0x008 0 0 = 1) && !v.stopped)
  | 0x200 => v.wptr
  | _ => c.reg (pgVIT cl) off

/-- CORE pages. -/
def Chip.coreReg (c : Chip) (n off : Nat) : Nat :=
  let k := c.coreOf n
  if 0x250 ≤ off ∧ off < 0x270 then k.ctr ((off - 0x250) / 4)
  else match off with
  | 0x00C => k.last <<< 18 + (b2n k.preload.isSome) <<< 13 + k.st
  | 0x200 => k.tag.toNat <<< 32 + k.queue <<< 23
  | 0x208 => k.cyc % 2 ^ 64
  | 0x270 => ((List.range 8).map (fun i => b2n ((k.ks[i]?).getD cmpInit).val * 2 ^ i)).sum
  | _ => c.reg (pgCORE n) off

/-- SIU pages. -/
def Chip.siuReg (c : Chip) (n off : Nat) : Nat :=
  let k := c.coreOf n
  let busy := decide (k.siuOp ≠ 0) && decide (k.cyc < k.siuUntil)
  match off with
  | 0x00C => if busy then k.siuOp <<< 1 + 1 else 0
  | _ => c.reg (pgSIU n) off

/-- DIE page (R553, R554). -/
def Chip.dieReg (c : Chip) (off : Nat) : Nat :=
  match off with
  | 0x208 => Config.dieSerial.toNat
  | 0x228 => Config.romVersion.toNat
  | _ => c.reg 0x100 off

/-! ## One read -/

/-- The value of the register at an offset of a page. -/
def Chip.regNow (c : Chip) (page off : Nat) : Nat :=
  match blockOf page with
  | none => 0
  | some (cls, i) =>
    match cls with
    | 0x01 => c.dieReg off
    | 0x03 => c.feReg off
    | 0x04 => c.cmdqReg page off
    | 0x05 => c.cpxReg off
    | 0x06 => c.rqsReg off
    | 0x07 => c.dwtReg off
    | 0x08 => c.homReg off
    | 0x09 => c.shuReg i off
    | 0x0A => c.cfbReg off
    | 0x0B => c.cptReg i off
    | 0x0C => c.colReg off
    | 0x0D => c.hltReg off
    | 0x0E => c.curReg off
    | 0x0F => c.tbsReg off
    | 0x10 => c.secReg off
    | 0x11 => c.pwrReg off
    | 0x12 => c.fltReg off
    | 0x20 => c.rteReg i off
    | 0x21 => c.drvReg i off
    | 0x22 => c.gngReg i off
    | 0x24 => c.vitReg i off
    | 0x26 => c.bpmReg i off
    | 0x30 => c.coreReg i off
    | 0x32 => c.siuReg i off
    | _ => c.reg page off

/-- Counters of FCLK cycles, which a model without a clock for its units does not count (log 8). -/
def timedCtrs (cls : Nat) : List Nat :=
  match cls with
  | 0x08 => [4, 19] | 0x09 => [18] | 0x0A => [7, 20] | 0x0C => [16, 17] | 0x0D => [15]
  | 0x0B => [13, 14, 15, 16, 17] | 0x22 => [5]
  | 0x20 => [21, 22] | 0x21 => [16, 17] | 0x26 => [10] | _ => []

/-- Whether an offset is such a counter or its shadow. -/
def timedReg (page off : Nat) : Bool :=
  let i := if off < 0x100 then (off - 0x40) / 8 else (off - 0x100) / 8
  decide (0x40 ≤ off) && decide (off < 0x1C0) && (timedCtrs (((blockOf page).map (fun b => b.1)).getD 0)).contains i

/-- Counter i of a page and its shadow read zero at and above NCTR (R549). -/
def deadCtr (page off : Nat) : Bool :=
  let i := if off < 0x100 then (off - 0x40) / 8 else (off - 0x100) / 8
  decide (0x40 ≤ off) && decide (off < 0x1C0) && decide (nctrOf (((blockOf page).map (fun b => b.1)).getD 0) ≤ i)

/-- The register that an access of 4 or 8 bytes at an offset reaches: its offset, its width and the first bit taken (R14). -/
def regSpan (page off n : Nat) : Option (Nat × Nat × Nat) :=
  if n = 8 then
    match regAt page off with
    | some r => if off % 8 = 0 ∧ r.width = 64 then some (off, 64, 0) else none
    | none => none
  else if n = 4 ∧ off % 4 = 0 then
    match regAt page off with
    | some r => some (off, r.width, 0)
    | none =>
      if off % 8 = 4 then
        match regAt page (off - 4) with
        | some r => if r.width = 64 then some (off - 4, 64, 32) else none
        | none => none
      else none
  else none

/-- A page answers: its block is powered, no reset level acts on it, and it exists (R552). -/
def Chip.pageLive (c : Chip) (page : Nat) : Bool :=
  let aon := decide (page = pgPWR) || decide (page = pgCUR) || decide (page = pgTBS)
  let inReset := c.pwr.unitResets.any (fun r =>
    if r.cluster then (match clusterOfPage page with
      | some k => decide (k = r.target) && ((blockOf page).any (fun b => [0x20, 0x21, 0x22, 0x24, 0x30, 0x32].contains b.1)) | none => false)
    else decide (page = pgCORE r.target) || decide (page = pgSIU r.target))
  if aon then decide (c.pwr.st ≠ .off) else (decide (c.pwr.st = .active) || decide (c.pwr.st = .standby)) && !inReset

/-- The address of a register-page offset (R287). -/
def pageAddr (page off : Nat) : Nat := 0x130000000000 + page * 4096 + off

/-- A read of n bytes at an offset of a page (R14, R15, R548, R552, R584). -/
def Chip.regRead (c : Chip) (page off n : Nat) : Nat × Chip :=
  if (blockOf page).isNone then (0, if c.pageLive pgIRQ then c.badAddr pgIRQ (pageAddr page off) false else c)
  else if ¬ c.pageLive page then (0, c)
  else
    match regSpan page off n with
    | none => (0, c.badAddr page (pageAddr page off) false)
    | some (o, w, lo) =>
      if deadCtr page o then (0, c)
      else if timedReg page o then
        let (v, c) := c.freeVal 64
        ((v / 2 ^ lo) % 2 ^ (8 * n), c)
      else ((c.regNow page o % 2 ^ w / 2 ^ lo) % 2 ^ (8 * n), c)

end Sys2Proof.Machine
end

