-- ==== Sys2Proof/Machine/Bus.lean ====
section
/-!
DEFINITION. Writes of registers and the host window: register pages under their access codes (R10 to R15, R549 to R552), the
local address map as the host reaches it (R287, R288, R582, R584), and Halter packets (R439 to R441).
-/

namespace Sys2Proof.Machine

/-! ## What a register write sets off beyond the page's own state -/

/-- An action that reaches fences, fuses or flash, or resets blocks: it is taken after the write (`Chip.act`). -/
inductive Act where
  /-- No such action. -/
  | none
  /-- PWR_RESET or frame RESET with its cause (R513). -/
  | reset (l : Level) (cause : Nat)
  /-- PWR_RESET CORE (R516). -/
  | coreReset (n : Nat)
  /-- PWR_RESET CLUSTER (R516). -/
  | clusterReset (cl : Nat)
  /-- PWR_STATE_REQ: 1 ACTIVE, 2 STANDBY, 3 AUX (R512). -/
  | power (req : Nat)
  /-- FLT_FENCE_REQ CORE (R534). -/
  | fenceCore (n : Nat)
  /-- FLT_FENCE_REQ CLUSTER (R534). -/
  | fenceCluster (cl : Nat)
  /-- SEC_REQ (R471). -/
  | sec (a : Nat)
  deriving DecidableEq, Repr

/-! ## Fields under their access codes (R10 to R12) -/

/-- A value is no reserved encoding of a field. -/
def Fld.lawful (f : Fld) (v : Nat) : Bool := f.ok.isEmpty || f.ok.any (fun r => decide (r.1 ≤ v) && decide (v ≤ r.2))

/-- The stored value after a write, and whether a field carried a reserved encoding (R11, R12). -/
def storeFlds (old v : Nat) : List Fld → Nat × Bool
  | [] => (old, false)
  | f :: fs =>
    let x := bits v f.hi f.lo
    match f.acc with
    | .rw => if f.lawful x then storeFlds (setBits old f.hi f.lo x) v fs else ((storeFlds old v fs).1, true)
    | .w1c => storeFlds (old - (old &&& (x <<< f.lo))) v fs
    | .wo => if f.lawful x then storeFlds old v fs else ((storeFlds old v fs).1, true)
    | _ => storeFlds old v fs

/-- A write of a register with no behaviour of its own. -/
def Chip.store (c : Chip) (page off v : Nat) : Chip :=
  match regAt page off with
  | none => c
  | some r =>
    let (x, bad) := storeFlds (c.reg page off) v r.flds
    let c := c.setReg page off x
    if bad then c.badWrite page else c

/-! ## Registers that act -/

/-- CFB_CTRL, CFB_NODE and CFB_PEER: locked fields keep their value while a port is not DISABLED (R359). -/
def Chip.cfbWrite (c : Chip) (off v : Nat) : Chip :=
  let free := (List.range 16).all (fun p => decide ((c.portOf p).st = .disabled))
  let old := c.reg pgCFB off
  match off with
  | 0x008 =>
    let lock := !free && decide (bits v 0 0 ≠ bits old 0 0)
    let c := c.setReg pgCFB off (bits v 2 1 <<< 1 + (if lock then bits old 0 0 else bits v 0 0))
    if lock then c.badWrite pgCFB else c
  | 0x200 =>
    let new := bits v 31 31 <<< 31 + bits v 17 0
    if !free && decide (new ≠ old) then c.badWrite pgCFB else c.setReg pgCFB off new
  | _ =>
    let new := bits v 17 0
    if !free && decide (new ≠ old) then c.badWrite pgCFB else c.setReg pgCFB off new

/-- CFB_ADM_CMD (R386). -/
def Chip.admCmd (c : Chip) (v : Nat) : Chip :=
  match bits v 1 0 with
  | 1 => c.admitJob (bits v 27 16) (bits v 15 12)
  | 2 => c.drain (bits v 27 16)
  | 3 => c.remove (bits v 27 16)
  | _ => c

/-- CMDQ_CTRL (R282). -/
def Chip.cmdqCtrl (c : Chip) (q v : Nat) : Chip :=
  match bits v 3 0 with
  | 0 => c
  | 1 => c.cmdqEnable q
  | 2 => c.cmdqDisable q
  | 3 => c.cmdqResume q
  | 4 => c.abortHead q
  | 5 => c.abortAll q
  | _ => c.err pgFE 7 0 (c.qInfo q)

/-- A write in a queue's block (R281). -/
def Chip.cmdqWrite (c : Chip) (page off v : Nat) : Chip :=
  if off < 0x200 then c.store page off v
  else
    let q := (page - 0x400) * 32 + (off - 0x200) / 0x40
    match (off - 0x200) % 0x40 with
    | 0x00 => c.cmdqBase q false v
    | 0x08 => c.cmdqBase q true v
    | 0x10 => c.cmdqCfg q v
    | 0x18 => c.cmdqTail q (BitVec.ofNat 32 v)
    | 0x28 => c.cmdqCtrl q v
    | _ => c

/-- FE_SCHED: the field BE_MAX and the admission check of SVC_CAP (R275, R276); FE_ADMIT. -/
def Chip.feWrite (c : Chip) (off v : Nat) : Chip :=
  match off with
  | 0x204 => c.feAdmit v
  | 0x20C => c.feSched v
  | _ => c.store pgFE off v

/-- CUR_ATTN_MASK: ATTN_L may fall (R443, R451). -/
def Chip.attnMask (c : Chip) (v : Nat) : Chip :=
  let was := c.attnLow
  let c := c.setReg pgCUR 0x204 (bits v 7 0)
  if !was && c.attnLow && c.cur.ibiEn then { c with cur.ibiDue := true } else c

/-- CUR page: a write of CUR_FRAME starts a host frame (R450); an address that is not 256-B aligned is refused (R11, R461). -/
def Chip.curWrite (c : Chip) (off v : Nat) : Chip :=
  match off with
  | 0x204 => c.attnMask v
  | 0x208 =>
    if bits v 45 0 % 256 ≠ 0 then c.badWrite pgCUR
    else if c.cur.up then { c with cur.frameQ := c.cur.frameQ ++ [.host (bits v 45 0)] } else c
  | _ => c.store pgCUR off v

/-- INV_CTRL: CANCEL, then ARM (R454). -/
def Chip.invCtrl (c : Chip) (v : Nat) : Chip :=
  let c := if bit v 1 then c.invCancel else c
  if bit v 0 then c.invArm else c

/-- TBS page. -/
def Chip.tbsWrite (c : Chip) (off v : Nat) : Chip :=
  match off with
  | 0x008 => c.tbsCtrl v
  | 0x208 => c.tbsSet (BitVec.ofNat 64 v)
  | 0x228 => c.invCtrl v
  | _ => c.store pgTBS off v

/-- HLT_CTRL (R460). -/
def Chip.hltWrite (c : Chip) (off v : Nat) : Chip :=
  match off with
  | 0x008 => let c := c.hltEnable (bit v 0); if bit v 1 then c.hltRetrain else c
  | _ => c.store pgHLT off v

/-- CPT_CTRL (R396). -/
def Chip.cptWrite (c : Chip) (p off v : Nat) : Chip :=
  match off with
  | 0x008 => let c := c.cptEnable p v; if bit v 1 then c.cptRetrain p else c
  | _ => c.store (pgCPT p) off v

/-- PWR_RESET (R513, R519). -/
def Chip.pwrReset (c : Chip) (v : Nat) : Chip × Act :=
  let t := bits v 15 6
  if bits v 31 16 ≠ 0x5A3C then (c.badWrite pgPWR, .none)
  else match bits v 2 0 with
  | 0 => (c, .none)
  | 1 => (c, .reset .cold 3)
  | 2 => (c, .reset .module 3)
  | 3 => (c, .reset .dieWarm 3)
  | 4 => if t ≤ 63 then (c, .clusterReset t) else (c.badWrite pgPWR, .none)
  | 5 => if t ≤ 511 then (c, .coreReset t) else (c.badWrite pgPWR, .none)
  | _ => (c.badWrite pgPWR, .none)

/-- PWR page. -/
def Chip.pwrWrite (c : Chip) (off v : Nat) : Chip × Act :=
  match off with
  | 0x218 => (c.gateReq v, .none)
  | 0x228 => (c, if bits v 1 0 = 0 then .none else .power (bits v 1 0))
  | 0x22C => c.pwrReset v
  | _ => (c.store pgPWR off v, .none)

/-- FLT_FENCE_REQ (R534, R544). -/
def Chip.fenceReq (c : Chip) (v : Nat) : Chip × Act :=
  let t := bits v 15 6
  if bits v 31 16 ≠ 0x5A3C then (c.badWrite pgFLT, .none)
  else match bits v 1 0 with
  | 0 => (c, .none)
  | 1 => if t ≤ 511 then (c, .fenceCore t) else (c.badWrite pgFLT, .none)
  | 2 => if t ≤ 63 then (c, .fenceCluster t) else (c.badWrite pgFLT, .none)
  | _ => (c.badWrite pgFLT, .none)

/-- A write of FLT_WDT: a control core that it begins to watch has its first period from the write on (log 181). -/
def Chip.wdtCfg (c : Chip) (v : Nat) : Chip :=
  let old := c.fld pgFLT 0x254 3 0
  let c := c.store pgFLT 0x254 v
  (List.range 4).foldl (fun (c : Chip) k =>
    if bit (c.fld pgFLT 0x254 3 0) k ∧ ¬ bit old k then { c with flt.kicks := Tab.put 0 c.flt.kicks k c.time.ns } else c) c

/-- FLT page. -/
def Chip.fltWrite (c : Chip) (off v : Nat) : Chip × Act :=
  match off with
  | 0x248 => c.fenceReq v
  | 0x254 => (c.wdtCfg v, .none)
  | 0x258 => (c.wdtKick (bits v 1 0), .none)
  | _ => (c.store pgFLT off v, .none)

/-- VIT page. -/
def Chip.vitWriteReg (c : Chip) (cl off v : Nat) : Chip :=
  match off with
  | 0x008 => let c := c.store (pgVIT cl) off v; if bit v 2 then c.vitClear cl else c
  | 0x204 => c.vitMark cl v
  | 0x208 => c.vitRead cl (bits v 13 0)
  | _ => c.store (pgVIT cl) off v

/-- BPM page. -/
def Chip.bpmWrite (c : Chip) (k off v : Nat) : Chip :=
  if 0x240 ≤ off ∧ off % 16 = 0 then c.bpmPoolCfg k ((off - 0x240) / 16) v
  else match off with
  | 0x008 => c.bpmCtrl k v
  | 0x200 => c.bpmTable k v
  | _ => c.store (pgBPM k) off v

/-- CORE page: CORE_DBG_CMD is 1 RESUME, 2 STEP, 3 HALT (R235). -/
def Chip.coreWrite (c : Chip) (n off v : Nat) : Chip :=
  match off with
  | 0x22C => (match bits v 1 0 with | 1 => c.dbgResume n | 2 => c.dbgStep n | 3 => c.dbgHalt n | _ => c)
  | _ => c.store (pgCORE n) off v

/-- IRQ page (R556, R557). -/
def Chip.irqWrite (c : Chip) (off v : Nat) : Chip :=
  if 0x200 ≤ off ∧ off < 0x240 then c.irqClear ((off - 0x200) / 8) v
  else if 0x240 ≤ off ∧ off < 0x280 then c.irqHostEn ((off - 0x240) / 8) v
  else if 0x280 ≤ off ∧ off < 0x2C0 then c.irqCpxEn ((off - 0x280) / 8) v
  else c.store pgIRQ off v

/-- A write that takes effect on the register at an offset of a page, with its full value. -/
def Chip.regPut (c : Chip) (page off v : Nat) : Chip × Act :=
  match blockOf page with
  | none => (c, .none)
  | some (cls, i) =>
    if off = 0x018 then (c.errInj page v, .none)
    else match cls with
    | 0x02 => (c.irqWrite off v, .none)
    | 0x03 => (c.feWrite off v, .none)
    | 0x04 => (c.cmdqWrite page off v, .none)
    | 0x05 => (if off = 0x208 then c.cpxReq (bits v 45 0) else c.store page off v, .none)
    | 0x0A => (if off = 0x008 ∨ off = 0x200 ∨ off = 0x204 then c.cfbWrite off v else if off = 0x218 then c.admCmd v else c.store page off v, .none)
    | 0x0B => (c.cptWrite i off v, .none)
    | 0x0D => (c.hltWrite off v, .none)
    | 0x0E => (c.curWrite off v, .none)
    | 0x0F => (c.tbsWrite off v, .none)
    | 0x10 => if off = 0x200 then (c, .sec (bits v 45 0)) else (c.store page off v, .none)
    | 0x11 => c.pwrWrite off v
    | 0x12 => c.fltWrite off v
    | 0x24 => (c.vitWriteReg i off v, .none)
    | 0x25 => (if 0x200 ≤ off then c.mbxCfgWrite i ((off - 0x200) / 4) v else c.store page off v, .none)
    | 0x26 => (c.bpmWrite i off v, .none)
    | 0x30 => (c.coreWrite i off v, .none)
    | _ => (c.store page off v, .none)

/-- Registers that start an action and accept only a 64-bit write (R14): CPX_REQ, SEC_REQ, TBS_SET, CUR_FRAME. -/
def wideOnly (page off : Nat) : Bool :=
  [(pgCPX, 0x208), (pgSEC, 0x200), (pgTBS, 0x208), (pgCUR, 0x208)].contains (page, off)

/-- The full value that a write of n bytes at bit `lo` gives a register: the other half of a 64-bit register stays, and carries
no 1 to a w1c field (R14). -/
def Chip.fullValue (c : Chip) (page o w lo n v : Nat) : Nat :=
  if w = 64 ∧ n = 4 then
    let old := if page = pgIRQ ∧ o < 0x240 then 0 else c.reg page o
    setBits old (lo + 31) lo v
  else v

/-- A write of n bytes at an offset of a page (R14, R15, R548, R552, R584). -/
def Chip.regWrite (c : Chip) (page off n v : Nat) : Chip × Act :=
  if (blockOf page).isNone then (if c.pageLive pgIRQ then c.badAddr pgIRQ (pageAddr page off) true else c, .none)
  else if ¬ c.pageLive page then (c, .none)
  else
    match regSpan page off n with
    | none => (c.badAddr page (pageAddr page off) true, .none)
    | some (o, w, lo) =>
      if wideOnly page o ∧ n ≠ 8 then (c.badAddr page (pageAddr page off) true, .none)
      else c.regPut page o (c.fullValue page o w lo n (v % 2 ^ (8 * n)))

/-- A write by a named requester (R551): on-die units reach no page, and the Curator not SEC. -/
def Chip.regWriteBy (c : Chip) (who : Poster) (page off n v : Nat) : Chip × Act :=
  match who with
  | .host => if c.hlt.st = .up ∧ c.pwr.st = .active then c.regWrite page off n v else (c, .none)
  | .cpx _ => if c.pwr.st = .active then c.regWrite page off n v else (c, .none)
  | .frontEnd _ _ => (if (blockOf page).isSome ∧ c.pageLive page then c.badAddr page (pageAddr page off) true else c, .none)
  | .curator =>
    if page = pgSEC then (if c.pageLive page then c.badAddr page (pageAddr page off) true else c, .none) else c.regWrite page off n v

/-! ## The other regions of the host window (R287, R288, R582) -/

/-- Waits registered on a counter (R259, R263). -/
def Chip.waiters (c : Chip) (k : Nat) : Nat :=
  ((c.allCmds.filter Cmd.isHead).map (fun m => (m.waits.filter (fun w => decide (w.ctr = k) && !w.met)).length)).sum

/-- A read of a counter word (R259); a fenced cluster's counters refuse it (R532). -/
def Chip.ctrRead (c : Chip) (k off n : Nat) : Nat × Chip :=
  if n ≠ 4 ∨ off % 4 ≠ 0 then (0, c.badAddr (pgCNT (k / 1024)) (0x120000000000 + 16 * k + off) false)
  else if c.clFenced (k / 1024) then (0, c)
  else match off with
  | 0 => c.ctrSample k
  | 8 => ((b2n (c.ctrOf k).wrap) <<< 15 + c.waiters k, c)
  | _ => (0, c)

/-- A write of a counter word (R259). -/
def Chip.ctrWrite (c : Chip) (k off n v : Nat) : Chip :=
  if n ≠ 4 ∨ off % 4 ≠ 0 then c.badAddr (pgCNT (k / 1024)) (0x120000000000 + 16 * k + off) true
  else match off with
  | 0 => c.ctrSet k v
  | 4 => c.ctrAdd k v
  | 8 => if bit v 15 ∧ ¬ c.clFenced (k / 1024) then c.setCtr k { c.ctrOf k with wrap := false } else c
  | _ => c

def mbxBad (c : Chip) (off : Nat) (write : Bool) : Chip := c.badAddr (mbxPage off) (0x140000000000 + off) write

/-- A read in the mailbox region (R340, R342, R344, R351, R352); zero where the storage holds an uncorrectable error (R522). -/
def Chip.mbxRead (c : Chip) (who : Poster) (off n : Nat) : Nat × Chip :=
  match mbxIn off with
  | none => (0, mbxBad c off false)
  | some b =>
    let o := off % 32
    if (n ≠ 4 ∧ n ≠ 8) ∨ off % n ≠ 0 ∨ 0x1C ≤ o ∨ (o = 0x18 ∧ n = 8) then (0, mbxBad c off false)
    else if c.clFenced (mbxCluster b) then (0, c)
    else if o = 0x18 then c.mbxLock (lockNo who) b
    else
      let (c, ue) := c.mbxMeet b
      (if ue then 0 else ofBytes ((((c.mbxOf b).words (decide (b < 2048))).drop o).take n), c)

/-- MBX_CTRL (R342, R344, R345). -/
def Chip.mbxCtrl (c : Chip) (who : Poster) (b v : Nat) : Chip :=
  match bits v 1 0 with
  | 1 => c.mbxTake (lockNo who) b (bits v 31 16)
  | 2 => c.mbxRelease (lockNo who) b
  | 3 => c.mbxBreak b
  | _ => c

/-- A write in the mailbox region (R339, R340, R351). -/
def Chip.mbxWrite (c : Chip) (who : Poster) (off n v : Nat) : Chip :=
  match mbxIn off with
  | some b =>
    if off % 32 = 0 ∧ n = 16 then
      let s := c.posterId who
      (c.mbxPost b (bits v 63 0) (bits v 79 64) s.1 s.2 false).2
    else if off % 32 = 0x1C ∧ n = 4 then c.mbxCtrl who b v
    else mbxBad c off true
  | none =>
    if off = 0x18000 ∧ n = 4 then (c.bufRetain v none 0).2
    else if off = 0x18004 ∧ n = 4 then (c.bufRelease v none 0).2
    else if 0x20000 ≤ off ∧ off < 0x20840 ∧ off % 8 = 0 ∧ (n = 4 ∨ n = 8) then c.cmdqTail ((off - 0x20000) / 8) (BitVec.ofNat 32 v)
    else mbxBad c off true

/-- A host write of a payload at an address; no answer while a MOVING tile holds it (R288, R294, R441). -/
def Chip.hostWrite (c : Chip) (a : Nat) (bs : List (BitVec 8)) : Option (Chip × Act) :=
  let n := bs.length
  let v := ofBytes bs
  if n = 0 then some (c, .none)
  else if roomAt a < n then some (c.badAddr (badPage a) a true, .none)
  else match region a with
  | .tiled _ =>
    match c.mwrite 0 a bs with
    | (.held, _) => none
    | (_, c) => some (c, .none)
  | .sys _ => some (c.badAddr pgHOM a true, .none)
  | .lmem k off => some (c.corePut false k off bs, .none)
  | .imem k off => some (c.corePut true k off bs, .none)
  | .ctr k off => some (c.ctrWrite k off n v, .none)
  | .page p off => some (c.regWriteBy .host p off n v)
  | .mbx off => some (c.mbxWrite .host off n v, .none)
  | .none => some (c.badAddr pgIRQ a true, .none)

/-- A host read: STATUS code, payload and state; no answer while a MOVING tile holds it (R288, R294, R441). -/
def Chip.hostRead (c : Chip) (a n : Nat) : Option (Nat × List (BitVec 8) × Chip) :=
  let zero := List.replicate n (0 : BitVec 8)
  let word := fun (p : Nat × Chip) => some (0, toBytes n p.1, p.2)
  if n = 0 then some (0, [], c)
  else if roomAt a < n then some (0, zero, c.badAddr (badPage a) a false)
  else match region a with
  | .tiled _ | .sys _ =>
    match c.mread 0 a n with
    | (.held, _, _) => none
    | (.poisoned, _, c) => some (4, zero, c)
    | (.ok, bs, c) => some (0, bs, c)
  | .lmem k off => let r := c.coreRange false k off n; some (0, r.1, r.2)
  | .imem k off => let r := c.coreRange true k off n; some (0, r.1, r.2)
  | .ctr k off => word (c.ctrRead k off n)
  | .page p off => word (c.regRead p off n)
  | .mbx off => word (c.mbxRead .host off n)
  | .none => some (0, zero, c.badAddr pgIRQ a false)

/-! ## Halter packets (R439 to R441) -/

/-- Fields of a header. -/
def hpF (p : HostPkt) (hi lo : Nat) : Nat := bits p.hdr.toNat hi lo

/-- HDR_CRC holds (R439). -/
def hpCrcOk (p : HostPkt) : Bool := decide (crc32 (toBytes 12 (p.hdr.toNat / 2 ^ 32)) = hpF p 31 0)

/-- The packet meets the MALFORMED row of R441, for the HTAGs that are outstanding. -/
def hpMalformed (p : HostPkt) (htags : List Nat) : Bool :=
  decide (2 ≤ hpF p 127 124) || decide (2048 < hpF p 123 112) || decide (hpF p 123 112 % 4 ≠ 0) || decide (hpF p 111 66 % 4 ≠ 0) ||
    (decide (hpF p 127 124 = 1) && htags.contains (hpF p 65 56))

/-- Payload of a WRITE: LENGTH bytes. -/
def hpPayload (p : HostPkt) : List (BitVec 8) := (p.data ++ List.replicate 2048 0).take (hpF p 123 112)

/-- The register page or the doorbell that a DOORBELL count stands for: CMDQ_TAIL and DB_TAIL (R460). -/
def isDoorbell (a : Nat) : Bool :=
  match region a with
  | .mbx off => decide (0x20000 ≤ off) && decide (off < 0x20840)
  | .page p off => decide (0x400 ≤ p) && decide (p ≤ 0x408) && decide (0x200 ≤ off) && decide (off % 0x40 = 0x18)
  | _ => false

/-- The host window in RECOVERY: a 512 KiB buffer in the Curator's SRAM, and nothing else (R459). -/
def recIn (a n : Nat) : Bool := decide (a + n ≤ 0x80000)

/-- The READ_DATA of a READ (R439, R440). -/
def Chip.readReply (c : Chip) (p : HostPkt) (st : Nat) (bs : List (BitVec 8)) : Chip :=
  ({ c with hlt.htags := c.hlt.htags.erase (hpF p 65 56) }).hltSend ⟨2, bs.length, hpF p 111 66, hpF p 65 56, st, bs⟩

/-- A packet takes effect; no answer while it is held. -/
def Chip.hltPerform (c : Chip) (p : HostPkt) : Option (Chip × Act) :=
  let a := hpF p 111 66
  let n := hpF p 123 112
  if hpF p 127 124 = 0 then
    let done := fun (r : Chip × Act) => some ((r.1.count pgHLT 4 1).count pgHLT 7 (b2n (isDoorbell a)), r.2)
    if c.hlt.st = .recovery then done (if recIn a n then { c with cur.recBuf := Mem.writeL c.cur.recBuf a (hpPayload p) } else c, .none)
    else (c.hostWrite a (hpPayload p)).bind done
  else if c.hlt.st = .recovery then
    some ((c.count pgHLT 5 1).readReply p 0 (if recIn a n then Mem.readN c.cur.recBuf a n else List.replicate n 0), .none)
  else (c.hostRead a n).map (fun r => ((r.2.2.count pgHLT 5 1).readReply p r.1 r.2.1, .none))

/-- Packets take effect in arrival order until one is held or sets off an action (R440); fuel counts them. -/
def Chip.hltGo (c : Chip) : Nat → Chip × Act
  | 0 => (c, .none)
  | f + 1 =>
    match c.hlt.rx with
    | [] => (c, .none)
    | p :: ps =>
      match ({ c with hlt.rx := ps }).hltPerform p with
      | none => (c, .none)
      | some (c, .none) => c.hltGo f
      | some r => r

/-- Whatever waits in the Halter ingress. -/
def Chip.hltPump (c : Chip) : Chip × Act := c.hltGo (c.hlt.rx.length + 1)

/-- A Halter packet arrives (R440, R441): only while the link runs, and none between a failed frame and its replay (R363, R437). -/
def Chip.hltArrive (c : Chip) (p : HostPkt) : Chip × Act :=
  if c.hlt.st ≠ .up ∧ c.hlt.st ≠ .recovery ∨ c.hlt.frames.rxWait then (c, .none)
  else
    let read := decide (hpF p 127 124 = 1)
    let c := (c.count pgHLT 0 1).count pgHLT 1 (16 + if read then 0 else p.data.length)
    if ¬ hpCrcOk p then
      let (i, c) := c.freeVal 32
      ((c.count pgHLT 13 1).err pgHLT 4 i 0, .none)
    else if hpMalformed p c.hlt.htags then
      let c := (c.count pgHLT 14 1).err pgHLT 5 (hpF p 111 66 % 2 ^ 32) 0
      let n := hpF p 123 112
      let zero : List (BitVec 8) := if n ≤ 2048 ∧ n % 4 = 0 then List.replicate n 0 else []
      (if read then c.hltSend ⟨2, zero.length, hpF p 111 66, hpF p 65 56, 8, zero⟩ else c, .none)
    else
      ({ c with hlt.rx := c.hlt.rx ++ [p], hlt.htags := if read then c.hlt.htags ++ [hpF p 65 56] else c.hlt.htags }).hltPump

end Sys2Proof.Machine
end

