-- ==== Sys2Proof/Machine/Frames.lean ====
section
/-!
DEFINITION. Management frames (R450 to R453), firmware update and recovery (R457 to R459), and the actions that a register write
or a frame sets off (`Act`), with what waits for them.
-/

namespace Sys2Proof.Machine

/-! ## Answers -/

/-- What a frame is answered with: STATUS, data, and what it sets off. -/
structure Answer where
  st : Nat
  data : List (BitVec 8)
  act : Act
  deriving DecidableEq, Repr

/-- STATUS OK with data. -/
def Answer.ok (data : List (BitVec 8)) : Answer := ⟨0, data, .none⟩
/-- BAD_CRC, BAD_CODE, BAD_ARG and REFUSED (R450). -/
def Answer.badCrc : Answer := ⟨2, [], .none⟩
def Answer.badCode : Answer := ⟨3, [], .none⟩
def Answer.badArg : Answer := ⟨4, [], .none⟩
def Answer.refused : Answer := ⟨5, [], .none⟩

/-- Integer argument of n bytes at offset k. -/
def argN (args : List (BitVec 8)) (k n : Nat) : Nat := ofBytes ((args.drop k).take n)

/-! ## Reports (R452, R453, R448) -/

/-- Order number: KSN-IH512-A1 in ASCII. Its 16 bytes have four more, which the spec does not give. -/
def orderNumber : List (BitVec 8) := [0x4B, 0x53, 0x4E, 0x2D, 0x49, 0x48, 0x35, 0x31, 0x32, 0x2D, 0x41, 0x31]

/-- IDENTIFY (R452). -/
def Chip.frIdentify (c : Chip) : Answer × Chip :=
  let (pad, c) := c.freeVal 32
  (.ok (orderNumber ++ toBytes 4 pad ++ toBytes 2 0x4101 ++ toBytes 8 Config.dieSerial.toNat ++ toBytes 4 (c.reg pgCFB 0x200 % 2 ^ 18) ++
    (List.range 5).flatMap (fun i => toBytes 4 (Tab.get 0 c.sec.vers (i + 1)))), c)

/-- Hottest site in 0.125 °C (R453). -/
def Chip.maxTemp (c : Chip) : Int :=
  ((List.range 64).map (fun i => (c.sensorOf i).value)).foldl max ((c.sensorOf 0).value)

/-- The health record (R453). -/
def Chip.healthRec (c : Chip) : Nat :=
  let ports := (((List.range 16).filter c.portUp).map (fun p => 2 ^ p)).sum
  let warns := (c.cur.sensors.filter (fun e => decide (e.2.status = 1) || decide (e.2.status = 3))).length
  c.cur.health <<< 126 + ones 64 c.fz.clFence.toNat <<< 119 + ones 512 c.fz.coreFence.toNat <<< 109 + ports <<< 93 +
    (b2n (decide (c.hlt.st = .up))) <<< 92 + (c.reg pgTBS 0x00C % 2) <<< 91 + (b2n c.isReady) <<< 90 +
    (ofSigned 12 c.maxTemp) <<< 78 + (warns % 2 ^ 30) <<< 48 + c.fz.ledgerSeq % 2 ^ 48

/-- HEALTH (R453). -/
def Chip.frHealth (c : Chip) : Answer × Chip := (.ok (toBytes 16 c.healthRec), c)

/-- SENSOR (R452). -/
def Chip.frSensor (c : Chip) (args : List (BitVec 8)) : Answer × Chip :=
  let i := argN args 0 2
  let n := argN args 2 1
  if args.length ≠ 3 ∨ n < 1 ∨ n > 40 ∨ i + n > 334 then (.badArg, c)
  else (.ok ((List.range n).flatMap (fun j =>
    let s := c.sensorOf (i + j)
    toBytes 4 (ofSigned 32 s.value) ++ toBytes 1 s.status ++ [0])), c)

/-- The 32 bytes of a Ledger record (R448). -/
def LedgerRec.bytes (r : LedgerRec) : List (BitVec 8) :=
  let v := r.time.toNat <<< 160 + (r.seq % 2 ^ 48) <<< 112 + r.page <<< 96 + r.kind <<< 88 + r.severity <<< 80 + r.code <<< 72 +
    r.info0.toNat <<< 32 + r.info1.toNat
  let b := toBytes 28 v
  toBytes 4 (crc32 b) ++ b

/-- LEDGER (R452). -/
def Chip.frLedger (c : Chip) (args : List (BitVec 8)) : Answer × Chip :=
  let n := argN args 8 1
  if args.length ≠ 9 ∨ n < 1 ∨ n > 7 then (.badArg, c)
  else (.ok ((((c.fz.ledger.filter (fun r => decide (argN args 0 8 ≤ r.seq))).take n).map LedgerRec.bytes).flatten), c)

/-! ## Registers and time (R452, R454) -/

/-- The page and offset that REG_READ or REG_WRITE names: register region only, no SEC page, powered pages (R452, R551, R552). -/
def Chip.framePage (c : Chip) (a : Nat) : Option (Nat × Nat) :=
  match region a with
  | .page p off =>
    let aon := decide (p = pgPWR) || decide (p = pgCUR) || decide (p = pgTBS)
    if p = pgSEC ∨ (¬ aon ∧ (c.cur.fw.recovery ∨ c.pwr.st = .aux ∨ c.pwr.st = .off)) then none else some (p, off)
  | _ => none

/-- R14 and R15 allow the access. -/
def frameAccess (p off n : Nat) (write : Bool) : Bool :=
  match regSpan p off n with
  | none => false
  | some (o, _, _) => (blockOf p).isSome && !(write && wideOnly p o && decide (n ≠ 8))

/-- REG_READ (R452). -/
def Chip.frRegRead (c : Chip) (args : List (BitVec 8)) : Answer × Chip :=
  let n := argN args 8 1
  if args.length ≠ 9 ∨ (n ≠ 4 ∧ n ≠ 8) then (.badArg, c)
  else match c.framePage (argN args 0 8) with
    | none => (.refused, c)
    | some (p, off) =>
      let (v, c) := c.regRead p off n
      (if frameAccess p off n false then .ok (toBytes n v) else .badArg, c)

/-- REG_WRITE (R452). -/
def Chip.frRegWrite (c : Chip) (args : List (BitVec 8)) : Answer × Chip :=
  let n := argN args 8 1
  if (n ≠ 4 ∧ n ≠ 8) ∨ args.length ≠ 9 + n then (.badArg, c)
  else match c.framePage (argN args 0 8) with
    | none => (.refused, c)
    | some (p, off) =>
      let (c, a) := c.regWrite p off n (argN args 9 n)
      (if frameAccess p off n true then ⟨0, [], a⟩ else .badArg, c)

/-- SNAPSHOT: T = INV_AT takes the tick of the frame; an arm that R454 refuses is answered REFUSED (log 95). -/
def Chip.frSnapshot (c : Chip) (args : List (BitVec 8)) : Answer × Chip :=
  if args.length ≠ 8 then (.badArg, c)
  else
    let t := BitVec.ofNat 64 (argN args 0 8)
    (if c.armLate t then .refused else .ok [], (c.setReg pgTBS 0x220 t.toNat).invArm)

/-- TIME (R452): a write that R444 refuses is answered REFUSED (log 95). -/
def Chip.frTime (c : Chip) (args : List (BitVec 8)) : Answer × Chip :=
  if args.length = 0 then (.ok (toBytes 8 c.time.tb.toNat), c)
  else if args.length = 8 then
    let free := c.tbsFree
    let c := c.tbsSet (BitVec.ofNat 64 (argN args 0 8))
    (if free then .ok (toBytes 8 c.time.tb.toNat) else .refused, c)
  else (.badArg, c)

/-- RESET (R452): sent before the reset. -/
def frReset (args : List (BitVec 8)) : Answer :=
  if args.length ≠ 3 ∨ argN args 1 2 ≠ 0x5A3C then .badArg
  else match argN args 0 1 with
    | 1 => ⟨0, [], .reset .module 2⟩
    | 2 => ⟨0, [], .reset .dieWarm 2⟩
    | _ => .badArg

/-! ## Firmware update (R458) -/

/-- The record of a firmware result (R449). -/
def Chip.fwRecord (c : Chip) (k : Nat) : Chip := c.ledgerEv pgCUR 4 (some k) none none

/-- An update or its check has failed (R458). -/
def Chip.fwFails (c : Chip) (k : Nat) : Chip :=
  ((({ c with cur.fw := { c.cur.fw with st := 5 } }).count pgCUR 10 1).err pgCUR 5 0x0A 0).fwRecord k

/-- A range lies in PINNED tiles of the tiled range (R458). -/
def Chip.stagingOk (c : Chip) (a n : Nat) : Bool :=
  decide (a + n ≤ 0xBFF0000000) && (tilesOf a n).all (fun t => decide ((c.tileOf t).st = .pinned))

/-- The die's memory can be reached. -/
def Chip.memOn (c : Chip) : Bool := decide (c.pwr.st = .active) || decide (c.pwr.st = .standby)

/-- FW_STATUS (R452). -/
def Chip.frFwStatus (c : Chip) : Answer := .ok (toBytes 1 c.cur.fw.st ++ toBytes 4 c.cur.fw.progress)

/-- FW_STAGE (R458); no data are written nowhere (R17): the staging address is the one of the latest FW_START; before any, the spec gives none and it is free. -/
def Chip.frFwStage (c : Chip) (args : List (BitVec 8)) : Answer × Chip :=
  let off := argN args 0 4
  let data := args.drop 4
  if args.length < 4 ∨ data.length > 240 then (.badArg, c)
  else if c.cur.fw.recovery then
    if data = [] ∨ off + data.length ≤ 0x80000 then (.ok [], { c with cur.recBuf := Mem.writeL c.cur.recBuf off data }) else (.badArg, c)
  else if ¬ c.memOn then (.refused, c)
  else if data = [] then (.ok [], c)
  else
    let (base, c) := if c.cur.fw.len = 0 then c.freeVal 46 else (c.cur.fw.addr, c)
    if ¬ c.stagingOk (base + off) data.length then (.badArg, c)
    else (.ok [], (c.mwrite 0 (base + off) data).2)

/-- FW_START of a normal update, steps 2 to 4: the image is checked and the region erased (R458). -/
def Chip.fwBegin (c : Chip) (k a n : Nat) : Answer × Chip :=
  if c.cur.fw.st = 1 ∨ c.cur.fw.st = 2 ∨ c.cur.fw.st = 3 ∨ ¬ c.memOn then (.refused, c)
  else if k < 1 ∨ k > 5 ∨ ¬ c.stagingOk a n then (.badArg, c)
  else
    let (got, img, c) := c.mread 0 a n
    let h := (img ++ List.replicate 4096 0).take 4096
    let r := if got = .ok ∧ n = 4096 + imgLength h then imgCheck k (c.floorOf k) h (img.drop 4096) else .bad
    let c := { c with cur.fw := { c.cur.fw with comp := k, addr := a, len := n, progress := 0, header := h } }
    let c := c.imgReport k r
    if r = .ok then (.ok [], ({ c with cur.fw := { c.cur.fw with st := 2 } }).flashErase (compRegion k).1 (compRegion k).2)
    else (.ok [], c.fwFails k)

/-- FW_UPDATE_DONE: body, header bytes 4 to 4,095 and MAGIC are programmed, and the region is read back (R458). -/
def Chip.fwDone (c : Chip) : Chip :=
  let k := c.cur.fw.comp
  if c.cur.fw.st ≠ 2 ∨ ¬ c.cur.up ∨ ¬ c.memOn then c
  else
    let h := c.cur.fw.header
    let base := (compRegion k).1
    let n := imgLength h
    let (got, body, c) := c.mread 0 (c.cur.fw.addr + 4096) n
    let c := ((c.flashPut (base + 4096) body).flashPut (base + 4) (h.drop 4)).flashPut base (h.take 4)
    let good := decide (got = .ok) && decide (Config.shake512 (c.flashN (base + 4096) n) = imgDigest h)
    let c := if good then
        let c := { c with cur.fw := { c.cur.fw with st := 4, progress := (4096 + n) / 1024 },
                          sec.pending := c.sec.pending ||| BitVec.ofNat 5 (2 ^ (k - 1)) }
        (c.count pgCUR 9 1).fwRecord k
      else c.fwFails k
    c.attn 5

/-! ## Recovery (R459) -/

/-- Every component passes again: the ROM continues the boot and the Halter link leaves RECOVERY. -/
def Chip.recEnds (c : Chip) : Chip :=
  match c.pwr.boot with
  | none => c
  | some (l, _) =>
    match c.verifyComps (bootComps l) with
    | (some k, c) => { c with cur.fw := { c.cur.fw with comp := k, nextOff := 0 } }
    | (none, c) =>
      let c := c.bootGoes l
      if c.hlt.st = .recovery then c.hltTrain else c

/-- The piece that completes LENGTH: digest and signature, then header bytes 4 to 4,095 and MAGIC. -/
def Chip.recLast (c : Chip) (k : Nat) : Chip :=
  let h := c.cur.fw.header
  let base := (compRegion k).1
  let r := imgCheck k (c.floorOf k) h (c.flashN (base + 4096) (imgLength h))
  let c := (c.imgReport k r).fwRecord k
  if r = .ok then
    (({ c with cur.fw := { c.cur.fw with st := 4, nextOff := 0 } }).flashPut (base + 4) (h.drop 4)).flashPut base (h.take 4) |>.recEnds
  else { c with cur.fw := { c.cur.fw with st := 5, nextOff := 0 } }

/-- FW_START in recovery: the next piece of the image, from the buffer (R459). -/
def Chip.recPiece (c : Chip) (k off n : Nat) : Answer × Chip :=
  let first := decide (off = 0)
  let base := (compRegion k).1
  let bs := Mem.readN c.cur.recBuf 0 n
  let h := if first then bs.take 4096 else c.cur.fw.header
  if k ≠ c.cur.fw.comp ∨ n > 0x80000 ∨ n = 0 ∨ (first ∧ n < 4096) ∨ (¬ first ∧ (off ≠ c.cur.fw.nextOff ∨ c.cur.fw.nextOff = 0)) ∨
      off + n > 4096 + imgLength h ∨ off + n > (compRegion k).2 then (.badArg, c)
  else
    let c := if first then ({ c with cur.fw := { c.cur.fw with header := h } }).flashErase base (compRegion k).2 else c
    let c := if first then c.flashPut (base + 4096) (bs.drop 4096) else c.flashPut (base + off) bs
    let c := { c with cur.fw := { c.cur.fw with st := 3, nextOff := off + n, progress := (off + n) / 1024 } }
    (.ok [], if off + n = 4096 + imgLength h then c.recLast k else c)

/-- FW_START (R458, R459). -/
def Chip.frFwStart (c : Chip) (args : List (BitVec 8)) : Answer × Chip :=
  if args.length ≠ 17 then (.badArg, c)
  else if c.cur.fw.recovery then c.recPiece (argN args 0 1) (argN args 1 8) (argN args 9 8)
  else c.fwBegin (argN args 0 1) (argN args 1 8) (argN args 9 8)

/-! ## Serving a frame (R450) -/

/-- A frame without arguments. -/
def noArgs (args : List (BitVec 8)) (r : Answer × Chip) (c : Chip) : Answer × Chip := if args = [] then r else (.badArg, c)

/-- Codes that the boot ROM answers in recovery (R459), and where it goes no further: IDENTIFY and HEALTH only (R464). -/
def romCode (stopped : Bool) (code : Nat) : Bool := (if stopped then [0x01, 0x02] else [0x01, 0x02, 0x09, 0x0A, 0x0B, 0x0C]).contains code

/-- What a request of good CRC is answered with (R452, R459, R464). -/
def Chip.frameDo (c : Chip) (code : Nat) (args : List (BitVec 8)) : Answer × Chip :=
  if (c.cur.fw.recovery ∨ c.sec.romStop) ∧ ¬ romCode c.sec.romStop code then (.badCode, c)
  else match code with
    | 0x01 => noArgs args c.frIdentify c
    | 0x02 => noArgs args c.frHealth c
    | 0x03 => c.frSensor args
    | 0x04 => c.frLedger args
    | 0x05 => c.frRegRead args
    | 0x06 => c.frRegWrite args
    | 0x07 => c.frSnapshot args
    | 0x08 => c.frTime args
    | 0x09 => c.frFwStage args
    | 0x0A => c.frFwStart args
    | 0x0B => noArgs args (c.frFwStatus, c) c
    | 0x0C => (frReset args, c)
    | _ => (.badCode, c)

/-- The request passes through the Curator's SRAM: an uncorrectable error there restarts the firmware, which the Ledger records,
and the request is lost (R461). -/
def Chip.curSram (c : Chip) (code : Nat) : Bool × Chip :=
  let (c, ue) := (c.injW pgCUR 0).injR pgCUR 0 code 0
  if ue then (true, { (c.ledgerEv pgCUR 8 none none none) with cur.frameQ := [], cur.i3cResp := none }) else (false, c)

/-- The answer to a request, with FRAME_ERRORS and FRAME (R450, R461). -/
def Chip.answer (c : Chip) (code : Nat) (args : List (BitVec 8)) (crcOk : Bool) : Answer × Chip :=
  let (a, c) : Answer × Chip := if crcOk then c.frameDo code args else (.badCrc, c)
  if 2 ≤ a.st ∧ a.st ≤ 4 then (a, (c.count pgCUR 3 1).err pgCUR 2 code 0) else (a, c)

/-- Frames are answered: by the Curator's firmware, or by the ROM in recovery or where it goes no further. -/
def Chip.framesOn (c : Chip) : Bool := c.cur.up || c.cur.fw.recovery || c.sec.romStop

/-- A frame's CODE and arguments, and whether its CRC holds (R450). -/
def frameParse (bs : List (BitVec 8)) : Nat × List (BitVec 8) × Bool :=
  let n := argN bs 1 1
  (argN bs 0 1, (bs.drop 2).take n, decide (n + 6 ≤ bs.length) && decide (crc32 (bs.take (2 + n)) = argN bs (2 + n) 4))

/-- A frame is served: counted on its path, and answered where the Curator's SRAM holds it. `reply` takes the response on its way. -/
def Chip.frameServe (c : Chip) (path code : Nat) (args : List (BitVec 8)) (crcOk : Bool) (reply : Chip → List (BitVec 8) → Chip) : Chip × Act :=
  let (lost, c) := (c.count pgCUR path 1).curSram code
  if lost then (c, .none)
  else
    let (a, c) := c.answer code args crcOk
    (reply c (respFrame a.st a.data), a.act)

/-- An I3C request (R450). -/
def Chip.i3cAnswer (c : Chip) (code : Nat) (args : List (BitVec 8)) (crcOk : Bool) : Chip × Act :=
  c.frameServe 0 code args crcOk (fun c r => { c with cur.i3cResp := some r })

/-- A host request at an address: the response stands 256 B above it (R450). -/
def Chip.hostAnswer (c : Chip) (a code : Nat) (args : List (BitVec 8)) (crcOk : Bool) : Chip × Act :=
  c.frameServe 1 code args crcOk (fun c r => (c.mwrite 0 (a + 256) r).2)

/-- A MGMT request: the response is a MGMT packet to SRC_NODE with the request's DST_ADDR (R450). -/
def Chip.mgmtAnswer (c : Chip) (h : Nat) (data : List (BitVec 8)) : Chip × Act :=
  let p := frameParse data
  c.frameServe 2 p.1 p.2.1 p.2.2 (fun c r =>
    let bs := r ++ List.replicate ((4 - r.length % 4) % 4) 0
    c.txn .mgmt (mkHdr 8 (bits h 127 110) (bits h 173 128) (bits h 109 94) bs.length 0 none false) bs false none)

/-- A host frame is read from memory and served (R450). None: a tile of it moves, and the frame waits (R294). -/
def Chip.hostFrame (c : Chip) (a : Nat) : Option (Chip × Act) :=
  if ¬ c.memOn ∨ ¬ c.cur.up then some (c, .none)
  else match region a with
  | .tiled _ =>
    if c.accRes a 512 = .held then none
    else
      let (r, bs, c) := c.mread 0 a 256
      if r ≠ .ok then some (c, .none)
      else
        let p := frameParse (bs ++ c.bytesAt (a + 256) 8)
        some (c.hostAnswer a p.1 p.2.1 p.2.2)
  | _ => some (c.badAddr pgCUR a false, .none)

/-- A waiting frame is served; none while it has to wait. -/
def Chip.frameNext (c : Chip) (w : FrameWait) : Option (Chip × Act) :=
  match w with
  | .host a => c.hostFrame a
  | .i3c code args crcOk => some (c.i3cAnswer code args crcOk)
  | .mgmt hdr data => some (c.mgmtAnswer hdr.toNat data)

/-- Frames are served one at a time in order of arrival, across the paths, until one waits or sets off an action (R450); fuel counts
them. -/
def Chip.framesGo (c : Chip) : Nat → Chip × Act
  | 0 => (c, .none)
  | f + 1 =>
    if ¬ c.framesOn then (c, .none)
    else match c.cur.frameQ with
      | [] => (c, .none)
      | w :: ws =>
        match ({ c with cur.frameQ := ws }).frameNext w with
        | none => (c, .none)
        | some (d, .none) => d.framesGo f
        | some r => r

/-- A frame joins those that wait. -/
def Chip.frameArrive (c : Chip) (w : FrameWait) : Chip × Act :=
  ({ c with cur.frameQ := c.cur.frameQ ++ [w] }).framesGo (c.cur.frameQ.length + 1)

/-! ## Frames over the fabric (R366, R383, R450) -/

/-- A MGMT packet that R450 does not accept. -/
def Chip.mgmtRefuse (c : Chip) (h : Nat) (data : List (BitVec 8)) : Chip :=
  let c := (c.ackPkt h .aborted).count pgCUR 4 1
  ((c.err pgCUR 3 (argN data 0 1) (bits h 127 110)).ledgerEv pgCUR 6 none none none).attn 7

/-- The management store is full: what waits in it is more than it holds (R383). -/
def Chip.mgmtFull (c : Chip) : Bool :=
  let n := (c.cur.frameQ.filter (fun w => match w with | .mgmt _ _ => true | _ => false)).length
  decide (n ≠ 0) && decide (Config.mgmtStore < n)

/-- A MGMT packet that has passed the ingress rules comes to the management store (R383, R450). -/
def Chip.mgmtArrive (c : Chip) (hdr : BitVec 256) (data : List (BitVec 8)) : Chip × Act :=
  let h := hdr.toNat
  if ¬ c.cur.up then (c, .none)
  else if c.mgmtFull then ((c.count pgCFB 22 1).err pgCFB 12 (cfbInfo0 h) (cfbInfo1 h), .none)
  else if c.fld pgCUR 0x008 1 1 = 0 ∨ c.fld pgCUR 0x210 17 0 ≠ bits h 127 110 then (c.mgmtRefuse h data, .none)
  else (c.ackPkt h .ok).frameArrive (.mgmt hdr data)

/-- A packet arrives on a port; a MGMT packet goes on to the Curator. -/
def Chip.ingressAll (c : Chip) (port : Nat) (vc2 : Bool) (hdr : BitVec 256) (data : List (BitVec 8)) : Chip × Act :=
  match c.ingress port vc2 hdr data with
  | (c, some plain) => c.mgmtArrive hdr plain
  | (c, none) => (c, .none)

/-- FORWARD (R384): a packet of any class on link channel VC2. -/
def Chip.forwardRow (c : Chip) (port : Nat) (hdr : BitVec 256) (data : List (BitVec 8)) : Chip × Act := c.ingressAll port true hdr data

/-! ## The rows of the frames (R450, R452) -/

/-- The bytes of a frame as a MGMT packet of n bytes carries it: zeros follow it. -/
def framePayload (code n : Nat) (args : List (BitVec 8)) (crc : BitVec 32) : List (BitVec 8) :=
  (BitVec.ofNat 8 code :: BitVec.ofNat 8 args.length :: args ++ toBytes 4 crc.toNat ++ List.replicate n 0).take n

/-- A frame row: CODE is the row's, and CRC-32 covers CODE, LEN and the arguments (R450). A host frame that cannot be served at once is
read again from its address when it is (log 92). -/
def Chip.frameRow (c : Chip) (path : FramePath) (code : Nat) (args : List (BitVec 8)) (crc : BitVec 32) : Chip × Act :=
  let crcOk := decide (crc32 (BitVec.ofNat 8 code :: BitVec.ofNat 8 args.length :: args) = crc.toNat)
  if ¬ c.framesOn then (c, .none)
  else match path with
    | .i3c => ({ c with cur.i3cResp := none }).frameArrive (.i3c code args crcOk)
    | .host addr =>
      if ¬ c.memOn ∨ ¬ c.cur.up then (c, .none)
      else if c.cur.frameQ = [] ∧ c.accRes addr.toNat 512 ≠ .held then c.hostAnswer addr.toNat code args crcOk
      else c.frameArrive (.host addr.toNat)
    | .mgmt p hdr =>
      if c.pwr.st ≠ .active ∨ hf hdr 45 42 ≠ 8 then (c, .none)
      else c.ingressAll p false hdr (framePayload code (hf hdr 78 67) args crc)

end Sys2Proof.Machine
end

