-- ==== Sys2Proof/Machine/Lift.lean ====
section
/-!
DEFINITION. How a command's effect on the part becomes an outcome: which groups of state a command of a kind can reach at all (the
others are kept by construction), what goes on afterwards, and the time of the events that a time brings.
-/

namespace Sys2Proof.Machine

/-- An outcome of a command. -/
abbrev Ran := Host.Outcome State Fault Refusal

/-! ## What a command cannot reach -/

/-- Floors are fuses: they rise, to 64 at most (R466, R467). -/
def floorsUp (old new : List Nat) : List Nat :=
  (List.range 5).map (fun i => max (min 64 (old.getD i 0)) (min 64 (new.getD i 0)))

/-- What no command but the fence rows changes: fences, fence fuses; flash, Ledger, floors and signature state are kept too. -/
def keepFz (c d : Chip) : Chip := { d with fz := c.fz }

/-- Fences and fuses are kept; the Ledger, the flash, the floors and the signature state change. -/
def keepFences (c d : Chip) : Chip :=
  { d with fz := { d.fz with coreFence := c.fz.coreFence, clFence := c.fz.clFence, coreFuseA := c.fz.coreFuseA,
                             coreFuseB := c.fz.coreFuseB, clFuseA := c.fz.clFuseA, clFuseB := c.fz.clFuseB,
                             floors := floorsUp c.fz.floors d.fz.floors } }

/-- Fences are added, and nothing else of what no reset clears changes. -/
def addFences (c : Chip) (cores : BitVec 512) (cls : BitVec 64) (d : Chip) : Chip :=
  { d with fz := { c.fz with coreFence := c.fz.coreFence ||| cores, clFence := c.fz.clFence ||| cls } }

/-- A command of the die's units: fences, fuses, flash and clocks are kept. -/
def keepDie (c d : Chip) : Chip := { d with fz := c.fz, time := c.time }

/-- An engine operation of a core: only the cores, registers, error reports and interrupts can change. -/
def keepEngine (c d : Chip) : Chip :=
  { d with fz := c.fz, time := c.time, pwr := c.pwr, sec := c.sec, hom := c.hom, bm := c.bm, rd := c.rd, fab := c.fab, col := c.col }

/-! ## Actions of register writes and frames -/

/-- Fence rows: the unit's own bits, and a cluster's eight cores. -/
def Chip.fenceCoreFz (c : Chip) (n page b : Nat) : Chip := addFences c (BitVec.ofNat 512 (2 ^ n)) 0 (c.fenceCore n page b)
def Chip.fenceClusterFz (c : Chip) (cl page b : Nat) : Chip :=
  addFences c (BitVec.ofNat 512 (255 * 2 ^ (8 * cl))) (BitVec.ofNat 64 (2 ^ cl)) (c.fenceCluster cl page b)

/-- The consequence of an uncorrectable error that a unit has found (R522): a core fence, a cluster fence, or a die-level error. -/
def Chip.dueAct (c : Chip) (d : Due) : Chip :=
  match d.kind with
  | 0 => c.fenceCoreFz d.target d.page d.bit
  | 1 => c.fenceClusterFz d.target d.page d.bit
  | _ => keepFz c (c.dieError d.page 6)

/-- Consequences follow, a cluster's fence before that of a core of it (R532); fuel bounds the errors that a fence finds in turn. -/
def Chip.dueGo (c : Chip) : Nat → Chip
  | 0 => c
  | f + 1 =>
    match (c.flt.due.find? (fun d => decide (d.kind = 1))).or c.flt.due.head? with
    | none => c
    | some d => (({ c with flt.due := c.flt.due.erase d }).dueAct d).dueGo f

/-- What a command made of c, with the consequences of the uncorrectable errors that it found: they take effect at the detection
(R528, R532, R536). -/
def Chip.faultsGo (c d : Chip) : Chip := if d.flt.due = c.flt.due then d else (d.dueGo 1024).healthGo

/-- A reset that software or a frame asks for; the ROM in recovery answers RESET too, while its boot is not over (R459). -/
def Chip.resetAsked (c : Chip) (l : Level) (cause : Nat) : Chip :=
  let d : Chip := if c.cur.fw.recovery then { c with pwr.boot := none } else c
  (keepFences c (d.resetTo l cause)).healthGo

/-- An action is taken (R471, R512, R513, R534). -/
def Chip.act (c : Chip) (a : Act) : Chip :=
  match a with
  | .none => c
  | .reset l cause => c.resetAsked l cause
  | .coreReset n => keepFz c (c.coreReset n)
  | .clusterReset cl => keepFz c (c.clusterReset cl)
  | .power 1 => keepFences c c.toActive
  | .power 2 => keepFz c c.toStandby
  | .power _ => keepFz c c.toAux
  | .fenceCore n => if n < 512 then (c.fenceCoreFz n 0 0xFF).healthGo else c
  | .fenceCluster cl => if cl < 64 then (c.fenceClusterFz cl 0 0xFF).healthGo else c
  | .sec a => keepFences c (c.secReq a)

/-- An action is taken, then whatever waits: host frames, then packets of the Halter ingress; fuel counts them. -/
def Chip.acts (c : Chip) (a : Act) : Nat → Chip
  | 0 => c.act a
  | f + 1 =>
    let c := c.act a
    let r := c.framesGo (c.cur.frameQ.length + 1)
    let c := keepFences c r.1
    match r.2 with
    | .none =>
      let r := c.hltPump
      let c := keepFz c r.1
      match r.2 with
      | .none => c
      | b => c.acts b f
    | b => c.acts b f

/-- An action and what waits behind it. -/
def Chip.actsGo (c : Chip) (a : Act) : Chip := c.acts a (c.hlt.rx.length + c.cur.frameQ.length + 1)

/-! ## Lifts -/

/-- The die works: neither off nor in AUX, STANDBY, a boot or a reset (R511). -/
def State.dieOn (s : State) : Bool := decide (s.chip.pwr.st = .active)

/-- An engine operation. -/
def State.eng (s : State) (f : Chip → Chip) : Ran :=
  .next { s with chip := if s.dieOn then s.chip.faultsGo (keepEngine s.chip (f s.chip)) else s.chip }

/-- A command or event of the die's units. -/
def State.die (s : State) (f : Chip → Chip) : Ran :=
  .next { s with chip := if s.dieOn then s.chip.faultsGo (keepDie s.chip (f s.chip).ctxRefresh) else s.chip }

/-- A timed event of the die's units. -/
def State.timed (s : State) (due : Chip → Nat) (f : Chip → Chip) : Ran :=
  .next { s with chip := if s.dieOn then s.chip.faultsGo (keepFz s.chip (f (s.chip.passTo (due s.chip))).ctxRefresh) else s.chip }

/-- A write of a register of a page, which answers while the page does (R552). -/
def State.page (s : State) (page : Nat) (f : Chip → Chip) : Ran :=
  .next { s with chip := if s.chip.pageLive page then s.chip.faultsGo (keepFz s.chip (f s.chip).ctxRefresh) else s.chip }

/-- An event of the always-on domain. -/
def State.aon (s : State) (f : Chip → Chip) : Ran :=
  .next { s with chip := if s.chip.pwr.aux12 then s.chip.faultsGo (keepFz s.chip (f s.chip)) else s.chip }

/-- A change of power, clocks or reset: fences and fuses are kept. -/
def State.power (s : State) (f : Chip → Chip) : Ran :=
  .next { s with chip := s.chip.faultsGo (keepFences s.chip (f s.chip)).healthGo }

/-- A command that changes the flash, the Ledger, the floors or the signature state, while a condition holds. -/
def State.store (s : State) (on : Bool) (f : Chip → Chip) : Ran :=
  .next { s with chip := if on then s.chip.faultsGo (keepFences s.chip (f s.chip)).ctxRefresh else s.chip }

/-- A command that the Curator, a frame or the host link serves, with what it sets off. -/
def State.served (s : State) (f : Chip → Chip × Act) : Ran :=
  let r := f s.chip
  .next { s with chip := s.chip.faultsGo ((keepFences s.chip r.1).actsGo r.2).ctxRefresh }

/-- Links that are DOWN train again (R364, R438). -/
def Chip.linksTrain (c : Chip) : Chip :=
  let c := if c.pwr.st = .active then c.portsTrain else c
  if c.pwr.rails then c.hltTrains else c

/-- The block with no command waiting: a nanosecond passes, links that are DOWN train again, and frames and Halter packets that wait
are looked at (log 9). -/
def State.idle (s : State) : State :=
  { s with chip := s.chip.faultsGo ((keepFz s.chip.tick s.chip.tick.linksTrain).actsGo .none).ctxRefresh }

/-! ## What a completed move or freed tag sets going -/

/-- A tile has stopped moving: launches, TILE_MOVE commands, aborts, held packets, COPYs, ROUTEs and collectives go on (R294, R298). -/
def Chip.tilesMoved (c : Chip) : Chip := (((c.launchesGo.tilesGo).abortsGo).heldGo).unitsGo

/-! ## When a timed event is due -/

/-- A timer of code t (µs as a power of two); code 31 never runs out (R264). -/
def timerNs (t : Nat) : Nat := 2 ^ t * 1000

/-- WAIT_EXPIRED: entry j of the head of queue q. -/
def Chip.waitDue (c : Chip) (q j : Nat) : Nat :=
  match (c.queueOf q).headCmd with
  | some k => match k.waits[j]?, k.headAt with
    | some w, some t => if w.reached ∨ w.expired ∨ w.code = 31 then 0 else t + timerNs w.code
    | _, _ => 0
  | none => 0

/-- ACCT_WINDOW. -/
def Chip.acctDue (c : Chip) : Nat := c.fe.winStart + timerNs (c.fld pgFE 0x200 4 0)
/-- SWAP_DONE. -/
def Chip.swapDue (c : Chip) : Nat := (c.fe.swap.map (fun w => w.until_)).getD 0
/-- CPX_REQUEST_DONE. -/
def Chip.cpxDue (c : Chip) : Nat := (c.fe.cpx.map (fun r => r.until_)).getD 0
/-- SEC_REQUEST_DONE. -/
def Chip.secDue (c : Chip) : Nat := (c.sec.req.map (fun r => r.until_)).getD 0
/-- TXN_TIMEOUT. -/
def Chip.txnDue (c : Chip) (t : Nat) : Nat :=
  let code := c.fld pgCFB 0x208 4 0
  match c.tagOf t with
  | some x => if code = 31 then 0 else x.since + timerNs code + 1
  | none => 0
/-- LQ_TIMEOUT. -/
def Chip.lqDue (c : Chip) (cl : Nat) : Nat :=
  match c.routeOn cl with
  | some r => match r.part cl with
    | some x => if r.f 253 249 = 31 ∨ x.stage ≠ 1 then 0 else c.laneLast r x + timerNs (r.f 253 249)
    | none => 0
  | none => 0
/-- RET_TIMEOUT. -/
def Chip.retDue (c : Chip) (w : Nat) : Nat :=
  match c.combOp (c.winOf w) with
  | some k => if k.f 390 386 = 31 then 0 else (c.winOf w).lastAt + timerNs (k.f 390 386)
  | none => 0
/-- COLL_TIMEOUT. -/
def Chip.collDue (c : Chip) (s : Nat) : Nat :=
  let x := c.cslot s
  if x.st = 0 ∨ x.f 169 165 = 31 then 0 else x.lastAt + timerNs (x.f 169 165)
/-- WAKE_READY. -/
def Chip.wakeDue (c : Chip) (cl : Nat) : Nat := ((c.pwr.waking.find? (fun w => decide (w.1 = cl))).map (fun w => w.2.1)).getD 0
/-- RESET_DONE. -/
def Chip.resetDue (c : Chip) (cl : Bool) (u : Nat) : Nat :=
  ((c.pwr.unitResets.find? (fun r => decide (r.cluster = cl) && decide (r.target = u))).map (fun r => r.until_)).getD 0
/-- PHASE_SHED. -/
def Chip.shedDue (c : Chip) : Nat := (c.pwr.shedSince.map (fun t => t + 100000)).getD 0
/-- ACLK_IDLE. -/
def Chip.idleDue (c : Chip) : Nat := (c.pwr.allGatedSince.map (fun t => t + 100000)).getD 0
/-- WDT. -/
def Chip.wdtDue (c : Chip) (k : Nat) : Nat :=
  if bit (c.fld pgFLT 0x254 3 0) k then Tab.get 0 c.flt.kicks k + 2 ^ c.fld pgFLT 0x254 7 4 * 1000000 else 0
/-- DIE_HOLD_EXPIRY. -/
def Chip.holdDue (c : Chip) : Nat := (c.flt.dieAt.map (fun p => p.1)).getD 0
/-- HOLDOVER. -/
def Chip.holdoverDue (c : Chip) : Nat :=
  if c.fld pgTBS 0x008 0 0 = 1 ∧ ¬ bit (c.reg pgTBS 0x00C) 1 then c.time.lastPulse + 2 * c.reg pgTBS 0x210 else 0
/-- INVENTORY_SNAPSHOT. -/
def Chip.snapDue (c : Chip) : Nat := match c.time.snapAt with | some t => c.time.ns + (t.toNat - c.time.tb.toNat) | none => 0
/-- TBP_OUT: the next multiple of TBS_PERIOD. -/
def Chip.pulseDue (c : Chip) : Nat :=
  if c.fld pgTBS 0x008 1 1 = 1 then c.time.ns + (ceilDiv c.time.tb.toNat (c.reg pgTBS 0x210) * c.reg pgTBS 0x210 - c.time.tb.toNat) else 0
/-- LP_DEEP_SLEEP. -/
def Chip.sleepDue (c : Chip) (s : Nat) : Nat := if c.pwr.st = .standby ∧ (c.shuOf s).lp = 2 then c.pwr.standbyAt + 1000000000 else 0
/-- WAKE: the PLLs' lock, and the oldest of eight starts to lie 1 µs back (R509, R510). -/
def Chip.wakeStart (c : Chip) : Nat :=
  let recent := c.pwr.wakeStarts.filter (fun t => decide (c.time.ns < t + 1000))
  max c.pwr.aclkLock (if recent.length ≥ 8 then recent.foldl min c.time.ns + 1000 else 0)

end Sys2Proof.Machine
end

