-- ==== Sys2Proof/Machine/ExecCore.lean ====
section
/-!
DEFINITION. Meanings of the commands: Kernels and the engines of a core (04_matrix_arrays.md, 05_sparsity.md, 06_kernel_bundles.md).
-/

namespace Sys2Proof.Machine

/-- A VE operation of core n in its current bundle and issue (R213, R214): op stands in the slot's OP field. -/
def Chip.veRow (c : Chip) (n op slot : Nat) : Chip :=
  c.slotOp n (fun d =>
    let k := d.coreOf n
    d.veIssue n k.b (setBits slot 63 58 op) k.i (decide (k.i + 1 = bits (d.bundleHdr n k.b) 25 14)))

/-- An LDE (engine 3) or STE (engine 4) operation of core n: mode stands in the slot's MODE field (R216, R217). -/
def Chip.xferRow (c : Chip) (n engine mode slot : Nat) : Chip :=
  c.slotOp n (fun d => d.xferIssue n engine (d.coreOf n).b (setBits slot 63 61 mode))

/-- An SCU operation of core n: op stands in the slot's OP field (R209, R210). -/
def Chip.scuRow (c : Chip) (n op slot : Nat) : Chip :=
  c.slotOp n (fun d => d.scuIssue n (d.coreOf n).b (setBits slot 63 60 op))


/-- KERNEL (R256). -/
def execKernel (q : Fin 264) (i : BitVec 32) (s : State) : Ran :=
  s.die (fun c => c.kernel q i)

/-- KERNEL_LOAD (R197). -/
def execKernelLoad (q : Fin 264) (i : BitVec 32) (s : State) : Ran :=
  s.die (fun c => c.kernelLoad q i)

/-- KERNEL_PRELOAD (R197). -/
def execKernelPreload (n : Fin 512) (s : State) : Ran :=
  s.die (fun c => c.kernelPreload n)

/-- When the sequencer of core n can run: at once, or when the load of its kernel has ended (R198). -/
def Chip.seqDue (c : Chip) (n : Nat) : Nat := if (c.coreOf n).st = 1 then c.loadDue n else 0

/-- KERNEL_END (R222). -/
def execKernelEnd (n : Fin 512) (s : State) : Ran :=
  s.timed (fun c => c.seqDue n) (fun c => (c.coreStart n).kernelEnd n)

/-- BUNDLE (R202). -/
def execBundle (n : Fin 512) (s : State) : Ran :=
  s.timed (fun c => c.seqDue n) (fun c => (c.coreStart n).bundle n)

/-- STEP (R124). -/
def execStepOp (n : Fin 512) (slot : BitVec 64) (s : State) : Ran :=
  s.eng (fun c => c.slotOp n (fun d => d.mtIssue n (d.coreOf n).b (setBits slot.toNat 63 60 0)))

/-- VE_ADD (R214). -/
def execVeAdd (n : Fin 512) (slot : BitVec 64) (s : State) : Ran :=
  s.eng (fun c => c.veRow n 0 slot.toNat)

/-- VE_SUB (R214). -/
def execVeSub (n : Fin 512) (slot : BitVec 64) (s : State) : Ran :=
  s.eng (fun c => c.veRow n 1 slot.toNat)

/-- VE_MUL (R214). -/
def execVeMul (n : Fin 512) (slot : BitVec 64) (s : State) : Ran :=
  s.eng (fun c => c.veRow n 2 slot.toNat)

/-- VE_FMA (R214). -/
def execVeFma (n : Fin 512) (slot : BitVec 64) (s : State) : Ran :=
  s.eng (fun c => c.veRow n 3 slot.toNat)

/-- VE_MIN (R214). -/
def execVeMin (n : Fin 512) (slot : BitVec 64) (s : State) : Ran :=
  s.eng (fun c => c.veRow n 4 slot.toNat)

/-- VE_MAX (R214). -/
def execVeMax (n : Fin 512) (slot : BitVec 64) (s : State) : Ran :=
  s.eng (fun c => c.veRow n 5 slot.toNat)

/-- VE_CMPLT (R214). -/
def execVeCmplt (n : Fin 512) (slot : BitVec 64) (s : State) : Ran :=
  s.eng (fun c => c.veRow n 6 slot.toNat)

/-- VE_SELECT (R214). -/
def execVeSelect (n : Fin 512) (slot : BitVec 64) (s : State) : Ran :=
  s.eng (fun c => c.veRow n 7 slot.toNat)

/-- VE_MOV (R214). -/
def execVeMov (n : Fin 512) (slot : BitVec 64) (s : State) : Ran :=
  s.eng (fun c => c.veRow n 8 slot.toNat)

/-- VE_ACT (R152). -/
def execVeAct (n : Fin 512) (slot : BitVec 64) (s : State) : Ran :=
  s.eng (fun c => c.veRow n 9 slot.toNat)

/-- VE_RSUM (R150). -/
def execVeRsum (n : Fin 512) (slot : BitVec 64) (s : State) : Ran :=
  s.eng (fun c => c.veRow n 10 slot.toNat)

/-- VE_RMAX (R150). -/
def execVeRmax (n : Fin 512) (slot : BitVec 64) (s : State) : Ran :=
  s.eng (fun c => c.veRow n 11 slot.toNat)

/-- VE_RMIN (R150). -/
def execVeRmin (n : Fin 512) (slot : BitVec 64) (s : State) : Ran :=
  s.eng (fun c => c.veRow n 12 slot.toNat)

/-- VE_ARGMAX (R150). -/
def execVeArgmax (n : Fin 512) (slot : BitVec 64) (s : State) : Ran :=
  s.eng (fun c => c.veRow n 13 slot.toNat)

/-- VE_LSUM (R214). -/
def execVeLsum (n : Fin 512) (slot : BitVec 64) (s : State) : Ran :=
  s.eng (fun c => c.veRow n 14 slot.toNat)

/-- VE_WIDEN (R131). -/
def execVeWiden (n : Fin 512) (slot : BitVec 64) (s : State) : Ran :=
  s.eng (fun c => c.veRow n 15 slot.toNat)

/-- VE_NARROW (R134). -/
def execVeNarrow (n : Fin 512) (slot : BitVec 64) (s : State) : Ran :=
  s.eng (fun c => c.veRow n 16 slot.toNat)

/-- VE_PACK (R135). -/
def execVePack (n : Fin 512) (slot : BitVec 64) (s : State) : Ran :=
  s.eng (fun c => c.veRow n 17 slot.toNat)

/-- SPSTEP (R167). -/
def execSpstep (n : Fin 512) (slot : BitVec 64) (s : State) : Ran :=
  s.eng (fun c => c.slotOp n (fun d => d.siuIssue n (d.coreOf n).b (setBits slot.toNat 63 60 0)))

/-- PROBE (R175). -/
def execProbe (n : Fin 512) (slot : BitVec 64) (s : State) : Ran :=
  s.eng (fun c => c.slotOp n (fun d => d.siuIssue n (d.coreOf n).b (setBits slot.toNat 63 60 1)))

/-- JOIN (R176). -/
def execJoinOp (n : Fin 512) (slot : BitVec 64) (s : State) : Ran :=
  s.eng (fun c => c.slotOp n (fun d => d.siuIssue n (d.coreOf n).b (setBits slot.toNat 63 60 2)))

/-- MASK (R179). -/
def execMaskOp (n : Fin 512) (slot : BitVec 64) (s : State) : Ran :=
  s.eng (fun c => c.slotOp n (fun d => d.siuIssue n (d.coreOf n).b (setBits slot.toNat 63 60 3)))

/-- LDE_LINEAR (R216). -/
def execLdeLinear (n : Fin 512) (slot : BitVec 64) (s : State) : Ran :=
  s.eng (fun c => c.xferRow n 3 0 slot.toNat)

/-- LDE_STRIDED (R216). -/
def execLdeStrided (n : Fin 512) (slot : BitVec 64) (s : State) : Ran :=
  s.eng (fun c => c.xferRow n 3 1 slot.toNat)

/-- LDE_INDEXED (R217). -/
def execLdeIndexed (n : Fin 512) (slot : BitVec 64) (s : State) : Ran :=
  s.eng (fun c => c.xferRow n 3 2 slot.toNat)

/-- LDE_RUNS (R217). -/
def execLdeRuns (n : Fin 512) (slot : BitVec 64) (s : State) : Ran :=
  s.eng (fun c => c.xferRow n 3 3 slot.toNat)

/-- STE_LINEAR (R216). -/
def execSteLinear (n : Fin 512) (slot : BitVec 64) (s : State) : Ran :=
  s.eng (fun c => c.xferRow n 4 0 slot.toNat)

/-- STE_STRIDED (R216). -/
def execSteStrided (n : Fin 512) (slot : BitVec 64) (s : State) : Ran :=
  s.eng (fun c => c.xferRow n 4 1 slot.toNat)

/-- STE_INDEXED (R217). -/
def execSteIndexed (n : Fin 512) (slot : BitVec 64) (s : State) : Ran :=
  s.eng (fun c => c.xferRow n 4 2 slot.toNat)

/-- PORT_TRANSFER (R218). -/
def execPortTransfer (n : Fin 512) (s : State) : Ran :=
  s.die (fun c => c.portTransfer n)

/-- SCU_NOP (R210). -/
def execScuNop (n : Fin 512) (slot : BitVec 64) (s : State) : Ran :=
  s.eng (fun c => c.scuRow n 0 slot.toNat)

/-- SCU_SET (R210). -/
def execScuSet (n : Fin 512) (slot : BitVec 64) (s : State) : Ran :=
  s.eng (fun c => c.scuRow n 1 slot.toNat)

/-- SCU_ADD (R210). -/
def execScuAdd (n : Fin 512) (slot : BitVec 64) (s : State) : Ran :=
  s.eng (fun c => c.scuRow n 2 slot.toNat)

/-- SCU_SUB (R210). -/
def execScuSub (n : Fin 512) (slot : BitVec 64) (s : State) : Ran :=
  s.eng (fun c => c.scuRow n 3 slot.toNat)

/-- LDP (R210). -/
def execLdp (n : Fin 512) (slot : BitVec 64) (s : State) : Ran :=
  s.eng (fun c => c.scuRow n 4 slot.toNat)

/-- ARM (R210). -/
def execArm (n : Fin 512) (slot : BitVec 64) (s : State) : Ran :=
  s.eng (fun c => c.scuRow n 5 slot.toNat)

/-- SETK (R210). -/
def execSetk (n : Fin 512) (slot : BitVec 64) (s : State) : Ran :=
  s.eng (fun c => c.scuRow n 6 slot.toNat)

/-- DBG_RESUME (R228). -/
def execDbgResume (n : Fin 512) (s : State) : Ran :=
  s.die (fun c => c.dbgResume n)

/-- DBG_STEP (R229). -/
def execDbgStep (n : Fin 512) (s : State) : Ran :=
  s.die (fun c => c.dbgStep n)

/-- DBG_HALT (R227). -/
def execDbgHalt (n : Fin 512) (s : State) : Ran :=
  s.die (fun c => c.dbgHalt n)

/-- VIT_MARK (R238). -/
def execVitMark (c : Fin 64) (v : BitVec 32) (s : State) : Ran :=
  s.page (pgVIT c) (fun d => d.vitMark c v.toNat)

/-- VIT_CLEAR (R238). -/
def execVitClear (c : Fin 64) (s : State) : Ran :=
  s.page (pgVIT c) (fun d => d.vitClear c)

/-- VIT_RD_IDX (R234). -/
def execVitRdIdx (c : Fin 64) (i : Fin 16384) (s : State) : Ran :=
  s.page (pgVIT c) (fun d => d.vitRead c i)

end Sys2Proof.Machine
end

