-- ==== Sys2Proof/Machine/ExecFabric.lean ====
section
/-!
DEFINITION. Meanings of the commands: The Caind fabric and collectives (10_caind_fabric.md, 11_collectives.md).
-/

namespace Sys2Proof.Machine

/-- CAIND_WRITE (R370). -/
def execCaindWrite (p : Fin 16) (pkt : Pkt) (s : State) : Ran :=
  s.die (fun c => c.caind p 0 pkt.hdr pkt.data)

/-- CAIND_RETURN (R108). -/
def execCaindReturn (p : Fin 16) (pkt : Pkt) (s : State) : Ran :=
  s.die (fun c => c.caind p 1 pkt.hdr pkt.data)

/-- CAIND_POST (R343). -/
def execCaindPost (p : Fin 16) (pkt : Pkt) (s : State) : Ran :=
  s.die (fun c => c.caind p 2 pkt.hdr pkt.data)

/-- CAIND_READ (R373). -/
def execCaindRead (p : Fin 16) (pkt : Pkt) (s : State) : Ran :=
  s.die (fun c => c.caind p 3 pkt.hdr pkt.data)

/-- CAIND_READ_DATA (R373). -/
def execCaindReadData (p : Fin 16) (pkt : Pkt) (s : State) : Ran :=
  s.die (fun c => c.caind p 4 pkt.hdr pkt.data)

/-- CAIND_ACK (R377). -/
def execCaindAck (p : Fin 16) (pkt : Pkt) (s : State) : Ran :=
  s.die (fun c => c.caind p 5 pkt.hdr pkt.data)

/-- CAIND_COLL (R414). -/
def execCaindColl (p : Fin 16) (pkt : Pkt) (s : State) : Ran :=
  s.die (fun c => c.caind p 6 pkt.hdr pkt.data)

/-- CAIND_NOTICE (R389). -/
def execCaindNotice (p : Fin 16) (pkt : Pkt) (s : State) : Ran :=
  s.die (fun c => c.caind p 7 pkt.hdr pkt.data)

/-- FORWARD (R384); a MGMT packet for this node is served by the Curator (R366, R391). -/
def execForward (p : Fin 16) (pkt : Pkt) (s : State) : Ran :=
  s.served (fun c => if c.pwr.st = .active then c.forwardRow p pkt.hdr pkt.data else (c, .none))

/-- ACK_FLUSH (R372). -/
def execAckFlush (node : BitVec 18) (s : State) : Ran :=
  s.die (fun c => c.ackFlush node.toNat)

/-- TXN_TIMEOUT (R378). -/
def execTxnTimeout (t : Fin 16384) (s : State) : Ran :=
  s.timed (fun c => c.txnDue t) (fun c => (c.txnTimeout t).unitsGo)

/-- FRAME (R363). -/
def execFrame (l : Link) (f : FrameIn) (s : State) : Ran :=
  match l with
  | .caind p => s.die (fun c => (c.portFrame p f).healthGo)
  | .halter => s.aon (fun c => (c.hltFrame f).healthGo)

/-- REPLAY (R363). -/
def execReplay (l : Link) (ack : BitVec 16) (s : State) : Ran :=
  match l with
  | .caind p => s.die (fun c => (c.portReplay p ack.toNat).healthGo)
  | .halter => s.aon (fun c => (c.hltReplay ack.toNat).healthGo)

/-- CPT_ENABLE (R364). -/
def execCptEnable (p : Fin 16) (v : BitVec 32) (s : State) : Ran :=
  s.page (pgCPT p) (fun c => (c.cptEnable p v.toNat).healthGo)

/-- CPT_RETRAIN (R396). -/
def execCptRetrain (p : Fin 16) (s : State) : Ran :=
  s.page (pgCPT p) (fun c => (c.cptRetrain p).healthGo)

/-- PORT_TRAINED (R364). -/
def execPortTrained (p : Fin 16) (peer : PortPeer) (s : State) : Ran :=
  s.die (fun c => (c.portTrained p peer).healthGo)

/-- PORT_DOWN (R388). -/
def execPortDown (p : Fin 16) (lanes : BitVec 8) (s : State) : Ran :=
  s.die (fun c => ((c.portDown p lanes.toNat).unitsGo).healthGo)

/-- ADMIT (R386). -/
def execAdmitJob (job : BitVec 12) (gen : BitVec 4) (s : State) : Ran :=
  s.page pgCFB (fun c => c.admitJob job.toNat gen.toNat)

/-- DRAIN (R386). -/
def execDrain (job : BitVec 12) (s : State) : Ran :=
  s.page pgCFB (fun c => c.drain job.toNat)

/-- REMOVE (R386). -/
def execRemove (job : BitVec 12) (s : State) : Ran :=
  s.page pgCFB (fun c => (c.remove job.toNat).unitsGo)

/-- ALL_REDUCE (R409). -/
def execAllReduce (q : Fin 264) (i : BitVec 32) (s : State) : Ran :=
  s.die (fun c => c.allReduce q i)

/-- REDUCE_SCATTER (R409). -/
def execReduceScatter (q : Fin 264) (i : BitVec 32) (s : State) : Ran :=
  s.die (fun c => c.reduceScatter q i)

/-- ALL_GATHER (R411). -/
def execAllGather (q : Fin 264) (i : BitVec 32) (s : State) : Ran :=
  s.die (fun c => c.allGather q i)

/-- ALL_TO_ALL (R411). -/
def execAllToAll (q : Fin 264) (i : BitVec 32) (s : State) : Ran :=
  s.die (fun c => c.allToAll q i)

/-- BROADCAST (R411). -/
def execBroadcast (q : Fin 264) (i : BitVec 32) (s : State) : Ran :=
  s.die (fun c => c.broadcast q i)

/-- MLOAD (R405). -/
def execMload (q : Fin 264) (i : BitVec 32) (s : State) : Ran :=
  s.die (fun c => c.mload q i)

/-- COLL_SEND (R415). -/
def execCollSend (sl : Fin 64) (s : State) : Ran :=
  s.die (fun c => c.collSend sl)

/-- COLL_TIMEOUT (R430). -/
def execCollTimeout (sl : Fin 64) (s : State) : Ran :=
  s.timed (fun c => c.collDue sl) (fun c => c.collTimeout sl)

/-- CFB_NODE (R359). -/
def execCfbNode (v : BitVec 32) (s : State) : Ran :=
  s.page pgCFB (fun c => c.cfbWrite 0x200 v.toNat)

end Sys2Proof.Machine
end

