-- ==== Sys2Proof/Machine/ExecFront.lean ====
section
/-!
DEFINITION. Meanings of the commands: The command front-end: doorbells, descriptors, waits, issue, completion, sync counters, queues, contexts (07_commands_scheduling.md).
-/

namespace Sys2Proof.Machine

/-- A held command's unit looks at it again: its TYPE and operation name the row (R23, R40, R75, R90, R98, R107, R112, R207, R405,
R412, R413; a command that a MOVING tile or a gated cluster holds, R294, R509). -/
def Chip.heldStart (c : Chip) (q : Nat) (i : BitVec 32) : Chip :=
  match c.cmd? q i with
  | none => c
  | some k =>
    match k.type, k.f 7 0 with
    | 0, _ => if k.phase = .issued then c.kernel q i else if k.phase = .resolving then c.resolve q i else c.kernelLoad q i
    | 1, _ => c.copyCmd q i
    | 2, 0 => c.route q i
    | 2, 1 => c.domainLoad q i
    | 2, _ => c.routeBias q i
    | 3, 0 => c.dispatch q i
    | 3, 1 => c.retrn q i
    | 3, _ => c.cancel q i
    | 4, _ => c.combine q i
    | 5, 5 => c.mload q i
    | 5, op => c.collStart q i op
    | 6, 0 => c.moveIn q i
    | 6, 1 => c.moveOut q i
    | 6, 6 => c.ttBind q i
    | 6, 7 => c.ttUnbind q i
    | 6, 8 => c.demandBind q i
    | 6, 9 => c.demandUnbind q i
    | 6, op => if k.phase = .running then c.tmGo q i else c.tmInPlace q i op
    | 7, 0 => c.post q i
    | 7, 1 => c.take q i
    | 7, 2 => c.alloc q i
    | 7, 3 => c.retain q i
    | 7, _ => c.release q i
    | _, 0 => c.counterNop q i
    | _, 1 => c.setRange q i
    | _, _ => c.readRange q i


/-- CMDQ_TAIL (R241). -/
def execCmdqTail (q : Fin 264) (tail : BitVec 32) (s : State) : Ran :=
  s.page (cmdqPage q) (fun c => c.cmdqTail q tail)

/-- DB_TAIL (R351). -/
def execDbTail (q : Fin 264) (v : BitVec 64) (_wide : Bool) (s : State) : Ran :=
  s.die (fun c => c.cmdqTail q (v.setWidth 32))

/-- DESC_READ (R251). -/
def execDescRead (q : Fin 264) (s : State) : Ran :=
  s.die (fun c => c.descRead q)

/-- WAIT_MET (R263). -/
def execWaitMet (q : Fin 264) (k : Fin 4) (s : State) : Ran :=
  s.die (fun c => c.waitMet q k)

/-- WAIT_EXPIRED (R264). -/
def execWaitExpired (q : Fin 264) (k : Fin 4) (s : State) : Ran :=
  s.timed (fun c => c.waitDue q k) (fun c => c.waitExpired q k)

/-- ISSUE (R271). -/
def execIssue (s : State) : Ran :=
  s.die (fun c => c.issue)

/-- HELD_START (R75). -/
def execHeldStart (q : Fin 264) (i : BitVec 32) (s : State) : Ran :=
  s.die (fun c => c.heldStart q i)

/-- COMMAND_COMPLETE (R244). -/
def execCommandComplete (q : Fin 264) (i : BitVec 32) (s : State) : Ran :=
  s.die (fun c => c.commandComplete q i)

/-- ACCT_WINDOW (R273). -/
def execAcctWindow (s : State) : Ran :=
  s.timed (fun c => c.acctDue) (fun c => c.acctWindow)

/-- COPY (R257). -/
def execCopy (q : Fin 264) (i : BitVec 32) (s : State) : Ran :=
  s.die (fun c => c.copyCmd q i)

/-- COUNTER_NOP (R258). -/
def execCounterNop (q : Fin 264) (i : BitVec 32) (s : State) : Ran :=
  s.die (fun c => c.counterNop q i)

/-- SET_RANGE (R258). -/
def execSetRange (q : Fin 264) (i : BitVec 32) (s : State) : Ran :=
  s.die (fun c => c.setRange q i)

/-- READ_RANGE (R258). -/
def execReadRange (q : Fin 264) (i : BitVec 32) (s : State) : Ran :=
  s.die (fun c => c.readRange q i)

/-- CNT_SET (R260). -/
def execCntSet (k : Fin 65536) (v : BitVec 32) (s : State) : Ran :=
  s.die (fun c => c.ctrSet k v.toNat)

/-- CNT_ADD (R261). -/
def execCntAdd (k : Fin 65536) (v : BitVec 32) (s : State) : Ran :=
  s.die (fun c => c.ctrAdd k v.toNat)

/-- CMDQ_ENABLE (R282). -/
def execCmdqEnable (q : Fin 264) (s : State) : Ran :=
  s.page (cmdqPage q) (fun c => c.cmdqEnable q)

/-- CMDQ_DISABLE (R282). -/
def execCmdqDisable (q : Fin 264) (s : State) : Ran :=
  s.page (cmdqPage q) (fun c => c.cmdqDisable q)

/-- CMDQ_RESUME (R282). -/
def execCmdqResume (q : Fin 264) (s : State) : Ran :=
  s.page (cmdqPage q) (fun c => c.cmdqResume q)

/-- ABORT_HEAD (R266). -/
def execAbortHead (q : Fin 264) (s : State) : Ran :=
  s.page (cmdqPage q) (fun c => c.abortHead q)

/-- ABORT_ALL (R266). -/
def execAbortAll (q : Fin 264) (s : State) : Ran :=
  s.page (cmdqPage q) (fun c => c.abortAll q)

/-- CMDQ_CFG (R276). -/
def execCmdqCfg (q : Fin 264) (v : BitVec 64) (s : State) : Ran :=
  s.page (cmdqPage q) (fun c => c.cmdqCfg q v.toNat)

/-- FE_ADMIT (R276). -/
def execFeAdmit (v : BitVec 32) (s : State) : Ran :=
  s.page pgFE (fun c => c.feAdmit v.toNat)

/-- FE_SCHED (R276). -/
def execFeSched (v : BitVec 32) (s : State) : Ran :=
  s.page pgFE (fun c => c.feSched v.toNat)

/-- SWAP_CHECK (R269). -/
def execSwapCheck (s : State) : Ran :=
  s.die (fun c => c.swapCheck)

/-- SWAP_DONE (R270). -/
def execSwapDone (s : State) : Ran :=
  s.timed (fun c => c.swapDue) (fun c => c.swapDone)

/-- CTX_CREATE (R286). -/
def execCtxCreate (addr : BitVec 46) (s : State) : Ran :=
  s.page pgCPX (fun c => c.cpxRow 1 addr.toNat)

/-- CTX_DESTROY (R286). -/
def execCtxDestroy (addr : BitVec 46) (s : State) : Ran :=
  s.page pgCPX (fun c => c.cpxRow 2 addr.toNat)

/-- CTX_SWAP_OUT (R286). -/
def execCtxSwapOut (addr : BitVec 46) (s : State) : Ran :=
  s.page pgCPX (fun c => c.cpxRow 3 addr.toNat)

/-- CTX_SWAP_IN (R286). -/
def execCtxSwapIn (addr : BitVec 46) (s : State) : Ran :=
  s.page pgCPX (fun c => c.cpxRow 4 addr.toNat)

/-- CTX_QUERY (R586). -/
def execCtxQuery (addr : BitVec 46) (s : State) : Ran :=
  s.page pgCPX (fun c => c.cpxRow 5 addr.toNat)

/-- TILE_PIN (R286). -/
def execTilePin (addr : BitVec 46) (s : State) : Ran :=
  s.page pgCPX (fun c => c.cpxRow 6 addr.toNat)

/-- TILE_UNPIN (R286). -/
def execTileUnpin (addr : BitVec 46) (s : State) : Ran :=
  s.page pgCPX (fun c => c.cpxRow 7 addr.toNat)

/-- CPX_REQUEST_DONE (R286). -/
def execCpxRequestDone (s : State) : Ran :=
  s.timed (fun c => c.cpxDue) (fun c => c.cpxRequestDone)

/-- CMDQ_BASE (R281). -/
def execCmdqBase (q : Fin 264) (cpl : Bool) (v : BitVec 64) (s : State) : Ran :=
  s.page (cmdqPage q) (fun c => c.cmdqBase q cpl v.toNat)

end Sys2Proof.Machine
end

