-- ==== Sys2Proof/Machine/ExecHost.lean ====
section
/-!
DEFINITION. Meanings of the commands: Host link, management, security requests (12_host_management.md, 13_security.md).
-/

namespace Sys2Proof.Machine

/-- HALTER_WRITE (R440). -/
def execHalterWrite (pkt : HostPkt) (s : State) : Ran :=
  s.served (fun c => if hpF pkt 127 124 = 0 then c.hltArrive pkt else (c, .none))

/-- HALTER_READ (R441). -/
def execHalterRead (pkt : HostPkt) (s : State) : Ran :=
  s.served (fun c => if hpF pkt 127 124 = 1 then c.hltArrive pkt else (c, .none))

/-- HALTER_MALFORMED (R441). -/
def execHalterMalformed (pkt : HostPkt) (s : State) : Ran :=
  s.served (fun c => if !(hpCrcOk pkt) || hpMalformed pkt c.hlt.htags then c.hltArrive pkt else (c, .none))

/-- HLT_ENABLE (R460). -/
def execHltEnable (on : Bool) (s : State) : Ran :=
  s.page pgHLT (fun c => c.hltEnable on)

/-- HLT_RETRAIN (R460). -/
def execHltRetrain (s : State) : Ran :=
  s.page pgHLT (fun c => c.hltRetrain)

/-- HALTER_TRAINED (R438). -/
def execHalterTrained (fail : BitVec 2) (ha8 : Bool) (version : BitVec 16) (htags : BitVec 11) (lanes : BitVec 8) (s : State) : Ran :=
  s.aon (fun c => c.hltTrained fail ha8 version htags lanes)

/-- HALTER_DOWN (R438). -/
def execHalterDown (lanes : BitVec 8) (s : State) : Ran :=
  s.aon (fun c => c.hltDown lanes)

/-- IRQ_PEND_CLEAR (R556). -/
def execIrqPendClear (j : Fin 8) (v : BitVec 64) (s : State) : Ran :=
  s.page pgIRQ (fun c => c.irqClear j v.toNat)

/-- IRQ_HOST (R556). -/
def execIrqHost (j : Fin 8) (v : BitVec 64) (s : State) : Ran :=
  s.page pgIRQ (fun c => c.irqHostEn j v.toNat)

/-- IRQ_CPX (R556). -/
def execIrqCpx (j : Fin 8) (v : BitVec 64) (s : State) : Ran :=
  s.page pgIRQ (fun c => c.irqCpxEn j v.toNat)

/-- TBP_IN (R445). -/
def execTbpIn (s : State) : Ran :=
  s.aon (fun c => c.tbpIn)

/-- TBP_OUT (R445). -/
def execTbpOut (s : State) : Ran :=
  s.aon (fun c => (c.passTo c.pulseDue).tbpOut)

/-- HOLDOVER (R445). -/
def execHoldover (s : State) : Ran :=
  s.aon (fun c => (c.passTo c.holdoverDue).holdover)

/-- TBS_SET (R444). -/
def execTbsSet (v : BitVec 64) (s : State) : Ran :=
  s.page pgTBS (fun c => c.tbsSet v)

/-- INV_ARM (R454). -/
def execInvArm (s : State) : Ran :=
  s.page pgTBS (fun c => c.invArm)

/-- INV_CANCEL (R454). -/
def execInvCancel (s : State) : Ran :=
  s.page pgTBS (fun c => c.invCancel)

/-- INVENTORY_SNAPSHOT (R455). -/
def execInventorySnapshot (s : State) : Ran :=
  s.aon (fun c => (c.passTo c.snapDue).snapshot)

/-- SENSOR_SAMPLE (R446). -/
def execSensorSample (i : Fin 334) (v : Option (BitVec 32)) (s : State) : Ran :=
  if (match v with | some x => outsideRatings i x.toInt | none => false) then .fault .outsideRatings else s.power (fun c => c.sensorRow i v)

/-- LEDGER_WRITE (R449). -/
def execLedgerWrite (s : State) : Ran :=
  s.store s.chip.pwr.aux12 (fun c => c.ledgerWrite)

/-- I3C_READ (R450). -/
def execI3cRead (s : State) : Ran :=
  s.aon (fun c => c.i3cRead)

/-- ENTDAA (R451). -/
def execEntdaa (a : BitVec 7) (s : State) : Ran :=
  s.aon (fun c => c.i3cAddr a)

/-- SETDASA (R451). -/
def execSetdasa (a : BitVec 7) (s : State) : Ran :=
  s.aon (fun c => c.i3cAddr a)

/-- RSTDAA (R451). -/
def execRstdaa (s : State) : Ran :=
  s.aon (fun c => { c with cur.dynAddr := none })

/-- ENEC (R451). -/
def execEnec (events : BitVec 8) (s : State) : Ran :=
  s.aon (fun c => c.i3cEvents true events)

/-- DISEC (R451). -/
def execDisec (events : BitVec 8) (s : State) : Ran :=
  s.aon (fun c => c.i3cEvents false events)

/-- GETPID (R451). -/
def execGetpid (s : State) : Ran :=
  s.aon (fun c => c.i3cDrive Config.i3cPid)

/-- GETBCR (R451). -/
def execGetbcr (s : State) : Ran :=
  s.aon (fun c => c.i3cDrive [Config.i3cBcr])

/-- GETDCR (R451). -/
def execGetdcr (s : State) : Ran :=
  s.aon (fun c => c.i3cDrive [Config.i3cDcr])

/-- GETSTATUS (R451). -/
def execGetstatus (s : State) : Ran :=
  s.aon (fun c => c.i3cStatus)

/-- GETMWL (R451). -/
def execGetmwl (s : State) : Ran :=
  s.aon (fun c => c.i3cDrive (toBytes 2 256).reverse)

/-- GETMRL (R451). -/
def execGetmrl (s : State) : Ran :=
  s.aon (fun c => c.i3cDrive (toBytes 2 256).reverse)

/-- IBI (R451). -/
def execIbi (s : State) : Ran :=
  s.aon (fun c => c.ibi)

/-- IDENTIFY (R452). -/
def execIdentify (path : FramePath) (args : List (BitVec 8)) (crc : BitVec 32) (s : State) : Ran :=
  s.served (fun c => c.frameRow path 1 args crc)

/-- HEALTH (R453). -/
def execHealth (path : FramePath) (args : List (BitVec 8)) (crc : BitVec 32) (s : State) : Ran :=
  s.served (fun c => c.frameRow path 2 args crc)

/-- SENSOR (R452). -/
def execSensor (path : FramePath) (args : List (BitVec 8)) (crc : BitVec 32) (s : State) : Ran :=
  s.served (fun c => c.frameRow path 3 args crc)

/-- LEDGER (R452). -/
def execLedger (path : FramePath) (args : List (BitVec 8)) (crc : BitVec 32) (s : State) : Ran :=
  s.served (fun c => c.frameRow path 4 args crc)

/-- REG_READ (R452). -/
def execRegRead (path : FramePath) (args : List (BitVec 8)) (crc : BitVec 32) (s : State) : Ran :=
  s.served (fun c => c.frameRow path 5 args crc)

/-- REG_WRITE (R452). -/
def execRegWrite (path : FramePath) (args : List (BitVec 8)) (crc : BitVec 32) (s : State) : Ran :=
  s.served (fun c => c.frameRow path 6 args crc)

/-- SNAPSHOT (R454). -/
def execSnapshot (path : FramePath) (args : List (BitVec 8)) (crc : BitVec 32) (s : State) : Ran :=
  s.served (fun c => c.frameRow path 7 args crc)

/-- TIME (R452). -/
def execTime (path : FramePath) (args : List (BitVec 8)) (crc : BitVec 32) (s : State) : Ran :=
  s.served (fun c => c.frameRow path 8 args crc)

/-- FW_STAGE (R458). -/
def execFwStage (path : FramePath) (args : List (BitVec 8)) (crc : BitVec 32) (s : State) : Ran :=
  s.served (fun c => c.frameRow path 9 args crc)

/-- FW_START (R458). -/
def execFwStart (path : FramePath) (args : List (BitVec 8)) (crc : BitVec 32) (s : State) : Ran :=
  s.served (fun c => c.frameRow path 10 args crc)

/-- FW_STATUS (R452). -/
def execFwStatus (path : FramePath) (args : List (BitVec 8)) (crc : BitVec 32) (s : State) : Ran :=
  s.served (fun c => c.frameRow path 11 args crc)

/-- RESET (R452). -/
def execResetFrame (path : FramePath) (args : List (BitVec 8)) (crc : BitVec 32) (s : State) : Ran :=
  s.served (fun c => c.frameRow path 12 args crc)

/-- ATTEST (R475). -/
def execAttest (addr : BitVec 46) (s : State) : Ran :=
  s.store s.dieOn (fun c => c.secRow 1 addr.toNat)

/-- PUBKEY (R473). -/
def execPubkey (addr : BitVec 46) (s : State) : Ran :=
  s.store s.dieOn (fun c => c.secRow 2 addr.toNat)

/-- KEY_INSTALL (R477). -/
def execKeyInstall (addr : BitVec 46) (s : State) : Ran :=
  s.store s.dieOn (fun c => c.secRow 3 addr.toNat)

/-- SET_CURRENT (R483). -/
def execSetCurrent (addr : BitVec 46) (s : State) : Ran :=
  s.store s.dieOn (fun c => c.secRow 4 addr.toNat)

/-- RETIRE (R484). -/
def execRetire (addr : BitVec 46) (s : State) : Ran :=
  s.store s.dieOn (fun c => c.secRow 5 addr.toNat)

/-- REKEY (R485). -/
def execRekey (addr : BitVec 46) (s : State) : Ran :=
  s.store s.dieOn (fun c => c.secRow 6 addr.toNat)

/-- ERASE (R473). -/
def execErase (addr : BitVec 46) (s : State) : Ran :=
  s.store s.dieOn (fun c => c.secRow 7 addr.toNat)

/-- REGISTER_WRITE (R12). -/
def execRegisterWrite (who : Poster) (page : BitVec 16) (off : Fin 4096) (wide : Bool) (v : BitVec 64) (s : State) : Ran :=
  s.served (fun c => c.regWriteBy who page.toNat off (if wide then 8 else 4) v.toNat)

/-- SEC_REQUEST_DONE (R473). -/
def execSecRequestDone (s : State) : Ran :=
  s.store s.dieOn (fun c => (c.passTo c.secDue).secRequestDone)

/-- FW_UPDATE_DONE (R458). -/
def execFwUpdateDone (s : State) : Ran :=
  s.store s.chip.pwr.aux12 (fun c => c.fwDone)

end Sys2Proof.Machine
end

