-- ==== Sys2Proof/Machine/ExecMemory.lean ====
section
/-!
DEFINITION. Meanings of the commands: Memory tiers, buffers and mailboxes (08_memory_tiers.md, 09_buffers_mailboxes.md).
-/

namespace Sys2Proof.Machine

/-- MOVE_IN (R308). -/
def execMoveIn (q : Fin 264) (i : BitVec 32) (s : State) : Ran :=
  s.die (fun c => c.moveIn q i)

/-- MOVE_OUT (R308). -/
def execMoveOut (q : Fin 264) (i : BitVec 32) (s : State) : Ran :=
  s.die (fun c => c.moveOut q i)

/-- PIN (R308). -/
def execPin (q : Fin 264) (i : BitVec 32) (s : State) : Ran :=
  s.die (fun c => c.tmPin q i)

/-- UNPIN (R308). -/
def execUnpin (q : Fin 264) (i : BitVec 32) (s : State) : Ran :=
  s.die (fun c => c.tmUnpin q i)

/-- CLEAR_POISON (R308). -/
def execClearPoison (q : Fin 264) (i : BitVec 32) (s : State) : Ran :=
  s.die (fun c => c.tmClearPoison q i)

/-- SET_ENC (R308). -/
def execSetEnc (q : Fin 264) (i : BitVec 32) (s : State) : Ran :=
  s.die (fun c => c.tmSetEnc q i)

/-- TT_BIND (R311). -/
def execTtBind (q : Fin 264) (i : BitVec 32) (s : State) : Ran :=
  s.die (fun c => c.ttBind q i)

/-- TT_UNBIND (R308). -/
def execTtUnbind (q : Fin 264) (i : BitVec 32) (s : State) : Ran :=
  s.die (fun c => c.ttUnbind q i)

/-- DEMAND_BIND (R314). -/
def execDemandBind (q : Fin 264) (i : BitVec 32) (s : State) : Ran :=
  s.die (fun c => c.demandBind q i)

/-- DEMAND_UNBIND (R308). -/
def execDemandUnbind (q : Fin 264) (i : BitVec 32) (s : State) : Ran :=
  s.die (fun c => c.demandUnbind q i)

/-- TT_ENTRY (R312). -/
def execTtEntry (sh : Fin 16) (x : BitVec 8) (s : State) : Ran :=
  s.die (fun c => c.ttEntry sh x.toNat)

/-- A notice comes to its port; while a MOVING tile holds the demand map it is not taken (R294). -/
def Chip.noticeRow (c : Chip) (job node a : Nat) (data : List (BitVec 8)) : Chip :=
  if c.noticeHeld job a data then c else (c.noticeWrite job node a data).1

/-- NOTICE_WRITE (R315). -/
def execNoticeWrite (job : BitVec 16) (node : BitVec 18) (addr : BitVec 46) (data : List (BitVec 8)) (s : State) : Ran :=
  s.die (fun c => c.noticeRow job.toNat node.toNat addr.toNat data)

/-- MOVE_CLAIM (R304). -/
def execMoveClaim (sh : Fin 16) (s : State) : Ran :=
  s.die (fun c => c.claimRow sh)

/-- MOVE_COMPLETE (R302). -/
def execMoveComplete (sh : Fin 16) (tile : Fin 25165824) (s : State) : Ran :=
  s.served (fun c => (if s.dieOn then (keepFz c (c.moveComplete sh tile).tilesMoved) else c, .none))

/-- SCRUB (R319). -/
def execScrub (sh : Fin 16) (s : State) : Ran :=
  s.die (fun c => c.scrub sh)

/-- LP_REFRESH (R320). -/
def execLpRefresh (sh : Fin 16) (s : State) : Ran :=
  s.die (fun c => c.lpRefresh sh)

/-- LP_RETRAIN (R320). -/
def execLpRetrain (sh : Fin 16) (s : State) : Ran :=
  s.die (fun c => c.lpRetrain sh)

/-- LP_POWER_DOWN (R320). -/
def execLpPowerDown (p : LpCh) (s : State) : Ran :=
  s.die (fun c => c.lpPowerDown p.shu p.ch)

/-- LP_DEEP_SLEEP (R511). -/
def execLpDeepSleep (sh : Fin 16) (s : State) : Ran :=
  s.power (fun c => (c.passTo (c.sleepDue sh)).lpDeepSleep sh)

/-- BPM_CTRL (R329). -/
def execBpmCtrl (c : Fin 64) (v : BitVec 32) (s : State) : Ran :=
  s.page (pgBPM c) (fun d => d.bpmCtrl c v.toNat)

/-- BPM_POOL_CFG (R330). -/
def execBpmPoolCfg (c : Fin 64) (p : Fin 32) (v : BitVec 64) (s : State) : Ran :=
  s.page (pgBPM c) (fun d => d.bpmPoolCfg c p v.toNat)

/-- POOL_BUILD_DONE (R330). -/
def execPoolBuildDone (c : Fin 64) (p : Fin 32) (s : State) : Ran :=
  s.die (fun d => d.poolBuildDone c p)

/-- BUF_RETAIN (R334). -/
def execBufRetain (_who : Poster) (h : BitVec 32) (s : State) : Ran :=
  s.die (fun c => (c.bufRetain h.toNat none 0).2)

/-- BUF_RELEASE (R334). -/
def execBufRelease (_who : Poster) (h : BitVec 32) (s : State) : Ran :=
  s.die (fun c => (c.bufRelease h.toNat none 0).2)

/-- POST (R350). -/
def execPost (q : Fin 264) (i : BitVec 32) (s : State) : Ran :=
  s.die (fun c => c.post q i)

/-- TAKE (R350). -/
def execTake (q : Fin 264) (i : BitVec 32) (s : State) : Ran :=
  s.die (fun c => c.take q i)

/-- ALLOC (R350). -/
def execAlloc (q : Fin 264) (i : BitVec 32) (s : State) : Ran :=
  s.die (fun c => c.alloc q i)

/-- RETAIN (R350). -/
def execRetain (q : Fin 264) (i : BitVec 32) (s : State) : Ran :=
  s.die (fun c => c.retain q i)

/-- RELEASE (R350). -/
def execRelease (q : Fin 264) (i : BitVec 32) (s : State) : Ran :=
  s.die (fun c => c.release q i)

/-- MBX_POST (R344). -/
def execMbxPost (who : Poster) (b : Fin 3072) (post : BitVec 128) (s : State) : Ran :=
  s.die (fun c => (c.mbxPost b (bits post.toNat 63 0) (bits post.toNat 79 64) (c.posterId who).1 (c.posterId who).2 false).2)

/-- MBX_LOCK (R344). -/
def execMbxLock (who : Poster) (b : Fin 3072) (s : State) : Ran :=
  s.die (fun c => (c.mbxLock (lockNo who) b).2)

/-- MBX_TAKE (R345). -/
def execMbxTake (who : Poster) (b : Fin 3072) (seq : BitVec 16) (s : State) : Ran :=
  s.die (fun c => c.mbxTake (lockNo who) b seq.toNat)

/-- MBX_RELEASE (R344). -/
def execMbxRelease (who : Poster) (b : Fin 3072) (s : State) : Ran :=
  s.die (fun c => c.mbxRelease (lockNo who) b)

/-- MBX_BREAK (R344). -/
def execMbxBreak (_who : Poster) (b : Fin 3072) (s : State) : Ran :=
  s.die (fun c => c.mbxBreak b)

/-- MBX_CFG (R352). -/
def execMbxCfg (c : Fin 64) (i : Fin 48) (v : BitVec 32) (s : State) : Ran :=
  s.page (pgMBX c) (fun d => d.mbxCfgWrite c i v.toNat)

/-- BPM_TABLE (R354). -/
def execBpmTable (c : Fin 64) (v : BitVec 64) (s : State) : Ran :=
  s.page (pgBPM c) (fun d => d.bpmTable c v.toNat)

end Sys2Proof.Machine
end

