-- ==== Sys2Proof/Machine/ExecPower.lean ====
section
/-!
DEFINITION. Meanings of the commands: Power, clocks, reset, faults, the test port (14_power_clocks_reset.md, 15_faults_fencing.md, 17_module_physical.md).
-/

namespace Sys2Proof.Machine

/-- AUX12_LOSS: only fences whose fuses are blown outlast it (R497, R533). -/
def Chip.lossFz (c : Chip) : Chip :=
  let z : Chip := { c with fz := { c.fz with coreFence := 0, clFence := 0 } }
  keepFz z.fencesLoaded c.aux12Loss

/-- BOOT_COMPLETE: fuses are read at step 7; a boot that enters recovery instead adds no fence (R518, R533). -/
def Chip.bootFz (c : Chip) : Chip :=
  let d := c.bootComplete
  keepFz (if c.pwr.boot.isSome ∧ d.pwr.boot.isNone then c.fencesLoaded else c) d

/-- CORE_FENCE: an uncorrectable error in a core-level structure of core n, reported by its core or SIU page (R522, R528). -/
def Chip.coreFenceFz (c : Chip) (n page b : Nat) : Chip :=
  if ueLevel page = some (0, n) ∧ ¬ c.coreFenced n then (addFences c (BitVec.ofNat 512 (2 ^ n)) 0 (c.coreFence n page b)).healthGo else c

/-- CLUSTER_FENCE: an uncorrectable error in a cluster-level structure of cluster cl (R522, R532). -/
def Chip.clusterFenceFz (c : Chip) (cl page b : Nat) : Chip :=
  if ueLevel page = some (1, cl) ∧ ¬ c.clFenced cl then
    (addFences c (BitVec.ofNat 512 (255 * 2 ^ (8 * cl))) (BitVec.ofNat 64 (2 ^ cl)) (c.clusterFence cl page b)).healthGo
  else c

/-- FENCE_FUSE: only a fenced unit's fuses are blown (R533). -/
def Chip.fuseFz (c : Chip) (cl : Bool) (u : Nat) (okA okB : Bool) : Chip :=
  if if cl then c.clFenced u else c.coreFenced u then
    let d := c.fenceFuse cl u okA okB
    { d with fz := { c.fz with coreFuseA := d.fz.coreFuseA, coreFuseB := d.fz.coreFuseB, clFuseA := d.fz.clFuseA, clFuseB := d.fz.clFuseB } }
  else c


/-- RESET_L (R443). -/
def execResetL (s : State) : Ran :=
  s.power (fun c => c.resetLow)

/-- AUX12_ON (R494). -/
def execAux12On (s : State) : Ran :=
  s.power (fun c => c.aux12On)

/-- AUX12_LOSS (R497). -/
def execAux12Loss (s : State) : Ran :=
  .next { s with chip := s.chip.lossFz }

/-- MAIN_UV (R496). -/
def execMainUv (s : State) : Ran :=
  s.power (fun c => c.mainUv)

/-- AUTO_RESTART (R496). -/
def execAutoRestart (s : State) : Ran :=
  s.power (fun c => c.autoRestart)

/-- DROOP (R500). -/
def execDroop (ns : BitVec 32) (s : State) : Ran :=
  s.power (fun c => c.droop ns.toNat)

/-- PHASE_ADD (R498). -/
def execPhaseAdd (s : State) : Ran :=
  s.power (fun c => c.phaseAdd)

/-- PHASE_SHED (R498). -/
def execPhaseShed (s : State) : Ran :=
  s.power (fun c => (c.passTo c.shedDue).phaseShed)

/-- DVFS_STEP (R502). -/
def execDvfsStep (s : State) : Ran :=
  s.power (fun c => (c.passTo (c.pwr.lastDvfs + 25000)).dvfsStep)

/-- THERM_STEP (R505). -/
def execThermStep (s : State) : Ran :=
  s.power (fun c => (c.passTo (c.pwr.lastTherm + 1000000)).thermStep)

/-- THERMAL_TRIP (R506). -/
def execThermalTrip (site : Fin 64) (s : State) : Ran :=
  s.power (fun c => c.thermalTrip site)

/-- GATE (R508). -/
def execGate (c : Fin 64) (s : State) : Ran :=
  s.die (fun d => d.gate c)

/-- WAKE (R509). -/
def execWake (c : Fin 64) (s : State) : Ran :=
  s.timed (fun _ => 0) (fun d => ((if d.pwr.aclkOn then d else d.wake c).passTo (if d.pwr.aclkOn then d else d.wake c).wakeStart).wake c)

/-- WAKE_READY (R509). -/
def execWakeReady (c : Fin 64) (s : State) : Ran :=
  s.timed (fun d => d.wakeDue c) (fun d => d.wakeReady c)

/-- ACLK_IDLE (R510). -/
def execAclkIdle (s : State) : Ran :=
  s.power (fun c => (c.passTo c.idleDue).aclkIdle)

/-- ACTIVE (R512). -/
def execActive (s : State) : Ran :=
  s.power (fun c => c.toActive)

/-- STANDBY (R512). -/
def execStandby (s : State) : Ran :=
  s.power (fun c => c.toStandby)

/-- AUX (R512). -/
def execAux (s : State) : Ran :=
  s.power (fun c => c.toAux)

/-- COLD_RESET (R514). -/
def execColdReset (s : State) : Ran :=
  s.power (fun c => c.resetTo .cold 3)

/-- MODULE_RESET (R514). -/
def execModuleReset (s : State) : Ran :=
  s.power (fun c => c.resetTo .module 3)

/-- DIE_WARM_RESET (R515). -/
def execDieWarmReset (s : State) : Ran :=
  s.power (fun c => c.resetTo .dieWarm 3)

/-- CLUSTER_RESET (R516). -/
def execClusterReset (c : Fin 64) (s : State) : Ran :=
  s.power (fun d => d.clusterReset c)

/-- CORE_RESET (R516). -/
def execCoreReset (n : Fin 512) (s : State) : Ran :=
  s.power (fun c => c.coreReset n)

/-- CORE_FENCE (R529). -/
def execCoreFence (n : Fin 512) (page : BitVec 16) (b : Fin 16) (s : State) : Ran :=
  .next { s with chip := if s.dieOn then s.chip.faultsGo (s.chip.coreFenceFz n page.toNat b) else s.chip }

/-- CLUSTER_FENCE (R532). -/
def execClusterFence (c : Fin 64) (page : BitVec 16) (b : Fin 16) (s : State) : Ran :=
  .next { s with chip := if s.dieOn then s.chip.faultsGo (s.chip.clusterFenceFz c page.toNat b) else s.chip }

/-- FENCE_CORE (R534). -/
def execFenceCore (n : Fin 512) (s : State) : Ran :=
  .next { s with chip := if s.chip.pageLive pgFLT then s.chip.faultsGo (s.chip.fenceCoreFz n 0 0xFF).healthGo else s.chip }

/-- FENCE_CLUSTER (R534). -/
def execFenceCluster (c : Fin 64) (s : State) : Ran :=
  .next { s with chip := if s.chip.pageLive pgFLT then s.chip.faultsGo (s.chip.fenceClusterFz c 0 0xFF).healthGo else s.chip }

/-- FENCE_FUSE (R533). -/
def execFenceFuse (cl : Bool) (u : Fin 512) (okA okB : Bool) (s : State) : Ran :=
  .next { s with chip := s.chip.fuseFz cl u okA okB }

/-- DIE_ERROR (R536). -/
def execDieError (page : BitVec 16) (b : Fin 16) (s : State) : Ran :=
  s.die (fun c => (c.dieErrorRow page.toNat b).healthGo)

/-- DIE_HOLD_EXPIRY (R536). -/
def execDieHoldExpiry (s : State) : Ran :=
  s.power (fun c => (c.passTo c.holdDue).dieHold)

/-- FLT_WDT_KICK (R537). -/
def execFltWdtKick (k : Fin 4) (s : State) : Ran :=
  s.page pgFLT (fun c => c.wdtKick k)

/-- WDT (R537). -/
def execWdt (k : Fin 4) (s : State) : Ran :=
  s.timed (fun c => c.wdtDue k) (fun c => (c.wdt k).healthGo)

/-- ERR_INJ (R539). -/
def execErrInj (page : BitVec 16) (v : BitVec 32) (s : State) : Ran :=
  s.page page.toNat (fun c => c.errInj page.toNat v.toNat)

/-- BOOT_COMPLETE (R518). -/
def execBootComplete (s : State) : Ran :=
  .next { s with chip := s.chip.bootFz.healthGo }

/-- RESET_L_RELEASE (R443). -/
def execResetLRelease (s : State) : Ran :=
  s.power (fun c => c.resetRelease)

/-- TAP_INSTRUCTION (R570). -/
def execTapInstruction (t : TapInstr) (s : State) : Ran :=
  s.power (fun c => c.tapLoad t)

/-- MAIN48_APPLIED (R494). -/
def execMain48Applied (s : State) : Ran :=
  s.power (fun c => c.main48On)

/-- RESET_DONE (R516). -/
def execResetDone (cl : Bool) (u : Fin 512) (s : State) : Ran :=
  s.power (fun c => (c.passTo (c.resetDue cl u)).resetDone cl u)

end Sys2Proof.Machine
end

