-- ==== Sys2Proof/Machine/ExecRoute.lean ====
section
/-!
DEFINITION. Meanings of the commands: Routing, dispatch and combine (02_routing_engine.md, 03_dispatch_combine.md).
-/

namespace Sys2Proof.Machine

/-- ROUTE (R42). -/
def execRoute (q : Fin 264) (i : BitVec 32) (s : State) : Ran :=
  s.die (fun c => c.route q i)

/-- DOMAIN_LOAD (R37). -/
def execDomainLoad (q : Fin 264) (i : BitVec 32) (s : State) : Ran :=
  s.die (fun c => c.domainLoad q i)

/-- ROUTE_BIAS (R39). -/
def execRouteBias (q : Fin 264) (i : BitVec 32) (s : State) : Ran :=
  s.die (fun c => c.routeBias q i)

/-- LANE_DRAIN (R46). -/
def execLaneDrain (c : Fin 64) (s : State) : Ran :=
  s.die (fun d => d.laneDrain c)

/-- LQ_TIMEOUT (R48). -/
def execLqTimeout (c : Fin 64) (s : State) : Ran :=
  s.timed (fun d => d.lqDue c) (fun d => d.lqTimeout c)

/-- CHARGE_GRANT (R56). -/
def execChargeGrant (c : Fin 64) (s : State) : Ran :=
  s.die (fun d => d.chargeGrant c)

/-- DISPATCH (R88). -/
def execDispatch (q : Fin 264) (i : BitVec 32) (s : State) : Ran :=
  s.die (fun c => c.dispatch q i)

/-- RETURN (R103). -/
def execRetrn (q : Fin 264) (i : BitVec 32) (s : State) : Ran :=
  s.die (fun c => c.retrn q i)

/-- CANCEL (R109). -/
def execCancel (q : Fin 264) (i : BitVec 32) (s : State) : Ran :=
  s.die (fun c => c.cancel q i)

/-- COMBINE (R112). -/
def execCombine (q : Fin 264) (i : BitVec 32) (s : State) : Ran :=
  s.die (fun c => c.combine q i)

/-- DROVER_ISSUE (R92). -/
def execDroverIssue (c : Fin 64) (s : State) : Ran :=
  s.die (fun d => d.droverIssue c)

/-- COMBINE_TOKEN (R113). -/
def execCombineToken (w : Fin 64) (s : State) : Ran :=
  s.die (fun c => c.combineToken w)

/-- ARRIVAL_APPLY (R115). -/
def execArrivalApply (w : Fin 64) (s : State) : Ran :=
  s.die (fun c => c.arrivalApply w)

/-- RET_TIMEOUT (R116). -/
def execRetTimeout (w : Fin 64) (s : State) : Ran :=
  s.timed (fun c => c.retDue w) (fun c => c.retTimeout w)

end Sys2Proof.Machine
end

