-- ==== Sys2Proof/Machine/Dispatch.lean ====
section
/-!
DEFINITION. One command: the arm of its constructor.
-/

namespace Sys2Proof.Machine

/-- A command takes effect on everything but the queue. -/
def exec (i : Instr) (s : State) : Host.Outcome State Fault Refusal :=
  match i with
  | .cmdqTail x1 x2 => Sys2Proof.Machine.execCmdqTail x1 x2 s
  | .dbTail x1 x2 x3 => Sys2Proof.Machine.execDbTail x1 x2 x3 s
  | .descRead x1 => Sys2Proof.Machine.execDescRead x1 s
  | .waitMet x1 x2 => Sys2Proof.Machine.execWaitMet x1 x2 s
  | .waitExpired x1 x2 => Sys2Proof.Machine.execWaitExpired x1 x2 s
  | .issue => Sys2Proof.Machine.execIssue s
  | .heldStart x1 x2 => Sys2Proof.Machine.execHeldStart x1 x2 s
  | .commandComplete x1 x2 => Sys2Proof.Machine.execCommandComplete x1 x2 s
  | .acctWindow => Sys2Proof.Machine.execAcctWindow s
  | .kernel x1 x2 => Sys2Proof.Machine.execKernel x1 x2 s
  | .kernelLoad x1 x2 => Sys2Proof.Machine.execKernelLoad x1 x2 s
  | .kernelPreload x1 => Sys2Proof.Machine.execKernelPreload x1 s
  | .kernelEnd x1 => Sys2Proof.Machine.execKernelEnd x1 s
  | .bundle x1 => Sys2Proof.Machine.execBundle x1 s
  | .stepOp x1 x2 => Sys2Proof.Machine.execStepOp x1 x2 s
  | .veAdd x1 x2 => Sys2Proof.Machine.execVeAdd x1 x2 s
  | .veSub x1 x2 => Sys2Proof.Machine.execVeSub x1 x2 s
  | .veMul x1 x2 => Sys2Proof.Machine.execVeMul x1 x2 s
  | .veFma x1 x2 => Sys2Proof.Machine.execVeFma x1 x2 s
  | .veMin x1 x2 => Sys2Proof.Machine.execVeMin x1 x2 s
  | .veMax x1 x2 => Sys2Proof.Machine.execVeMax x1 x2 s
  | .veCmplt x1 x2 => Sys2Proof.Machine.execVeCmplt x1 x2 s
  | .veSelect x1 x2 => Sys2Proof.Machine.execVeSelect x1 x2 s
  | .veMov x1 x2 => Sys2Proof.Machine.execVeMov x1 x2 s
  | .veAct x1 x2 => Sys2Proof.Machine.execVeAct x1 x2 s
  | .veRsum x1 x2 => Sys2Proof.Machine.execVeRsum x1 x2 s
  | .veRmax x1 x2 => Sys2Proof.Machine.execVeRmax x1 x2 s
  | .veRmin x1 x2 => Sys2Proof.Machine.execVeRmin x1 x2 s
  | .veArgmax x1 x2 => Sys2Proof.Machine.execVeArgmax x1 x2 s
  | .veLsum x1 x2 => Sys2Proof.Machine.execVeLsum x1 x2 s
  | .veWiden x1 x2 => Sys2Proof.Machine.execVeWiden x1 x2 s
  | .veNarrow x1 x2 => Sys2Proof.Machine.execVeNarrow x1 x2 s
  | .vePack x1 x2 => Sys2Proof.Machine.execVePack x1 x2 s
  | .spstep x1 x2 => Sys2Proof.Machine.execSpstep x1 x2 s
  | .probe x1 x2 => Sys2Proof.Machine.execProbe x1 x2 s
  | .joinOp x1 x2 => Sys2Proof.Machine.execJoinOp x1 x2 s
  | .maskOp x1 x2 => Sys2Proof.Machine.execMaskOp x1 x2 s
  | .ldeLinear x1 x2 => Sys2Proof.Machine.execLdeLinear x1 x2 s
  | .ldeStrided x1 x2 => Sys2Proof.Machine.execLdeStrided x1 x2 s
  | .ldeIndexed x1 x2 => Sys2Proof.Machine.execLdeIndexed x1 x2 s
  | .ldeRuns x1 x2 => Sys2Proof.Machine.execLdeRuns x1 x2 s
  | .steLinear x1 x2 => Sys2Proof.Machine.execSteLinear x1 x2 s
  | .steStrided x1 x2 => Sys2Proof.Machine.execSteStrided x1 x2 s
  | .steIndexed x1 x2 => Sys2Proof.Machine.execSteIndexed x1 x2 s
  | .portTransfer x1 => Sys2Proof.Machine.execPortTransfer x1 s
  | .scuNop x1 x2 => Sys2Proof.Machine.execScuNop x1 x2 s
  | .scuSet x1 x2 => Sys2Proof.Machine.execScuSet x1 x2 s
  | .scuAdd x1 x2 => Sys2Proof.Machine.execScuAdd x1 x2 s
  | .scuSub x1 x2 => Sys2Proof.Machine.execScuSub x1 x2 s
  | .ldp x1 x2 => Sys2Proof.Machine.execLdp x1 x2 s
  | .arm x1 x2 => Sys2Proof.Machine.execArm x1 x2 s
  | .setk x1 x2 => Sys2Proof.Machine.execSetk x1 x2 s
  | .dbgResume x1 => Sys2Proof.Machine.execDbgResume x1 s
  | .dbgStep x1 => Sys2Proof.Machine.execDbgStep x1 s
  | .dbgHalt x1 => Sys2Proof.Machine.execDbgHalt x1 s
  | .vitMark x1 x2 => Sys2Proof.Machine.execVitMark x1 x2 s
  | .vitClear x1 => Sys2Proof.Machine.execVitClear x1 s
  | .vitRdIdx x1 x2 => Sys2Proof.Machine.execVitRdIdx x1 x2 s
  | .route x1 x2 => Sys2Proof.Machine.execRoute x1 x2 s
  | .domainLoad x1 x2 => Sys2Proof.Machine.execDomainLoad x1 x2 s
  | .routeBias x1 x2 => Sys2Proof.Machine.execRouteBias x1 x2 s
  | .laneDrain x1 => Sys2Proof.Machine.execLaneDrain x1 s
  | .lqTimeout x1 => Sys2Proof.Machine.execLqTimeout x1 s
  | .chargeGrant x1 => Sys2Proof.Machine.execChargeGrant x1 s
  | .dispatch x1 x2 => Sys2Proof.Machine.execDispatch x1 x2 s
  | .retrn x1 x2 => Sys2Proof.Machine.execRetrn x1 x2 s
  | .cancel x1 x2 => Sys2Proof.Machine.execCancel x1 x2 s
  | .combine x1 x2 => Sys2Proof.Machine.execCombine x1 x2 s
  | .droverIssue x1 => Sys2Proof.Machine.execDroverIssue x1 s
  | .combineToken x1 => Sys2Proof.Machine.execCombineToken x1 s
  | .arrivalApply x1 => Sys2Proof.Machine.execArrivalApply x1 s
  | .retTimeout x1 => Sys2Proof.Machine.execRetTimeout x1 s
  | .copy x1 x2 => Sys2Proof.Machine.execCopy x1 x2 s
  | .counterNop x1 x2 => Sys2Proof.Machine.execCounterNop x1 x2 s
  | .setRange x1 x2 => Sys2Proof.Machine.execSetRange x1 x2 s
  | .readRange x1 x2 => Sys2Proof.Machine.execReadRange x1 x2 s
  | .cntSet x1 x2 => Sys2Proof.Machine.execCntSet x1 x2 s
  | .cntAdd x1 x2 => Sys2Proof.Machine.execCntAdd x1 x2 s
  | .cmdqEnable x1 => Sys2Proof.Machine.execCmdqEnable x1 s
  | .cmdqDisable x1 => Sys2Proof.Machine.execCmdqDisable x1 s
  | .cmdqResume x1 => Sys2Proof.Machine.execCmdqResume x1 s
  | .abortHead x1 => Sys2Proof.Machine.execAbortHead x1 s
  | .abortAll x1 => Sys2Proof.Machine.execAbortAll x1 s
  | .cmdqCfg x1 x2 => Sys2Proof.Machine.execCmdqCfg x1 x2 s
  | .feAdmit x1 => Sys2Proof.Machine.execFeAdmit x1 s
  | .feSched x1 => Sys2Proof.Machine.execFeSched x1 s
  | .swapCheck => Sys2Proof.Machine.execSwapCheck s
  | .swapDone => Sys2Proof.Machine.execSwapDone s
  | .ctxCreate x1 => Sys2Proof.Machine.execCtxCreate x1 s
  | .ctxDestroy x1 => Sys2Proof.Machine.execCtxDestroy x1 s
  | .ctxSwapOut x1 => Sys2Proof.Machine.execCtxSwapOut x1 s
  | .ctxSwapIn x1 => Sys2Proof.Machine.execCtxSwapIn x1 s
  | .ctxQuery x1 => Sys2Proof.Machine.execCtxQuery x1 s
  | .tilePin x1 => Sys2Proof.Machine.execTilePin x1 s
  | .tileUnpin x1 => Sys2Proof.Machine.execTileUnpin x1 s
  | .moveIn x1 x2 => Sys2Proof.Machine.execMoveIn x1 x2 s
  | .moveOut x1 x2 => Sys2Proof.Machine.execMoveOut x1 x2 s
  | .pin x1 x2 => Sys2Proof.Machine.execPin x1 x2 s
  | .unpin x1 x2 => Sys2Proof.Machine.execUnpin x1 x2 s
  | .clearPoison x1 x2 => Sys2Proof.Machine.execClearPoison x1 x2 s
  | .setEnc x1 x2 => Sys2Proof.Machine.execSetEnc x1 x2 s
  | .ttBind x1 x2 => Sys2Proof.Machine.execTtBind x1 x2 s
  | .ttUnbind x1 x2 => Sys2Proof.Machine.execTtUnbind x1 x2 s
  | .demandBind x1 x2 => Sys2Proof.Machine.execDemandBind x1 x2 s
  | .demandUnbind x1 x2 => Sys2Proof.Machine.execDemandUnbind x1 x2 s
  | .ttEntry x1 x2 => Sys2Proof.Machine.execTtEntry x1 x2 s
  | .noticeWrite x1 x2 x3 x4 => Sys2Proof.Machine.execNoticeWrite x1 x2 x3 x4 s
  | .moveClaim x1 => Sys2Proof.Machine.execMoveClaim x1 s
  | .moveComplete x1 x2 => Sys2Proof.Machine.execMoveComplete x1 x2 s
  | .scrub x1 => Sys2Proof.Machine.execScrub x1 s
  | .lpRefresh x1 => Sys2Proof.Machine.execLpRefresh x1 s
  | .lpRetrain x1 => Sys2Proof.Machine.execLpRetrain x1 s
  | .lpPowerDown x1 => Sys2Proof.Machine.execLpPowerDown x1 s
  | .lpDeepSleep x1 => Sys2Proof.Machine.execLpDeepSleep x1 s
  | .bpmCtrl x1 x2 => Sys2Proof.Machine.execBpmCtrl x1 x2 s
  | .bpmPoolCfg x1 x2 x3 => Sys2Proof.Machine.execBpmPoolCfg x1 x2 x3 s
  | .poolBuildDone x1 x2 => Sys2Proof.Machine.execPoolBuildDone x1 x2 s
  | .bufRetain x1 x2 => Sys2Proof.Machine.execBufRetain x1 x2 s
  | .bufRelease x1 x2 => Sys2Proof.Machine.execBufRelease x1 x2 s
  | .post x1 x2 => Sys2Proof.Machine.execPost x1 x2 s
  | .take x1 x2 => Sys2Proof.Machine.execTake x1 x2 s
  | .alloc x1 x2 => Sys2Proof.Machine.execAlloc x1 x2 s
  | .retain x1 x2 => Sys2Proof.Machine.execRetain x1 x2 s
  | .release x1 x2 => Sys2Proof.Machine.execRelease x1 x2 s
  | .mbxPost x1 x2 x3 => Sys2Proof.Machine.execMbxPost x1 x2 x3 s
  | .mbxLock x1 x2 => Sys2Proof.Machine.execMbxLock x1 x2 s
  | .mbxTake x1 x2 x3 => Sys2Proof.Machine.execMbxTake x1 x2 x3 s
  | .mbxRelease x1 x2 => Sys2Proof.Machine.execMbxRelease x1 x2 s
  | .mbxBreak x1 x2 => Sys2Proof.Machine.execMbxBreak x1 x2 s
  | .mbxCfg x1 x2 x3 => Sys2Proof.Machine.execMbxCfg x1 x2 x3 s
  | .caindWrite x1 x2 => Sys2Proof.Machine.execCaindWrite x1 x2 s
  | .caindReturn x1 x2 => Sys2Proof.Machine.execCaindReturn x1 x2 s
  | .caindPost x1 x2 => Sys2Proof.Machine.execCaindPost x1 x2 s
  | .caindRead x1 x2 => Sys2Proof.Machine.execCaindRead x1 x2 s
  | .caindReadData x1 x2 => Sys2Proof.Machine.execCaindReadData x1 x2 s
  | .caindAck x1 x2 => Sys2Proof.Machine.execCaindAck x1 x2 s
  | .caindColl x1 x2 => Sys2Proof.Machine.execCaindColl x1 x2 s
  | .caindNotice x1 x2 => Sys2Proof.Machine.execCaindNotice x1 x2 s
  | .forward x1 x2 => Sys2Proof.Machine.execForward x1 x2 s
  | .ackFlush x1 => Sys2Proof.Machine.execAckFlush x1 s
  | .txnTimeout x1 => Sys2Proof.Machine.execTxnTimeout x1 s
  | .frame x1 x2 => Sys2Proof.Machine.execFrame x1 x2 s
  | .replay x1 x2 => Sys2Proof.Machine.execReplay x1 x2 s
  | .cptEnable x1 x2 => Sys2Proof.Machine.execCptEnable x1 x2 s
  | .cptRetrain x1 => Sys2Proof.Machine.execCptRetrain x1 s
  | .portTrained x1 x2 => Sys2Proof.Machine.execPortTrained x1 x2 s
  | .portDown x1 x2 => Sys2Proof.Machine.execPortDown x1 x2 s
  | .admitJob x1 x2 => Sys2Proof.Machine.execAdmitJob x1 x2 s
  | .drain x1 => Sys2Proof.Machine.execDrain x1 s
  | .remove x1 => Sys2Proof.Machine.execRemove x1 s
  | .allReduce x1 x2 => Sys2Proof.Machine.execAllReduce x1 x2 s
  | .reduceScatter x1 x2 => Sys2Proof.Machine.execReduceScatter x1 x2 s
  | .allGather x1 x2 => Sys2Proof.Machine.execAllGather x1 x2 s
  | .allToAll x1 x2 => Sys2Proof.Machine.execAllToAll x1 x2 s
  | .broadcast x1 x2 => Sys2Proof.Machine.execBroadcast x1 x2 s
  | .mload x1 x2 => Sys2Proof.Machine.execMload x1 x2 s
  | .collSend x1 => Sys2Proof.Machine.execCollSend x1 s
  | .collTimeout x1 => Sys2Proof.Machine.execCollTimeout x1 s
  | .halterWrite x1 => Sys2Proof.Machine.execHalterWrite x1 s
  | .halterRead x1 => Sys2Proof.Machine.execHalterRead x1 s
  | .halterMalformed x1 => Sys2Proof.Machine.execHalterMalformed x1 s
  | .hltEnable x1 => Sys2Proof.Machine.execHltEnable x1 s
  | .hltRetrain => Sys2Proof.Machine.execHltRetrain s
  | .halterTrained x1 x2 x3 x4 x5 => Sys2Proof.Machine.execHalterTrained x1 x2 x3 x4 x5 s
  | .halterDown x1 => Sys2Proof.Machine.execHalterDown x1 s
  | .irqPendClear x1 x2 => Sys2Proof.Machine.execIrqPendClear x1 x2 s
  | .irqHost x1 x2 => Sys2Proof.Machine.execIrqHost x1 x2 s
  | .irqCpx x1 x2 => Sys2Proof.Machine.execIrqCpx x1 x2 s
  | .resetL => Sys2Proof.Machine.execResetL s
  | .tbpIn => Sys2Proof.Machine.execTbpIn s
  | .tbpOut => Sys2Proof.Machine.execTbpOut s
  | .holdover => Sys2Proof.Machine.execHoldover s
  | .tbsSet x1 => Sys2Proof.Machine.execTbsSet x1 s
  | .invArm => Sys2Proof.Machine.execInvArm s
  | .invCancel => Sys2Proof.Machine.execInvCancel s
  | .inventorySnapshot => Sys2Proof.Machine.execInventorySnapshot s
  | .sensorSample x1 x2 => Sys2Proof.Machine.execSensorSample x1 x2 s
  | .ledgerWrite => Sys2Proof.Machine.execLedgerWrite s
  | .i3cRead => Sys2Proof.Machine.execI3cRead s
  | .entdaa x1 => Sys2Proof.Machine.execEntdaa x1 s
  | .setdasa x1 => Sys2Proof.Machine.execSetdasa x1 s
  | .rstdaa => Sys2Proof.Machine.execRstdaa s
  | .enec x1 => Sys2Proof.Machine.execEnec x1 s
  | .disec x1 => Sys2Proof.Machine.execDisec x1 s
  | .getpid => Sys2Proof.Machine.execGetpid s
  | .getbcr => Sys2Proof.Machine.execGetbcr s
  | .getdcr => Sys2Proof.Machine.execGetdcr s
  | .getstatus => Sys2Proof.Machine.execGetstatus s
  | .getmwl => Sys2Proof.Machine.execGetmwl s
  | .getmrl => Sys2Proof.Machine.execGetmrl s
  | .ibi => Sys2Proof.Machine.execIbi s
  | .identify x1 x2 x3 => Sys2Proof.Machine.execIdentify x1 x2 x3 s
  | .health x1 x2 x3 => Sys2Proof.Machine.execHealth x1 x2 x3 s
  | .sensor x1 x2 x3 => Sys2Proof.Machine.execSensor x1 x2 x3 s
  | .ledger x1 x2 x3 => Sys2Proof.Machine.execLedger x1 x2 x3 s
  | .regRead x1 x2 x3 => Sys2Proof.Machine.execRegRead x1 x2 x3 s
  | .regWrite x1 x2 x3 => Sys2Proof.Machine.execRegWrite x1 x2 x3 s
  | .snapshot x1 x2 x3 => Sys2Proof.Machine.execSnapshot x1 x2 x3 s
  | .time x1 x2 x3 => Sys2Proof.Machine.execTime x1 x2 x3 s
  | .fwStage x1 x2 x3 => Sys2Proof.Machine.execFwStage x1 x2 x3 s
  | .fwStart x1 x2 x3 => Sys2Proof.Machine.execFwStart x1 x2 x3 s
  | .fwStatus x1 x2 x3 => Sys2Proof.Machine.execFwStatus x1 x2 x3 s
  | .resetFrame x1 x2 x3 => Sys2Proof.Machine.execResetFrame x1 x2 x3 s
  | .attest x1 => Sys2Proof.Machine.execAttest x1 s
  | .pubkey x1 => Sys2Proof.Machine.execPubkey x1 s
  | .keyInstall x1 => Sys2Proof.Machine.execKeyInstall x1 s
  | .setCurrent x1 => Sys2Proof.Machine.execSetCurrent x1 s
  | .retire x1 => Sys2Proof.Machine.execRetire x1 s
  | .rekey x1 => Sys2Proof.Machine.execRekey x1 s
  | .erase x1 => Sys2Proof.Machine.execErase x1 s
  | .aux12On => Sys2Proof.Machine.execAux12On s
  | .aux12Loss => Sys2Proof.Machine.execAux12Loss s
  | .mainUv => Sys2Proof.Machine.execMainUv s
  | .autoRestart => Sys2Proof.Machine.execAutoRestart s
  | .droop x1 => Sys2Proof.Machine.execDroop x1 s
  | .phaseAdd => Sys2Proof.Machine.execPhaseAdd s
  | .phaseShed => Sys2Proof.Machine.execPhaseShed s
  | .dvfsStep => Sys2Proof.Machine.execDvfsStep s
  | .thermStep => Sys2Proof.Machine.execThermStep s
  | .thermalTrip x1 => Sys2Proof.Machine.execThermalTrip x1 s
  | .gate x1 => Sys2Proof.Machine.execGate x1 s
  | .wake x1 => Sys2Proof.Machine.execWake x1 s
  | .wakeReady x1 => Sys2Proof.Machine.execWakeReady x1 s
  | .aclkIdle => Sys2Proof.Machine.execAclkIdle s
  | .active => Sys2Proof.Machine.execActive s
  | .standby => Sys2Proof.Machine.execStandby s
  | .aux => Sys2Proof.Machine.execAux s
  | .coldReset => Sys2Proof.Machine.execColdReset s
  | .moduleReset => Sys2Proof.Machine.execModuleReset s
  | .dieWarmReset => Sys2Proof.Machine.execDieWarmReset s
  | .clusterReset x1 => Sys2Proof.Machine.execClusterReset x1 s
  | .coreReset x1 => Sys2Proof.Machine.execCoreReset x1 s
  | .coreFence x1 x2 x3 => Sys2Proof.Machine.execCoreFence x1 x2 x3 s
  | .clusterFence x1 x2 x3 => Sys2Proof.Machine.execClusterFence x1 x2 x3 s
  | .fenceCore x1 => Sys2Proof.Machine.execFenceCore x1 s
  | .fenceCluster x1 => Sys2Proof.Machine.execFenceCluster x1 s
  | .fenceFuse x1 x2 x3 x4 => Sys2Proof.Machine.execFenceFuse x1 x2 x3 x4 s
  | .dieError x1 x2 => Sys2Proof.Machine.execDieError x1 x2 s
  | .dieHoldExpiry => Sys2Proof.Machine.execDieHoldExpiry s
  | .fltWdtKick x1 => Sys2Proof.Machine.execFltWdtKick x1 s
  | .wdt x1 => Sys2Proof.Machine.execWdt x1 s
  | .errInj x1 x2 => Sys2Proof.Machine.execErrInj x1 x2 s
  | .registerWrite x1 x2 x3 x4 x5 => Sys2Proof.Machine.execRegisterWrite x1 x2 x3 x4 x5 s
  | .cpxRequestDone => Sys2Proof.Machine.execCpxRequestDone s
  | .secRequestDone => Sys2Proof.Machine.execSecRequestDone s
  | .fwUpdateDone => Sys2Proof.Machine.execFwUpdateDone s
  | .bootComplete => Sys2Proof.Machine.execBootComplete s
  | .resetLRelease => Sys2Proof.Machine.execResetLRelease s
  | .tapInstruction x1 => Sys2Proof.Machine.execTapInstruction x1 s
  | .main48Applied => Sys2Proof.Machine.execMain48Applied s
  | .cmdqBase x1 x2 x3 => Sys2Proof.Machine.execCmdqBase x1 x2 x3 s
  | .cfbNode x1 => Sys2Proof.Machine.execCfbNode x1 s
  | .bpmTable x1 x2 => Sys2Proof.Machine.execBpmTable x1 x2 s
  | .resetDone x1 x2 => Sys2Proof.Machine.execResetDone x1 x2 s

end Sys2Proof.Machine
end

