-- ==== Sys2Proof/Safety.lean ====
section
/-!
DEFINITION. What claims are stated in: what every state of a run keeps of the fences, their fuses and the floors (R466, R467,
R528, R532, R533), how far each command reaches into the part, what an error report alone changes, and what a safe command is: one
that answers a next state.
-/

namespace Sys2Proof.Machine

/-! ## What every state keeps -/

/-- A fenced cluster's eight cores are fenced (R532). -/
def Fz.clustersHold (z : Fz) : Prop :=
  ∀ k, k < 64 → z.clFence.getLsbD k = true → ∀ j, j < 8 → z.coreFence.getLsbD (8 * k + j) = true

/-- A blown fuse of a unit fences it (R533). -/
def Fz.fusesHold (z : Fz) : Prop :=
  (∀ n, n < 512 → (z.coreFuseA ||| z.coreFuseB).getLsbD n = true → z.coreFence.getLsbD n = true) ∧
  (∀ k, k < 64 → (z.clFuseA ||| z.clFuseB).getLsbD k = true → z.clFence.getLsbD k = true)

/-- Five floors, none above 64 (R466). -/
def Fz.floorsHold (z : Fz) : Prop := z.floors.length = 5 ∧ ∀ f ∈ z.floors, f ≤ 64

/-- What every step keeps of the state that no reset clears. -/
def State.FuseInv (s : State) : Prop := s.chip.fz.clustersHold ∧ s.chip.fz.fusesHold ∧ s.chip.fz.floorsHold

/-- Every fence of z stands in w. -/
def Fz.fencesIn (z w : Fz) : Prop :=
  (∀ n, z.coreFence.getLsbD n = true → w.coreFence.getLsbD n = true) ∧
  (∀ k, z.clFence.getLsbD k = true → w.clFence.getLsbD k = true)

/-- Every blown fuse of z is blown in w. -/
def Fz.fusesIn (z w : Fz) : Prop :=
  (∀ n, z.coreFuseA.getLsbD n = true → w.coreFuseA.getLsbD n = true) ∧
  (∀ n, z.coreFuseB.getLsbD n = true → w.coreFuseB.getLsbD n = true) ∧
  (∀ k, z.clFuseA.getLsbD k = true → w.clFuseA.getLsbD k = true) ∧
  (∀ k, z.clFuseB.getLsbD k = true → w.clFuseB.getLsbD k = true)

/-- No floor of w lies below that of z. -/
def Fz.floorsIn (z w : Fz) : Prop := ∀ i, i < 5 → z.floors.getD i 0 ≤ w.floors.getD i 0

/-- Fences and fuses are the same. -/
def Fz.sameFences (z w : Fz) : Prop :=
  w.coreFence = z.coreFence ∧ w.clFence = z.clFence ∧ w.coreFuseA = z.coreFuseA ∧ w.coreFuseB = z.coreFuseB ∧
  w.clFuseA = z.clFuseA ∧ w.clFuseB = z.clFuseB

/-! ## How far a command reaches -/

/-- Kinds of commands by what of the part they can change. -/
inductive Reach where
  /-- Operations of a core's engines: cores, registers and reports. -/
  | engine
  /-- Commands of the die's units: all but time and what no reset clears. -/
  | die
  /-- Register writes and timed events: all but what no reset clears. -/
  | unit
  /-- Power, resets, the Ledger, security requests: fences and fuses are kept, floors only rise. -/
  | kept
  /-- Fences, frames and host packets, which may ask for a fence: fences only grow. -/
  | grown
  /-- FENCE_FUSE: fuses only grow. -/
  | fuses
  /-- AUX12_LOSS. -/
  | loss
  deriving DecidableEq, Repr

/-- How far each command reaches. -/
def reachOf : Instr → Reach
  | .cmdqTail _ _ => .unit
  | .dbTail _ _ _ => .die
  | .descRead _ => .die
  | .waitMet _ _ => .die
  | .waitExpired _ _ => .unit
  | .issue => .die
  | .heldStart _ _ => .die
  | .commandComplete _ _ => .die
  | .acctWindow => .unit
  | .kernel _ _ => .die
  | .kernelLoad _ _ => .die
  | .kernelPreload _ => .die
  | .kernelEnd _ => .unit
  | .bundle _ => .unit
  | .stepOp _ _ => .engine
  | .veAdd _ _ => .engine
  | .veSub _ _ => .engine
  | .veMul _ _ => .engine
  | .veFma _ _ => .engine
  | .veMin _ _ => .engine
  | .veMax _ _ => .engine
  | .veCmplt _ _ => .engine
  | .veSelect _ _ => .engine
  | .veMov _ _ => .engine
  | .veAct _ _ => .engine
  | .veRsum _ _ => .engine
  | .veRmax _ _ => .engine
  | .veRmin _ _ => .engine
  | .veArgmax _ _ => .engine
  | .veLsum _ _ => .engine
  | .veWiden _ _ => .engine
  | .veNarrow _ _ => .engine
  | .vePack _ _ => .engine
  | .spstep _ _ => .engine
  | .probe _ _ => .engine
  | .joinOp _ _ => .engine
  | .maskOp _ _ => .engine
  | .ldeLinear _ _ => .engine
  | .ldeStrided _ _ => .engine
  | .ldeIndexed _ _ => .engine
  | .ldeRuns _ _ => .engine
  | .steLinear _ _ => .engine
  | .steStrided _ _ => .engine
  | .steIndexed _ _ => .engine
  | .portTransfer _ => .die
  | .scuNop _ _ => .engine
  | .scuSet _ _ => .engine
  | .scuAdd _ _ => .engine
  | .scuSub _ _ => .engine
  | .ldp _ _ => .engine
  | .arm _ _ => .engine
  | .setk _ _ => .engine
  | .dbgResume _ => .die
  | .dbgStep _ => .die
  | .dbgHalt _ => .die
  | .vitMark _ _ => .unit
  | .vitClear _ => .unit
  | .vitRdIdx _ _ => .unit
  | .route _ _ => .die
  | .domainLoad _ _ => .die
  | .routeBias _ _ => .die
  | .laneDrain _ => .die
  | .lqTimeout _ => .unit
  | .chargeGrant _ => .die
  | .dispatch _ _ => .die
  | .retrn _ _ => .die
  | .cancel _ _ => .die
  | .combine _ _ => .die
  | .droverIssue _ => .die
  | .combineToken _ => .die
  | .arrivalApply _ => .die
  | .retTimeout _ => .unit
  | .copy _ _ => .die
  | .counterNop _ _ => .die
  | .setRange _ _ => .die
  | .readRange _ _ => .die
  | .cntSet _ _ => .die
  | .cntAdd _ _ => .die
  | .cmdqEnable _ => .unit
  | .cmdqDisable _ => .unit
  | .cmdqResume _ => .unit
  | .abortHead _ => .unit
  | .abortAll _ => .unit
  | .cmdqCfg _ _ => .unit
  | .feAdmit _ => .unit
  | .feSched _ => .unit
  | .swapCheck => .die
  | .swapDone => .unit
  | .ctxCreate _ => .unit
  | .ctxDestroy _ => .unit
  | .ctxSwapOut _ => .unit
  | .ctxSwapIn _ => .unit
  | .ctxQuery _ => .unit
  | .tilePin _ => .unit
  | .tileUnpin _ => .unit
  | .moveIn _ _ => .die
  | .moveOut _ _ => .die
  | .pin _ _ => .die
  | .unpin _ _ => .die
  | .clearPoison _ _ => .die
  | .setEnc _ _ => .die
  | .ttBind _ _ => .die
  | .ttUnbind _ _ => .die
  | .demandBind _ _ => .die
  | .demandUnbind _ _ => .die
  | .ttEntry _ _ => .die
  | .noticeWrite _ _ _ _ => .die
  | .moveClaim _ => .die
  | .moveComplete _ _ => .grown
  | .scrub _ => .die
  | .lpRefresh _ => .die
  | .lpRetrain _ => .die
  | .lpPowerDown _ => .die
  | .lpDeepSleep _ => .kept
  | .bpmCtrl _ _ => .unit
  | .bpmPoolCfg _ _ _ => .unit
  | .poolBuildDone _ _ => .die
  | .bufRetain _ _ => .die
  | .bufRelease _ _ => .die
  | .post _ _ => .die
  | .take _ _ => .die
  | .alloc _ _ => .die
  | .retain _ _ => .die
  | .release _ _ => .die
  | .mbxPost _ _ _ => .die
  | .mbxLock _ _ => .die
  | .mbxTake _ _ _ => .die
  | .mbxRelease _ _ => .die
  | .mbxBreak _ _ => .die
  | .mbxCfg _ _ _ => .unit
  | .caindWrite _ _ => .die
  | .caindReturn _ _ => .die
  | .caindPost _ _ => .die
  | .caindRead _ _ => .die
  | .caindReadData _ _ => .die
  | .caindAck _ _ => .die
  | .caindColl _ _ => .die
  | .caindNotice _ _ => .die
  | .forward _ _ => .grown
  | .ackFlush _ => .die
  | .txnTimeout _ => .unit
  | .frame l _ => (match l with | .caind _ => .die | .halter => .unit)
  | .replay l _ => (match l with | .caind _ => .die | .halter => .unit)
  | .cptEnable _ _ => .unit
  | .cptRetrain _ => .unit
  | .portTrained _ _ => .die
  | .portDown _ _ => .die
  | .admitJob _ _ => .unit
  | .drain _ => .unit
  | .remove _ => .unit
  | .allReduce _ _ => .die
  | .reduceScatter _ _ => .die
  | .allGather _ _ => .die
  | .allToAll _ _ => .die
  | .broadcast _ _ => .die
  | .mload _ _ => .die
  | .collSend _ => .die
  | .collTimeout _ => .unit
  | .halterWrite _ => .grown
  | .halterRead _ => .grown
  | .halterMalformed _ => .grown
  | .hltEnable _ => .unit
  | .hltRetrain => .unit
  | .halterTrained _ _ _ _ _ => .unit
  | .halterDown _ => .unit
  | .irqPendClear _ _ => .unit
  | .irqHost _ _ => .unit
  | .irqCpx _ _ => .unit
  | .resetL => .kept
  | .tbpIn => .unit
  | .tbpOut => .unit
  | .holdover => .unit
  | .tbsSet _ => .unit
  | .invArm => .unit
  | .invCancel => .unit
  | .inventorySnapshot => .unit
  | .sensorSample _ _ => .kept
  | .ledgerWrite => .kept
  | .i3cRead => .unit
  | .entdaa _ => .unit
  | .setdasa _ => .unit
  | .rstdaa => .unit
  | .enec _ => .unit
  | .disec _ => .unit
  | .getpid => .unit
  | .getbcr => .unit
  | .getdcr => .unit
  | .getstatus => .unit
  | .getmwl => .unit
  | .getmrl => .unit
  | .ibi => .unit
  | .identify _ _ _ => .grown
  | .health _ _ _ => .grown
  | .sensor _ _ _ => .grown
  | .ledger _ _ _ => .grown
  | .regRead _ _ _ => .grown
  | .regWrite _ _ _ => .grown
  | .snapshot _ _ _ => .grown
  | .time _ _ _ => .grown
  | .fwStage _ _ _ => .grown
  | .fwStart _ _ _ => .grown
  | .fwStatus _ _ _ => .grown
  | .resetFrame _ _ _ => .grown
  | .attest _ => .kept
  | .pubkey _ => .kept
  | .keyInstall _ => .kept
  | .setCurrent _ => .kept
  | .retire _ => .kept
  | .rekey _ => .kept
  | .erase _ => .kept
  | .aux12On => .kept
  | .aux12Loss => .loss
  | .mainUv => .kept
  | .autoRestart => .kept
  | .droop _ => .kept
  | .phaseAdd => .kept
  | .phaseShed => .kept
  | .dvfsStep => .kept
  | .thermStep => .kept
  | .thermalTrip _ => .kept
  | .gate _ => .die
  | .wake _ => .unit
  | .wakeReady _ => .unit
  | .aclkIdle => .kept
  | .active => .kept
  | .standby => .kept
  | .aux => .kept
  | .coldReset => .kept
  | .moduleReset => .kept
  | .dieWarmReset => .kept
  | .clusterReset _ => .kept
  | .coreReset _ => .kept
  | .coreFence _ _ _ => .grown
  | .clusterFence _ _ _ => .grown
  | .fenceCore _ => .grown
  | .fenceCluster _ => .grown
  | .fenceFuse _ _ _ _ => .fuses
  | .dieError _ _ => .die
  | .dieHoldExpiry => .kept
  | .fltWdtKick _ => .unit
  | .wdt _ => .unit
  | .errInj _ _ => .unit
  | .registerWrite _ _ _ _ _ => .grown
  | .cpxRequestDone => .unit
  | .secRequestDone => .kept
  | .fwUpdateDone => .kept
  | .bootComplete => .grown
  | .resetLRelease => .kept
  | .tapInstruction _ => .kept
  | .main48Applied => .kept
  | .cmdqBase _ _ _ => .unit
  | .cfbNode _ => .unit
  | .bpmTable _ _ => .unit
  | .resetDone _ _ => .kept

/-- What a command of a kind leaves of the part c in its next state d. -/
def Reach.keeps (r : Reach) (c d : Chip) : Prop :=
  match r with
  | .engine => d.fz = c.fz ∧ d.time = c.time ∧ d.pwr = c.pwr ∧ d.sec = c.sec ∧ d.hom = c.hom ∧ d.bm = c.bm ∧ d.rd = c.rd ∧
      d.fab = c.fab ∧ d.col = c.col
  | .die => d.fz = c.fz ∧ d.time = c.time
  | .unit => d.fz = c.fz
  | .kept => c.fz.sameFences d.fz ∧ (c.fz.floorsHold → c.fz.floorsIn d.fz ∧ d.fz.floorsHold)
  | .grown => c.fz.fencesIn d.fz ∧ c.fz.fusesIn d.fz ∧ (c.fz.floorsHold → c.fz.floorsIn d.fz ∧ d.fz.floorsHold)
  | .fuses => d.fz.coreFence = c.fz.coreFence ∧ d.fz.clFence = c.fz.clFence ∧ d.fz.floors = c.fz.floors ∧ c.fz.fusesIn d.fz
  | .loss => d.fz.floors = c.fz.floors ∧ c.fz.fusesIn d.fz

/-- What a command of a kind makes of c: a part e that keeps what the kind keeps, and then the consequences of the uncorrectable
errors that were found in between (R522); e itself where there were none. -/
def Reach.leads (r : Reach) (c d : Chip) : Prop :=
  ∃ e, r.keeps c e ∧ d = c.faultsGo e ∧ (e.flt.due = c.flt.due → d = e)

/-! ## Reports -/

/-- d differs from c only in what an error report or interrupt changes: registers, the free-value counter, vectors delivered to
the CPX, the Curator's buffer and the host link's queues. -/
structure Chip.Reports (c d : Chip) : Prop where
  fz : d.fz = c.fz
  time : d.time = c.time
  pwr : d.pwr = c.pwr
  flt : d.flt = c.flt
  sec : d.sec = c.sec
  hom : d.hom = c.hom
  bm : d.bm = c.bm
  core : d.core = c.core
  rd : d.rd = c.rd
  fab : d.fab = c.fab
  col : d.col = c.col
  fe : d.fe = { c.fe with fresh := d.fe.fresh, cpxIrqs := d.fe.cpxIrqs }
  sensors : d.cur.sensors = c.cur.sensors
  ledger : d.cur.up = c.cur.up

/-! ## Completion -/

/-- A command that does not stop the run. -/
def Completes (i : Instr) (s : State) : Prop := ∃ t, exec i s = .next t

/-- A command answers a next state with the same queue, whose part meets P. -/
def Answers (i : Instr) (s : State) (P : Chip → Prop) : Prop := ∃ t, exec i s = .next t ∧ t.pending = s.pending ∧ P t.chip

end Sys2Proof.Machine
end

