-- ==== Sys2Proof/Certificates/Slice0/Obligations.lean ====
section
/-!
DEFINITION. The statements for the provers. Each names the rule of spec/ that it formalises; `Answers i s P` says that command i
completes in state s with a next state whose part meets P.
-/

open Sys2Proof Sys2Proof.Machine

/-! ## The queue and the state after reset -/

/-- A step takes the front command and runs it with the queue's rest (the model's own queue, log 9). -/
def Obligations.StepRunsFront : Prop :=
  ∀ (s : State) (i : Instr) (rest : List Instr), s.pending = i :: rest → step s = exec i { s with pending := rest }

/-- With nothing waiting the block lets time pass (log 9): the queue stays empty, and fences, fuses and floors stand. -/
def Obligations.IdleStep : Prop :=
  ∀ s : State, s.pending = [] → ∃ t, step s = .next t ∧ t.pending = [] ∧ Reach.grown.keeps s.chip t.chip

/-- After reset every register holds its Reset column (R9), but for the six that a completed COLD boot has written (log 1). -/
def Obligations.ResetRegisters : Prop :=
  ∀ page off : Nat, off < 4096 → page * 4096 + off ∉ bootRegs.map Prod.fst →
    State.reset.chip.reg page off = regReset page off % 2 ^ 64

/-- The state after reset keeps its fence, fuse and floor rules (R466, R532, R533), with nothing fenced and no command waiting
(the model's reset state, log 1). -/
def Obligations.ResetFuseInv : Prop :=
  State.reset.FuseInv ∧ State.reset.chip.fz.coreFence = 0 ∧ State.reset.chip.fz.clFence = 0 ∧ State.reset.pending = []

/-! ## What every step keeps -/

/-- Every step keeps: a fenced cluster's cores are fenced (R532), a blown fuse's unit is fenced (R533), floors are 0 to 64 (R466). -/
def Obligations.StepKeepsFuseInv : Prop :=
  ∀ s t : State, s.FuseInv → step s = .next t → t.FuseInv

/-- A fence is lost by AUX12_LOSS alone (R533; that no reset ends one is the model's reading, log 25): no other command and no idle
step ends one. -/
def Obligations.FencesStand : Prop :=
  ∀ s t : State, step s = .next t → (∀ rest, s.pending ≠ .aux12Loss :: rest) → s.chip.fz.fencesIn t.chip.fz

/-- Fuses are one-time: no step, no reset and no loss of power clears one (R533), and no floor falls (R466, R467). -/
def Obligations.FusesAndFloorsStand : Prop :=
  ∀ s t : State, s.chip.fz.floorsHold → step s = .next t → s.chip.fz.fusesIn t.chip.fz ∧ s.chip.fz.floorsIn t.chip.fz

/-- Every command completes in every state, but for a sensor reading outside the absolute maximum ratings, for which R571 gives no
behaviour: that one stops the run. -/
def Obligations.EveryCommandCompletes : Prop :=
  (∀ (i : Instr) (s : State), (∀ n v, i = .sensorSample n (some v) → outsideRatings n v.toInt = false) →
    Answers i s (fun _ => True)) ∧
  (∀ (n : Fin 334) (v : BitVec 32) (s : State), outsideRatings n v.toInt = true →
    exec (.sensorSample n (some v)) s = .fault .outsideRatings)

/-! ## Each command's own effect -/

/-! Each of these says that the command answers the state of its operation, with the consequences of the errors that it found
(R522). -/

/-- Of the die's units. -/
def runsDie (s : State) (i : Instr) (f : Chip → Chip) : Prop :=
  exec i s = .next { s with chip := s.chip.faultsGo (keepDie s.chip (f s.chip).ctxRefresh) }
/-- Of a core's engines. -/
def runsEng (s : State) (i : Instr) (f : Chip → Chip) : Prop :=
  exec i s = .next { s with chip := s.chip.faultsGo (keepEngine s.chip (f s.chip)) }
/-- At its time. -/
def runsTimed (s : State) (i : Instr) (due : Chip → Nat) (f : Chip → Chip) : Prop :=
  exec i s = .next { s with chip := s.chip.faultsGo (keepFz s.chip (f (s.chip.passTo (due s.chip))).ctxRefresh) }
/-- Of a register of a page. -/
def runsPage (s : State) (i : Instr) (f : Chip → Chip) : Prop :=
  exec i s = .next { s with chip := s.chip.faultsGo (keepFz s.chip (f s.chip).ctxRefresh) }
/-- Of the always-on domain. -/
def runsAon (s : State) (i : Instr) (f : Chip → Chip) : Prop :=
  exec i s = .next { s with chip := s.chip.faultsGo (keepFz s.chip (f s.chip)) }
/-- Of power, clocks or reset. -/
def runsPower (s : State) (i : Instr) (f : Chip → Chip) : Prop :=
  exec i s = .next { s with chip := s.chip.faultsGo (keepFences s.chip (f s.chip)).healthGo }
/-- Of what the Curator's flash or the fuses hold. -/
def runsStore (s : State) (i : Instr) (f : Chip → Chip) : Prop :=
  exec i s = .next { s with chip := s.chip.faultsGo (keepFences s.chip (f s.chip)).ctxRefresh }
/-- Served by the Curator, a frame or the host link, with what it sets off. -/
def runsServed (s : State) (i : Instr) (f : Chip → Chip × Act) : Prop :=
  exec i s = .next { s with chip := s.chip.faultsGo ((keepFences s.chip (f s.chip).1).actsGo (f s.chip).2).ctxRefresh }

/-- Each command of the front-end (R239 to R286) completes with its own
operation's effect, where its part of the chip works. -/
def Obligations.FrontRows : Prop :=
  ∀ s : State,
    (s.dieOn = true →
      (∀ (q : Fin 264) (v : BitVec 64) (wide : Bool), runsDie s (.dbTail q v wide) (fun c => c.cmdqTail q (v.setWidth 32))) ∧
      (∀ (q : Fin 264), runsDie s (.descRead q) (fun c => c.descRead q)) ∧
      (∀ (q : Fin 264) (k : Fin 4), runsDie s (.waitMet q k) (fun c => c.waitMet q k)) ∧
      (∀ (q : Fin 264) (k : Fin 4), runsTimed s (.waitExpired q k) (fun c => c.waitDue q k) (fun c => c.waitExpired q k)) ∧
      (runsDie s .issue (fun c => c.issue)) ∧
      (∀ (q : Fin 264) (i : BitVec 32), runsDie s (.heldStart q i) (fun c => c.heldStart q i)) ∧
      (∀ (q : Fin 264) (i : BitVec 32), runsDie s (.commandComplete q i) (fun c => c.commandComplete q i)) ∧
      (runsTimed s .acctWindow (fun c => c.acctDue) (fun c => c.acctWindow)) ∧
      (∀ (q : Fin 264) (i : BitVec 32), runsDie s (.copy q i) (fun c => c.copyCmd q i)) ∧
      (∀ (q : Fin 264) (i : BitVec 32), runsDie s (.counterNop q i) (fun c => c.counterNop q i)) ∧
      (∀ (q : Fin 264) (i : BitVec 32), runsDie s (.setRange q i) (fun c => c.setRange q i)) ∧
      (∀ (q : Fin 264) (i : BitVec 32), runsDie s (.readRange q i) (fun c => c.readRange q i)) ∧
      (∀ (k : Fin 65536) (v : BitVec 32), runsDie s (.cntSet k v) (fun c => c.ctrSet k v.toNat)) ∧
      (∀ (k : Fin 65536) (v : BitVec 32), runsDie s (.cntAdd k v) (fun c => c.ctrAdd k v.toNat)) ∧
      (runsDie s .swapCheck (fun c => c.swapCheck)) ∧
      (runsTimed s .swapDone (fun c => c.swapDue) (fun c => c.swapDone)) ∧
      (runsTimed s .cpxRequestDone (fun c => c.cpxDue) (fun c => c.cpxRequestDone))) ∧
    (∀ (q : Fin 264) (tail : BitVec 32), s.chip.pageLive (cmdqPage q) = true →
      runsPage s (.cmdqTail q tail) (fun c => c.cmdqTail q tail)) ∧
    (∀ (q : Fin 264), s.chip.pageLive (cmdqPage q) = true → runsPage s (.cmdqEnable q) (fun c => c.cmdqEnable q)) ∧
    (∀ (q : Fin 264), s.chip.pageLive (cmdqPage q) = true → runsPage s (.cmdqDisable q) (fun c => c.cmdqDisable q)) ∧
    (∀ (q : Fin 264), s.chip.pageLive (cmdqPage q) = true → runsPage s (.cmdqResume q) (fun c => c.cmdqResume q)) ∧
    (∀ (q : Fin 264), s.chip.pageLive (cmdqPage q) = true → runsPage s (.abortHead q) (fun c => c.abortHead q)) ∧
    (∀ (q : Fin 264), s.chip.pageLive (cmdqPage q) = true → runsPage s (.abortAll q) (fun c => c.abortAll q)) ∧
    (∀ (q : Fin 264) (v : BitVec 64), s.chip.pageLive (cmdqPage q) = true →
      runsPage s (.cmdqCfg q v) (fun c => c.cmdqCfg q v.toNat)) ∧
    (∀ (v : BitVec 32), s.chip.pageLive pgFE = true → runsPage s (.feAdmit v) (fun c => c.feAdmit v.toNat)) ∧
    (∀ (v : BitVec 32), s.chip.pageLive pgFE = true → runsPage s (.feSched v) (fun c => c.feSched v.toNat)) ∧
    (∀ (addr : BitVec 46), s.chip.pageLive pgCPX = true → runsPage s (.ctxCreate addr) (fun c => c.cpxRow 1 addr.toNat)) ∧
    (∀ (addr : BitVec 46), s.chip.pageLive pgCPX = true → runsPage s (.ctxDestroy addr) (fun c => c.cpxRow 2 addr.toNat)) ∧
    (∀ (addr : BitVec 46), s.chip.pageLive pgCPX = true → runsPage s (.ctxSwapOut addr) (fun c => c.cpxRow 3 addr.toNat)) ∧
    (∀ (addr : BitVec 46), s.chip.pageLive pgCPX = true → runsPage s (.ctxSwapIn addr) (fun c => c.cpxRow 4 addr.toNat)) ∧
    (∀ (addr : BitVec 46), s.chip.pageLive pgCPX = true → runsPage s (.ctxQuery addr) (fun c => c.cpxRow 5 addr.toNat)) ∧
    (∀ (addr : BitVec 46), s.chip.pageLive pgCPX = true → runsPage s (.tilePin addr) (fun c => c.cpxRow 6 addr.toNat)) ∧
    (∀ (addr : BitVec 46), s.chip.pageLive pgCPX = true → runsPage s (.tileUnpin addr) (fun c => c.cpxRow 7 addr.toNat)) ∧
    (∀ (q : Fin 264) (cpl : Bool) (v : BitVec 64), s.chip.pageLive (cmdqPage q) = true →
      runsPage s (.cmdqBase q cpl v) (fun c => c.cmdqBase q cpl v.toNat))

/-- Each command of kernels and the engines of a core (R111 to R238) completes with its own
operation's effect, where its part of the chip works. -/
def Obligations.CoreRows : Prop :=
  ∀ s : State,
    (s.dieOn = true →
      (∀ (q : Fin 264) (i : BitVec 32), runsDie s (.kernel q i) (fun c => c.kernel q i)) ∧
      (∀ (q : Fin 264) (i : BitVec 32), runsDie s (.kernelLoad q i) (fun c => c.kernelLoad q i)) ∧
      (∀ (n : Fin 512), runsDie s (.kernelPreload n) (fun c => c.kernelPreload n)) ∧
      (∀ (n : Fin 512), runsTimed s (.kernelEnd n) (fun c => c.seqDue n) (fun c => (c.coreStart n).kernelEnd n)) ∧
      (∀ (n : Fin 512), runsTimed s (.bundle n) (fun c => c.seqDue n) (fun c => (c.coreStart n).bundle n)) ∧
      (∀ (n : Fin 512) (slot : BitVec 64),
        runsEng s (.stepOp n slot) (fun c => c.slotOp n (fun d => d.mtIssue n (d.coreOf n).b (setBits slot.toNat 63 60 0)))) ∧
      (∀ (n : Fin 512) (slot : BitVec 64), runsEng s (.veAdd n slot) (fun c => c.veRow n 0 slot.toNat)) ∧
      (∀ (n : Fin 512) (slot : BitVec 64), runsEng s (.veSub n slot) (fun c => c.veRow n 1 slot.toNat)) ∧
      (∀ (n : Fin 512) (slot : BitVec 64), runsEng s (.veMul n slot) (fun c => c.veRow n 2 slot.toNat)) ∧
      (∀ (n : Fin 512) (slot : BitVec 64), runsEng s (.veFma n slot) (fun c => c.veRow n 3 slot.toNat)) ∧
      (∀ (n : Fin 512) (slot : BitVec 64), runsEng s (.veMin n slot) (fun c => c.veRow n 4 slot.toNat)) ∧
      (∀ (n : Fin 512) (slot : BitVec 64), runsEng s (.veMax n slot) (fun c => c.veRow n 5 slot.toNat)) ∧
      (∀ (n : Fin 512) (slot : BitVec 64), runsEng s (.veCmplt n slot) (fun c => c.veRow n 6 slot.toNat)) ∧
      (∀ (n : Fin 512) (slot : BitVec 64), runsEng s (.veSelect n slot) (fun c => c.veRow n 7 slot.toNat)) ∧
      (∀ (n : Fin 512) (slot : BitVec 64), runsEng s (.veMov n slot) (fun c => c.veRow n 8 slot.toNat)) ∧
      (∀ (n : Fin 512) (slot : BitVec 64), runsEng s (.veAct n slot) (fun c => c.veRow n 9 slot.toNat)) ∧
      (∀ (n : Fin 512) (slot : BitVec 64), runsEng s (.veRsum n slot) (fun c => c.veRow n 10 slot.toNat)) ∧
      (∀ (n : Fin 512) (slot : BitVec 64), runsEng s (.veRmax n slot) (fun c => c.veRow n 11 slot.toNat)) ∧
      (∀ (n : Fin 512) (slot : BitVec 64), runsEng s (.veRmin n slot) (fun c => c.veRow n 12 slot.toNat)) ∧
      (∀ (n : Fin 512) (slot : BitVec 64), runsEng s (.veArgmax n slot) (fun c => c.veRow n 13 slot.toNat)) ∧
      (∀ (n : Fin 512) (slot : BitVec 64), runsEng s (.veLsum n slot) (fun c => c.veRow n 14 slot.toNat)) ∧
      (∀ (n : Fin 512) (slot : BitVec 64), runsEng s (.veWiden n slot) (fun c => c.veRow n 15 slot.toNat)) ∧
      (∀ (n : Fin 512) (slot : BitVec 64), runsEng s (.veNarrow n slot) (fun c => c.veRow n 16 slot.toNat)) ∧
      (∀ (n : Fin 512) (slot : BitVec 64), runsEng s (.vePack n slot) (fun c => c.veRow n 17 slot.toNat)) ∧
      (∀ (n : Fin 512) (slot : BitVec 64),
        runsEng s (.spstep n slot) (fun c => c.slotOp n (fun d => d.siuIssue n (d.coreOf n).b (setBits slot.toNat 63 60 0)))) ∧
      (∀ (n : Fin 512) (slot : BitVec 64),
        runsEng s (.probe n slot) (fun c => c.slotOp n (fun d => d.siuIssue n (d.coreOf n).b (setBits slot.toNat 63 60 1)))) ∧
      (∀ (n : Fin 512) (slot : BitVec 64),
        runsEng s (.joinOp n slot) (fun c => c.slotOp n (fun d => d.siuIssue n (d.coreOf n).b (setBits slot.toNat 63 60 2)))) ∧
      (∀ (n : Fin 512) (slot : BitVec 64),
        runsEng s (.maskOp n slot) (fun c => c.slotOp n (fun d => d.siuIssue n (d.coreOf n).b (setBits slot.toNat 63 60 3)))) ∧
      (∀ (n : Fin 512) (slot : BitVec 64), runsEng s (.ldeLinear n slot) (fun c => c.xferRow n 3 0 slot.toNat)) ∧
      (∀ (n : Fin 512) (slot : BitVec 64), runsEng s (.ldeStrided n slot) (fun c => c.xferRow n 3 1 slot.toNat)) ∧
      (∀ (n : Fin 512) (slot : BitVec 64), runsEng s (.ldeIndexed n slot) (fun c => c.xferRow n 3 2 slot.toNat)) ∧
      (∀ (n : Fin 512) (slot : BitVec 64), runsEng s (.ldeRuns n slot) (fun c => c.xferRow n 3 3 slot.toNat)) ∧
      (∀ (n : Fin 512) (slot : BitVec 64), runsEng s (.steLinear n slot) (fun c => c.xferRow n 4 0 slot.toNat)) ∧
      (∀ (n : Fin 512) (slot : BitVec 64), runsEng s (.steStrided n slot) (fun c => c.xferRow n 4 1 slot.toNat)) ∧
      (∀ (n : Fin 512) (slot : BitVec 64), runsEng s (.steIndexed n slot) (fun c => c.xferRow n 4 2 slot.toNat)) ∧
      (∀ (n : Fin 512), runsDie s (.portTransfer n) (fun c => c.portTransfer n)) ∧
      (∀ (n : Fin 512) (slot : BitVec 64), runsEng s (.scuNop n slot) (fun c => c.scuRow n 0 slot.toNat)) ∧
      (∀ (n : Fin 512) (slot : BitVec 64), runsEng s (.scuSet n slot) (fun c => c.scuRow n 1 slot.toNat)) ∧
      (∀ (n : Fin 512) (slot : BitVec 64), runsEng s (.scuAdd n slot) (fun c => c.scuRow n 2 slot.toNat)) ∧
      (∀ (n : Fin 512) (slot : BitVec 64), runsEng s (.scuSub n slot) (fun c => c.scuRow n 3 slot.toNat)) ∧
      (∀ (n : Fin 512) (slot : BitVec 64), runsEng s (.ldp n slot) (fun c => c.scuRow n 4 slot.toNat)) ∧
      (∀ (n : Fin 512) (slot : BitVec 64), runsEng s (.arm n slot) (fun c => c.scuRow n 5 slot.toNat)) ∧
      (∀ (n : Fin 512) (slot : BitVec 64), runsEng s (.setk n slot) (fun c => c.scuRow n 6 slot.toNat)) ∧
      (∀ (n : Fin 512), runsDie s (.dbgResume n) (fun c => c.dbgResume n)) ∧
      (∀ (n : Fin 512), runsDie s (.dbgStep n) (fun c => c.dbgStep n)) ∧
      (∀ (n : Fin 512), runsDie s (.dbgHalt n) (fun c => c.dbgHalt n))) ∧
    (∀ (c : Fin 64) (v : BitVec 32), s.chip.pageLive (pgVIT c) = true →
      runsPage s (.vitMark c v) (fun d => d.vitMark c v.toNat)) ∧
    (∀ (c : Fin 64), s.chip.pageLive (pgVIT c) = true → runsPage s (.vitClear c) (fun d => d.vitClear c)) ∧
    (∀ (c : Fin 64) (i : Fin 16384), s.chip.pageLive (pgVIT c) = true → runsPage s (.vitRdIdx c i) (fun d => d.vitRead c i))

/-- Each command of routing, dispatch, combine, memory tiers, buffers and mailboxes (R28 to R110, R287 to R346) completes with its own
operation's effect, where its part of the chip works. -/
def Obligations.RouteMemoryRows : Prop :=
  ∀ s : State,
    (s.dieOn = true →
      (∀ (q : Fin 264) (i : BitVec 32), runsDie s (.route q i) (fun c => c.route q i)) ∧
      (∀ (q : Fin 264) (i : BitVec 32), runsDie s (.domainLoad q i) (fun c => c.domainLoad q i)) ∧
      (∀ (q : Fin 264) (i : BitVec 32), runsDie s (.routeBias q i) (fun c => c.routeBias q i)) ∧
      (∀ (c : Fin 64), runsDie s (.laneDrain c) (fun d => d.laneDrain c)) ∧
      (∀ (c : Fin 64), runsTimed s (.lqTimeout c) (fun d => d.lqDue c) (fun d => d.lqTimeout c)) ∧
      (∀ (c : Fin 64), runsDie s (.chargeGrant c) (fun d => d.chargeGrant c)) ∧
      (∀ (q : Fin 264) (i : BitVec 32), runsDie s (.dispatch q i) (fun c => c.dispatch q i)) ∧
      (∀ (q : Fin 264) (i : BitVec 32), runsDie s (.retrn q i) (fun c => c.retrn q i)) ∧
      (∀ (q : Fin 264) (i : BitVec 32), runsDie s (.cancel q i) (fun c => c.cancel q i)) ∧
      (∀ (q : Fin 264) (i : BitVec 32), runsDie s (.combine q i) (fun c => c.combine q i)) ∧
      (∀ (c : Fin 64), runsDie s (.droverIssue c) (fun d => d.droverIssue c)) ∧
      (∀ (w : Fin 64), runsDie s (.combineToken w) (fun c => c.combineToken w)) ∧
      (∀ (w : Fin 64), runsDie s (.arrivalApply w) (fun c => c.arrivalApply w)) ∧
      (∀ (w : Fin 64), runsTimed s (.retTimeout w) (fun c => c.retDue w) (fun c => c.retTimeout w)) ∧
      (∀ (q : Fin 264) (i : BitVec 32), runsDie s (.moveIn q i) (fun c => c.moveIn q i)) ∧
      (∀ (q : Fin 264) (i : BitVec 32), runsDie s (.moveOut q i) (fun c => c.moveOut q i)) ∧
      (∀ (q : Fin 264) (i : BitVec 32), runsDie s (.pin q i) (fun c => c.tmPin q i)) ∧
      (∀ (q : Fin 264) (i : BitVec 32), runsDie s (.unpin q i) (fun c => c.tmUnpin q i)) ∧
      (∀ (q : Fin 264) (i : BitVec 32), runsDie s (.clearPoison q i) (fun c => c.tmClearPoison q i)) ∧
      (∀ (q : Fin 264) (i : BitVec 32), runsDie s (.setEnc q i) (fun c => c.tmSetEnc q i)) ∧
      (∀ (q : Fin 264) (i : BitVec 32), runsDie s (.ttBind q i) (fun c => c.ttBind q i)) ∧
      (∀ (q : Fin 264) (i : BitVec 32), runsDie s (.ttUnbind q i) (fun c => c.ttUnbind q i)) ∧
      (∀ (q : Fin 264) (i : BitVec 32), runsDie s (.demandBind q i) (fun c => c.demandBind q i)) ∧
      (∀ (q : Fin 264) (i : BitVec 32), runsDie s (.demandUnbind q i) (fun c => c.demandUnbind q i)) ∧
      (∀ (sh : Fin 16) (x : BitVec 8), runsDie s (.ttEntry sh x) (fun c => c.ttEntry sh x.toNat)) ∧
      (∀ (job : BitVec 16) (node : BitVec 18) (addr : BitVec 46) (data : List (BitVec 8)),
        runsDie s (.noticeWrite job node addr data) (fun c => c.noticeRow job.toNat node.toNat addr.toNat data)) ∧
      (∀ (sh : Fin 16), runsDie s (.moveClaim sh) (fun c => c.claimRow sh)) ∧
      (∀ (sh : Fin 16), runsDie s (.scrub sh) (fun c => c.scrub sh)) ∧
      (∀ (sh : Fin 16), runsDie s (.lpRefresh sh) (fun c => c.lpRefresh sh)) ∧
      (∀ (sh : Fin 16), runsDie s (.lpRetrain sh) (fun c => c.lpRetrain sh)) ∧
      (∀ p : LpCh, runsDie s (.lpPowerDown p) (fun c => c.lpPowerDown p.shu p.ch)) ∧
      (∀ (c : Fin 64) (p : Fin 32), runsDie s (.poolBuildDone c p) (fun d => d.poolBuildDone c p)) ∧
      (∀ (who : Poster) (h : BitVec 32), runsDie s (.bufRetain who h) (fun c => (c.bufRetain h.toNat none 0).2)) ∧
      (∀ (who : Poster) (h : BitVec 32), runsDie s (.bufRelease who h) (fun c => (c.bufRelease h.toNat none 0).2)) ∧
      (∀ (q : Fin 264) (i : BitVec 32), runsDie s (.post q i) (fun c => c.post q i)) ∧
      (∀ (q : Fin 264) (i : BitVec 32), runsDie s (.take q i) (fun c => c.take q i)) ∧
      (∀ (q : Fin 264) (i : BitVec 32), runsDie s (.alloc q i) (fun c => c.alloc q i)) ∧
      (∀ (q : Fin 264) (i : BitVec 32), runsDie s (.retain q i) (fun c => c.retain q i)) ∧
      (∀ (q : Fin 264) (i : BitVec 32), runsDie s (.release q i) (fun c => c.release q i)) ∧
      (∀ (who : Poster) (b : Fin 3072) (post : BitVec 128),
        runsDie s (.mbxPost who b post) (fun c => (c.mbxPost b (bits post.toNat 63 0) (bits post.toNat 79 64) (c.posterId who).1 (c.posterId who).2 false).2)) ∧
      (∀ (who : Poster) (b : Fin 3072), runsDie s (.mbxLock who b) (fun c => (c.mbxLock (lockNo who) b).2)) ∧
      (∀ (who : Poster) (b : Fin 3072) (seq : BitVec 16),
        runsDie s (.mbxTake who b seq) (fun c => c.mbxTake (lockNo who) b seq.toNat)) ∧
      (∀ (who : Poster) (b : Fin 3072), runsDie s (.mbxRelease who b) (fun c => c.mbxRelease (lockNo who) b)) ∧
      (∀ (who : Poster) (b : Fin 3072), runsDie s (.mbxBreak who b) (fun c => c.mbxBreak b))) ∧
    (∀ (c : Fin 64) (v : BitVec 32), s.chip.pageLive (pgBPM c) = true →
      runsPage s (.bpmCtrl c v) (fun d => d.bpmCtrl c v.toNat)) ∧
    (∀ (c : Fin 64) (p : Fin 32) (v : BitVec 64), s.chip.pageLive (pgBPM c) = true →
      runsPage s (.bpmPoolCfg c p v) (fun d => d.bpmPoolCfg c p v.toNat)) ∧
    (∀ (c : Fin 64) (i : Fin 48) (v : BitVec 32), s.chip.pageLive (pgMBX c) = true →
      runsPage s (.mbxCfg c i v) (fun d => d.mbxCfgWrite c i v.toNat)) ∧
    (∀ (c : Fin 64) (v : BitVec 64), s.chip.pageLive (pgBPM c) = true →
      runsPage s (.bpmTable c v) (fun d => d.bpmTable c v.toNat)) ∧
    (∀ (sh : Fin 16) (tile : Fin 25165824),
      runsServed s (.moveComplete sh tile) (fun c => (if s.dieOn then (keepFz c (c.moveComplete sh tile).tilesMoved) else c, .none))) ∧
    (∀ (sh : Fin 16), runsPower s (.lpDeepSleep sh) (fun c => (c.passTo (c.sleepDue sh)).lpDeepSleep sh))

/-- Each command of the Caind fabric and collectives (R347 to R436) completes with its own
operation's effect, where its part of the chip works. -/
def Obligations.FabricRows : Prop :=
  ∀ s : State,
    (s.dieOn = true →
      (∀ (p : Fin 16) (pkt : Pkt), runsDie s (.caindWrite p pkt) (fun c => c.caind p 0 pkt.hdr pkt.data)) ∧
      (∀ (p : Fin 16) (pkt : Pkt), runsDie s (.caindReturn p pkt) (fun c => c.caind p 1 pkt.hdr pkt.data)) ∧
      (∀ (p : Fin 16) (pkt : Pkt), runsDie s (.caindPost p pkt) (fun c => c.caind p 2 pkt.hdr pkt.data)) ∧
      (∀ (p : Fin 16) (pkt : Pkt), runsDie s (.caindRead p pkt) (fun c => c.caind p 3 pkt.hdr pkt.data)) ∧
      (∀ (p : Fin 16) (pkt : Pkt), runsDie s (.caindReadData p pkt) (fun c => c.caind p 4 pkt.hdr pkt.data)) ∧
      (∀ (p : Fin 16) (pkt : Pkt), runsDie s (.caindAck p pkt) (fun c => c.caind p 5 pkt.hdr pkt.data)) ∧
      (∀ (p : Fin 16) (pkt : Pkt), runsDie s (.caindColl p pkt) (fun c => c.caind p 6 pkt.hdr pkt.data)) ∧
      (∀ (p : Fin 16) (pkt : Pkt), runsDie s (.caindNotice p pkt) (fun c => c.caind p 7 pkt.hdr pkt.data)) ∧
      (∀ (node : BitVec 18), runsDie s (.ackFlush node) (fun c => c.ackFlush node.toNat)) ∧
      (∀ (t : Fin 16384), runsTimed s (.txnTimeout t) (fun c => c.txnDue t) (fun c => (c.txnTimeout t).unitsGo)) ∧
      (∀ (p : Fin 16) (f : FrameIn), runsDie s (.frame (.caind p) f) (fun c => (c.portFrame p f).healthGo)) ∧
      (∀ (p : Fin 16) (ack : BitVec 16), runsDie s (.replay (.caind p) ack) (fun c => (c.portReplay p ack.toNat).healthGo)) ∧
      (∀ (p : Fin 16) (peer : PortPeer), runsDie s (.portTrained p peer) (fun c => (c.portTrained p peer).healthGo)) ∧
      (∀ (p : Fin 16) (lanes : BitVec 8),
        runsDie s (.portDown p lanes) (fun c => ((c.portDown p lanes.toNat).unitsGo).healthGo)) ∧
      (∀ (q : Fin 264) (i : BitVec 32), runsDie s (.allReduce q i) (fun c => c.allReduce q i)) ∧
      (∀ (q : Fin 264) (i : BitVec 32), runsDie s (.reduceScatter q i) (fun c => c.reduceScatter q i)) ∧
      (∀ (q : Fin 264) (i : BitVec 32), runsDie s (.allGather q i) (fun c => c.allGather q i)) ∧
      (∀ (q : Fin 264) (i : BitVec 32), runsDie s (.allToAll q i) (fun c => c.allToAll q i)) ∧
      (∀ (q : Fin 264) (i : BitVec 32), runsDie s (.broadcast q i) (fun c => c.broadcast q i)) ∧
      (∀ (q : Fin 264) (i : BitVec 32), runsDie s (.mload q i) (fun c => c.mload q i)) ∧
      (∀ (sl : Fin 64), runsDie s (.collSend sl) (fun c => c.collSend sl)) ∧
      (∀ (sl : Fin 64), runsTimed s (.collTimeout sl) (fun c => c.collDue sl) (fun c => c.collTimeout sl))) ∧
    (∀ (p : Fin 16) (pkt : Pkt),
      runsServed s (.forward p pkt) (fun c => if c.pwr.st = .active then c.forwardRow p pkt.hdr pkt.data else (c, .none))) ∧
    (s.chip.pwr.aux12 = true →
      (∀ f : FrameIn, runsAon s (.frame .halter f) (fun c => (c.hltFrame f).healthGo)) ∧
      (∀ ack : BitVec 16, runsAon s (.replay .halter ack) (fun c => (c.hltReplay ack.toNat).healthGo))) ∧
    (∀ (p : Fin 16) (v : BitVec 32), s.chip.pageLive (pgCPT p) = true →
      runsPage s (.cptEnable p v) (fun c => (c.cptEnable p v.toNat).healthGo)) ∧
    (∀ (p : Fin 16), s.chip.pageLive (pgCPT p) = true → runsPage s (.cptRetrain p) (fun c => (c.cptRetrain p).healthGo)) ∧
    (∀ (job : BitVec 12) (gen : BitVec 4), s.chip.pageLive pgCFB = true →
      runsPage s (.admitJob job gen) (fun c => c.admitJob job.toNat gen.toNat)) ∧
    (∀ (job : BitVec 12), s.chip.pageLive pgCFB = true → runsPage s (.drain job) (fun c => c.drain job.toNat)) ∧
    (∀ (job : BitVec 12), s.chip.pageLive pgCFB = true → runsPage s (.remove job) (fun c => (c.remove job.toNat).unitsGo)) ∧
    (∀ (v : BitVec 32), s.chip.pageLive pgCFB = true → runsPage s (.cfbNode v) (fun c => c.cfbWrite 0x200 v.toNat))

/-- Each command of the host link, management and security (R437 to R489) completes with its own
operation's effect, where its part of the chip works. -/
def Obligations.HostRows : Prop :=
  ∀ s : State,
    (s.dieOn = true →
      (∀ (addr : BitVec 46), runsStore s (.attest addr) (fun c => c.secRow 1 addr.toNat)) ∧
      (∀ (addr : BitVec 46), runsStore s (.pubkey addr) (fun c => c.secRow 2 addr.toNat)) ∧
      (∀ (addr : BitVec 46), runsStore s (.keyInstall addr) (fun c => c.secRow 3 addr.toNat)) ∧
      (∀ (addr : BitVec 46), runsStore s (.setCurrent addr) (fun c => c.secRow 4 addr.toNat)) ∧
      (∀ (addr : BitVec 46), runsStore s (.retire addr) (fun c => c.secRow 5 addr.toNat)) ∧
      (∀ (addr : BitVec 46), runsStore s (.rekey addr) (fun c => c.secRow 6 addr.toNat)) ∧
      (∀ (addr : BitVec 46), runsStore s (.erase addr) (fun c => c.secRow 7 addr.toNat)) ∧
      (runsStore s .secRequestDone (fun c => (c.passTo c.secDue).secRequestDone))) ∧
    (s.chip.pwr.aux12 = true →
      (∀ (fail : BitVec 2) (ha8 : Bool) (version : BitVec 16) (htags : BitVec 11) (lanes : BitVec 8),
        runsAon s (.halterTrained fail ha8 version htags lanes) (fun c => c.hltTrained fail ha8 version htags lanes)) ∧
      (∀ (lanes : BitVec 8), runsAon s (.halterDown lanes) (fun c => c.hltDown lanes)) ∧
      (runsAon s .tbpIn (fun c => c.tbpIn)) ∧
      (runsAon s .tbpOut (fun c => (c.passTo c.pulseDue).tbpOut)) ∧
      (runsAon s .holdover (fun c => (c.passTo c.holdoverDue).holdover)) ∧
      (runsAon s .inventorySnapshot (fun c => (c.passTo c.snapDue).snapshot)) ∧
      (runsStore s .ledgerWrite (fun c => c.ledgerWrite)) ∧
      (runsAon s .i3cRead (fun c => c.i3cRead)) ∧
      (∀ (a : BitVec 7), runsAon s (.entdaa a) (fun c => c.i3cAddr a)) ∧
      (∀ (a : BitVec 7), runsAon s (.setdasa a) (fun c => c.i3cAddr a)) ∧
      (runsAon s .rstdaa (fun c => { c with cur.dynAddr := none })) ∧
      (∀ (events : BitVec 8), runsAon s (.enec events) (fun c => c.i3cEvents true events)) ∧
      (∀ (events : BitVec 8), runsAon s (.disec events) (fun c => c.i3cEvents false events)) ∧
      (runsAon s .getpid (fun c => c.i3cDrive Config.i3cPid)) ∧
      (runsAon s .getbcr (fun c => c.i3cDrive [Config.i3cBcr])) ∧
      (runsAon s .getdcr (fun c => c.i3cDrive [Config.i3cDcr])) ∧
      (runsAon s .getstatus (fun c => c.i3cStatus)) ∧
      (runsAon s .getmwl (fun c => c.i3cDrive (toBytes 2 256).reverse)) ∧
      (runsAon s .getmrl (fun c => c.i3cDrive (toBytes 2 256).reverse)) ∧
      (runsAon s .ibi (fun c => c.ibi)) ∧
      (runsStore s .fwUpdateDone (fun c => c.fwDone))) ∧
    (∀ (on : Bool), s.chip.pageLive pgHLT = true → runsPage s (.hltEnable on) (fun c => c.hltEnable on)) ∧
    (s.chip.pageLive pgHLT = true → runsPage s .hltRetrain (fun c => c.hltRetrain)) ∧
    (∀ (j : Fin 8) (v : BitVec 64), s.chip.pageLive pgIRQ = true →
      runsPage s (.irqPendClear j v) (fun c => c.irqClear j v.toNat)) ∧
    (∀ (j : Fin 8) (v : BitVec 64), s.chip.pageLive pgIRQ = true → runsPage s (.irqHost j v) (fun c => c.irqHostEn j v.toNat)) ∧
    (∀ (j : Fin 8) (v : BitVec 64), s.chip.pageLive pgIRQ = true → runsPage s (.irqCpx j v) (fun c => c.irqCpxEn j v.toNat)) ∧
    (∀ (v : BitVec 64), s.chip.pageLive pgTBS = true → runsPage s (.tbsSet v) (fun c => c.tbsSet v)) ∧
    (s.chip.pageLive pgTBS = true → runsPage s .invArm (fun c => c.invArm)) ∧
    (s.chip.pageLive pgTBS = true → runsPage s .invCancel (fun c => c.invCancel)) ∧
    (∀ (pkt : HostPkt), runsServed s (.halterWrite pkt) (fun c => if hpF pkt 127 124 = 0 then c.hltArrive pkt else (c, .none))) ∧
    (∀ (pkt : HostPkt), runsServed s (.halterRead pkt) (fun c => if hpF pkt 127 124 = 1 then c.hltArrive pkt else (c, .none))) ∧
    (∀ (pkt : HostPkt),
      runsServed s (.halterMalformed pkt) (fun c => if !(hpCrcOk pkt) || hpMalformed pkt c.hlt.htags then c.hltArrive pkt else (c, .none))) ∧
    (∀ (i : Fin 334) (v : Option (BitVec 32)), (∀ x, v = some x → outsideRatings i x.toInt = false) →
      runsPower s (.sensorSample i v) (fun c => c.sensorRow i v)) ∧
    (∀ (path : FramePath) (args : List (BitVec 8)) (crc : BitVec 32),
      runsServed s (.identify path args crc) (fun c => c.frameRow path 1 args crc)) ∧
    (∀ (path : FramePath) (args : List (BitVec 8)) (crc : BitVec 32),
      runsServed s (.health path args crc) (fun c => c.frameRow path 2 args crc)) ∧
    (∀ (path : FramePath) (args : List (BitVec 8)) (crc : BitVec 32),
      runsServed s (.sensor path args crc) (fun c => c.frameRow path 3 args crc)) ∧
    (∀ (path : FramePath) (args : List (BitVec 8)) (crc : BitVec 32),
      runsServed s (.ledger path args crc) (fun c => c.frameRow path 4 args crc)) ∧
    (∀ (path : FramePath) (args : List (BitVec 8)) (crc : BitVec 32),
      runsServed s (.regRead path args crc) (fun c => c.frameRow path 5 args crc)) ∧
    (∀ (path : FramePath) (args : List (BitVec 8)) (crc : BitVec 32),
      runsServed s (.regWrite path args crc) (fun c => c.frameRow path 6 args crc)) ∧
    (∀ (path : FramePath) (args : List (BitVec 8)) (crc : BitVec 32),
      runsServed s (.snapshot path args crc) (fun c => c.frameRow path 7 args crc)) ∧
    (∀ (path : FramePath) (args : List (BitVec 8)) (crc : BitVec 32),
      runsServed s (.time path args crc) (fun c => c.frameRow path 8 args crc)) ∧
    (∀ (path : FramePath) (args : List (BitVec 8)) (crc : BitVec 32),
      runsServed s (.fwStage path args crc) (fun c => c.frameRow path 9 args crc)) ∧
    (∀ (path : FramePath) (args : List (BitVec 8)) (crc : BitVec 32),
      runsServed s (.fwStart path args crc) (fun c => c.frameRow path 10 args crc)) ∧
    (∀ (path : FramePath) (args : List (BitVec 8)) (crc : BitVec 32),
      runsServed s (.fwStatus path args crc) (fun c => c.frameRow path 11 args crc)) ∧
    (∀ (path : FramePath) (args : List (BitVec 8)) (crc : BitVec 32),
      runsServed s (.resetFrame path args crc) (fun c => c.frameRow path 12 args crc)) ∧
    (∀ (who : Poster) (page : BitVec 16) (off : Fin 4096) (wide : Bool) (v : BitVec 64),
      runsServed s (.registerWrite who page off wide v) (fun c => c.regWriteBy who page.toNat off (if wide then 8 else 4) v.toNat))

/-- Each command of power, clocks, reset, faults and the test port (R490 to R542, R569) completes with its own
operation's effect, where its part of the chip works. -/
def Obligations.PowerRows : Prop :=
  ∀ s : State,
    (s.dieOn = true →
      (∀ (c : Fin 64), runsDie s (.gate c) (fun d => d.gate c)) ∧
      (∀ (c : Fin 64),
        runsTimed s (.wake c) (fun _ => 0) (fun d => ((if d.pwr.aclkOn then d else d.wake c).passTo (if d.pwr.aclkOn then d else d.wake c).wakeStart).wake c)) ∧
      (∀ (c : Fin 64), runsTimed s (.wakeReady c) (fun d => d.wakeDue c) (fun d => d.wakeReady c)) ∧
      (∀ (n : Fin 512) (page : BitVec 16) (b : Fin 16),
        exec (.coreFence n page b) s = .next { s with chip := s.chip.faultsGo (s.chip.coreFenceFz n page.toNat b) }) ∧
      (∀ (c : Fin 64) (page : BitVec 16) (b : Fin 16),
        exec (.clusterFence c page b) s = .next { s with chip := s.chip.faultsGo (s.chip.clusterFenceFz c page.toNat b) }) ∧
      (∀ (page : BitVec 16) (b : Fin 16), runsDie s (.dieError page b) (fun c => (c.dieErrorRow page.toNat b).healthGo)) ∧
      (∀ (k : Fin 4), runsTimed s (.wdt k) (fun c => c.wdtDue k) (fun c => (c.wdt k).healthGo))) ∧
    (∀ (n : Fin 512), s.chip.pageLive pgFLT = true →
      exec (.fenceCore n) s = .next { s with chip := s.chip.faultsGo (s.chip.fenceCoreFz n 0 0xFF).healthGo }) ∧
    (∀ (c : Fin 64), s.chip.pageLive pgFLT = true →
      exec (.fenceCluster c) s = .next { s with chip := s.chip.faultsGo (s.chip.fenceClusterFz c 0 0xFF).healthGo }) ∧
    (∀ (k : Fin 4), s.chip.pageLive pgFLT = true → runsPage s (.fltWdtKick k) (fun c => c.wdtKick k)) ∧
    (∀ (page : BitVec 16) (v : BitVec 32), s.chip.pageLive page.toNat = true →
      runsPage s (.errInj page v) (fun c => c.errInj page.toNat v.toNat)) ∧
    (runsPower s .resetL (fun c => c.resetLow)) ∧
    (runsPower s .aux12On (fun c => c.aux12On)) ∧
    (exec .aux12Loss s = .next { s with chip := s.chip.lossFz }) ∧
    (runsPower s .mainUv (fun c => c.mainUv)) ∧
    (runsPower s .autoRestart (fun c => c.autoRestart)) ∧
    (∀ (ns : BitVec 32), runsPower s (.droop ns) (fun c => c.droop ns.toNat)) ∧
    (runsPower s .phaseAdd (fun c => c.phaseAdd)) ∧
    (runsPower s .phaseShed (fun c => (c.passTo c.shedDue).phaseShed)) ∧
    (runsPower s .dvfsStep (fun c => (c.passTo (c.pwr.lastDvfs + 25000)).dvfsStep)) ∧
    (runsPower s .thermStep (fun c => (c.passTo (c.pwr.lastTherm + 1000000)).thermStep)) ∧
    (∀ (site : Fin 64), runsPower s (.thermalTrip site) (fun c => c.thermalTrip site)) ∧
    (runsPower s .aclkIdle (fun c => (c.passTo c.idleDue).aclkIdle)) ∧
    (runsPower s .active (fun c => c.toActive)) ∧
    (runsPower s .standby (fun c => c.toStandby)) ∧
    (runsPower s .aux (fun c => c.toAux)) ∧
    (runsPower s .coldReset (fun c => c.resetTo .cold 3)) ∧
    (runsPower s .moduleReset (fun c => c.resetTo .module 3)) ∧
    (runsPower s .dieWarmReset (fun c => c.resetTo .dieWarm 3)) ∧
    (∀ (c : Fin 64), runsPower s (.clusterReset c) (fun d => d.clusterReset c)) ∧
    (∀ (n : Fin 512), runsPower s (.coreReset n) (fun c => c.coreReset n)) ∧
    (∀ (cl : Bool) (u : Fin 512) (okA okB : Bool),
      exec (.fenceFuse cl u okA okB) s = .next { s with chip := s.chip.fuseFz cl u okA okB }) ∧
    (runsPower s .dieHoldExpiry (fun c => (c.passTo c.holdDue).dieHold)) ∧
    (exec .bootComplete s = .next { s with chip := s.chip.bootFz.healthGo }) ∧
    (runsPower s .resetLRelease (fun c => c.resetRelease)) ∧
    (∀ (t : TapInstr), runsPower s (.tapInstruction t) (fun c => c.tapLoad t)) ∧
    (runsPower s .main48Applied (fun c => c.main48On)) ∧
    (∀ (cl : Bool) (u : Fin 512), runsPower s (.resetDone cl u) (fun c => (c.passTo (c.resetDue cl u)).resetDone cl u))

/-! ## How far each family reaches -/

/-- Engine operations complete and reach cores, registers and reports alone: memory, pools, routing, fabric, collectives, keys,
power and time are as before (R202 to R220), until the fences of uncorrectable errors that they found. A die that is not ACTIVE
takes none. -/
def Obligations.EngineOperations : Prop :=
  ∀ (i : Instr) (s : State), reachOf i = .engine →
    Answers i s (fun d => Reach.engine.leads s.chip d ∧ (s.dieOn = false → d = s.chip))

/-- Commands and events of the die's units complete; they reach neither fences, fuses, flash, Ledger and floors nor time, until the
fences of uncorrectable errors that they found (R522). -/
def Obligations.DieCommands : Prop :=
  ∀ (i : Instr) (s : State), reachOf i = .die →
    Answers i s (fun d => Reach.die.leads s.chip d ∧ (s.dieOn = false → d = s.chip))

/-- Register writes and timed events complete; they reach neither fences, fuses, flash, Ledger nor floors, until the fences of
uncorrectable errors that they found (R522). -/
def Obligations.RegisterAndTimedRows : Prop :=
  ∀ (i : Instr) (s : State), reachOf i = .unit → Answers i s (fun d => Reach.unit.leads s.chip d)

/-- Power events, resets, Ledger writes, security requests and sensor readings complete; fences and fuses are as before, and no
floor falls (R467, R514, R533), until the fences of uncorrectable errors that they found. Host packets, frames, register writes with
a KEY, fence rows and the end of a boot complete too; fences only grow. -/
def Obligations.PowerAndServedRows : Prop :=
  ∀ (i : Instr) (s : State),
    (reachOf i = .kept → (∀ n v, i = .sensorSample n (some v) → outsideRatings n v.toInt = false) →
      Answers i s (fun d => Reach.kept.leads s.chip d)) ∧
    (reachOf i = .grown → Answers i s (fun d => Reach.grown.keeps s.chip d))

/-- An uncorrectable error takes effect at its detection (R522, R528, R532): where a command's own effect d has found one that
fences a core or a cluster, that unit is fenced when the command ends, and so is every unit fenced before. -/
def Obligations.ErrorsFenceAtOnce : Prop :=
  ∀ (c d : Chip) (x : Due), d.flt.due ≠ c.flt.due → d.flt.due = [x] → c.fz.fencesIn d.fz →
    (x.kind = 0 → x.target < 512 → (c.faultsGo d).fz.coreFence.getLsbD x.target = true) ∧
    (x.kind = 1 → x.target < 64 → (c.faultsGo d).fz.clFence.getLsbD x.target = true ∧
      ∀ j, j < 8 → (c.faultsGo d).fz.coreFence.getLsbD (8 * x.target + j) = true) ∧
    c.fz.fencesIn (c.faultsGo d).fz

/-! ## Sync counters (07) -/

/-- A new FCLK cycle of counter x has begun at time t (R260): the cycle before it is closed, with its wraps recorded (R261). -/
def newCycle (x y : Ctr) (t : Nat) : Prop :=
  y.openAt = some t ∧ y.base = x.value ∧ y.wrap = (x.wrap || (x.openAt.isSome && decide (2 ^ 32 ≤ x.exact)))

/-- The cycle that is open on counter x goes on (R260). -/
def sameCycle (x y : Ctr) (t : Nat) : Prop := x.openAt = some t ∧ y.openAt = some t ∧ y.base = x.base ∧ y.wrap = x.wrap

/-- CNT_SET (R260): alone in its cycle it stores the value; among operations of one cycle the largest SET applies, and ADDs after
it. Every other counter, and everything outside the front-end's state, the registers and reports, is as before. Of a fenced cluster
(R532) every counter stands. -/
def Obligations.CounterSet : Prop :=
  ∀ (k : Fin 65536) (v : BitVec 32) (s : State),
    let x := s.chip.ctrOf k
    let now := s.chip.time.ns
    (s.dieOn = true → s.chip.flt.placed = [] → s.chip.clFenced (k / 1024) = false →
      Answers (.cntSet k v) s (fun d => let y := d.ctrOf k
        (newCycle x y now ∧ y.value = v ∧ y.top = some v ∧ y.adds = 0 ∨
          sameCycle x y now ∧ y.top = some (BitVec.ofNat 32 (max v.toNat (x.top.getD 0).toNat)) ∧ y.adds = x.adds ∧
            y.value = BitVec.ofNat 32 (max v.toNat (x.top.getD 0).toNat + x.adds)) ∧
        (x.openAt ≠ some now → newCycle x y now) ∧
        (∀ j : Nat, j ≠ k → d.ctrOf j = s.chip.ctrOf j) ∧
        d = { s.chip with fe := d.fe, regs := d.regs, flt := d.flt, hlt := d.hlt, cur := d.cur })) ∧
    (s.chip.clFenced (k / 1024) = true → Answers (.cntSet k v) s (fun d => d.fe.ctrs = s.chip.fe.ctrs))

/-- CNT_ADD (R260, R261) adds modulo 2³² to the counter as the SETs of its cycle leave it, and the cycle's end sets WRAP when the
exact sum has reached 2³²; other counters are as before. Of a fenced cluster (R532) every counter stands. -/
def Obligations.CounterAdd : Prop :=
  (∀ (k : Fin 65536) (v : BitVec 32) (s : State),
    let x := s.chip.ctrOf k
    let now := s.chip.time.ns
    (s.dieOn = true → s.chip.flt.placed = [] → s.chip.clFenced (k / 1024) = false →
      Answers (.cntAdd k v) s (fun d => let y := d.ctrOf k
        (newCycle x y now ∧ y.value = x.value + v ∧ y.exact = x.value.toNat + v.toNat ∨
          sameCycle x y now ∧ y.exact = x.exact + v.toNat ∧ y.value = BitVec.ofNat 32 y.exact) ∧
        (x.openAt ≠ some now → newCycle x y now) ∧
        (∀ j : Nat, j ≠ k → d.ctrOf j = s.chip.ctrOf j) ∧
        d = { s.chip with fe := d.fe, regs := d.regs, flt := d.flt, hlt := d.hlt, cur := d.cur })) ∧
    (s.chip.clFenced (k / 1024) = true → Answers (.cntAdd k v) s (fun d => d.fe.ctrs = s.chip.fe.ctrs))) ∧
  (∀ (c : Chip) (k : Nat), let x := c.ctrOf k
    let y := (c.ctrClose k).ctrOf k
    y.openAt = none ∧ y.value = x.value ∧ y.wrap = (x.wrap || (x.openAt.isSome && decide (2 ^ 32 ≤ x.exact))) ∧
      (∀ j : Nat, j ≠ k → (c.ctrClose k).ctrOf j = c.ctrOf j))

/-- A status is fixed once (R543): a command whose status is fixed, and that only signals, keeps it when more work of it ends. -/
def Obligations.StatusFixedOnce : Prop :=
  ∀ (c : Chip) (q : Nat) (i : BitVec 32) (st : Status) (info : Nat) (k : Cmd), c.cmd? q i = some k → k.phase = .signalling →
    c.endWork q i st info = c

/-- Status codes are those of R246: 0 to 11, each read back from its code, and no code above. -/
def Obligations.StatusCodes : Prop :=
  (∀ s : Status, s.code < 12 ∧ Status.ofCode s.code = s) ∧
  (Status.ok.code = 0 ∧ Status.schedule.code = 1 ∧ Status.fenced.code = 2 ∧ Status.pathLost.code = 3 ∧ Status.poisoned.code = 4 ∧
    Status.waitExpired.code = 5 ∧ Status.aborted.code = 6 ∧ Status.key.code = 7 ∧ Status.malformed.code = 8 ∧
    Status.droppedEarly.code = 9 ∧ Status.droppedStale.code = 10 ∧ Status.epoch.code = 11)

/-! ## Kernels (06) -/

/-- What an SCU operation writes at the end of its cycle (R209, R210): the counter D and the value. -/
def scuValue (k : Core) (op slot : Nat) : Nat :=
  let b := if bit slot 47 then bits slot 31 0 else k.ctr (bits slot 53 51)
  if op = 1 then bits slot 31 0
  else if op = 2 then (k.ctr (bits slot 56 54) + b) % 2 ^ 32
  else if op = 3 then (k.ctr (bits slot 56 54) + (2 ^ 32 - b)) % 2 ^ 32
  else if bit slot 4 then k.param (bits slot 3 0) / 2 ^ 32
  else k.param (bits slot 3 0) % 2 ^ 32

/-- The SCU slot is free in this cycle of a running core of a die that works (R206). -/
def scuFree (s : State) (n : Nat) : Prop :=
  s.dieOn = true ∧ (s.chip.coreOf n).st = 2 ∧ (s.chip.coreOf n).scuAt ≠ some (s.chip.coreOf n).cyc

/-- The SCU operations of a running core (R203, R210): SCU_SET, SCU_ADD, SCU_SUB and LDP queue one counter write for the end of the
cycle, ARM and SETK one comparator write, SCU_NOP none; the rest of the core, and for a counter write every other core, are as
they were. -/
def Obligations.ScuWrites : Prop :=
  ∀ (n : Fin 512) (slot : BitVec 64) (s : State), scuFree s n →
    let k := s.chip.coreOf n
    let v := slot.toNat
    (∀ (i : Instr) (op : Nat),
      (i = .scuSet n slot ∧ op = 1 ∨ i = .scuAdd n slot ∧ op = 2 ∨ i = .scuSub n slot ∧ op = 3 ∨ i = .ldp n slot ∧ op = 4) →
      Answers i s (fun d => d.coreOf n = { k with
          scuAt := some k.cyc,
          csNext := k.csNext ++ [(bits v 59 57, BitVec.ofNat 32 (scuValue k op v))] } ∧
        (∀ m : Nat, m ≠ n → d.coreOf m = s.chip.coreOf m) ∧ d.core.lmem = s.chip.core.lmem)) ∧
    Answers (.setk n slot) s (fun d => d.coreOf n = { k with scuAt := some k.cyc, ksNext := k.ksNext ++ [(bits v 59 57, .const (bit v 0))] }) ∧
    Answers (.arm n slot) s (fun d => d.coreOf n = { k with scuAt := some k.cyc, ksNext := k.ksNext ++
      [(bits v 59 57, .rel (bits v 56 54) (bits v 50 48) (bits v 53 51) (if bit v 47 then some (slot.setWidth 32) else none))] }) ∧
    Answers (.scuNop n slot) s (fun d => d.coreOf n = { k with scuAt := some k.cyc })

/-- At the end of a cycle the queued writes take effect, in order, and the next cycle begins (R203): counters, parameters and the
program's other state are otherwise as before. -/
def Obligations.CycleEnds : Prop :=
  ∀ (c : Chip) (n : Nat),
    let k := c.coreOf n
    let d := (c.nextCycle n).coreOf n
    d.cs = k.csNext.foldl (fun cs w => cs.set w.1 w.2) k.cs ∧ d.csNext = [] ∧ d.ksNext = [] ∧ d.cyc = k.cyc + 1 ∧
    d.params = k.params ∧ d.st = k.st ∧ d.b = k.b ∧ d.acc = k.acc ∧
    (∀ x ∈ d.ks, x.val = cmpVal d.cs x.src) ∧ (∀ m : Nat, m ≠ n → (c.nextCycle n).coreOf m = c.coreOf m)

/-- VIT_CTRL.CLEAR empties a Vitrine's buffer (R238): index 0 is written next, nothing is kept of the records, and the other
clusters' buffers are as before. -/
def Obligations.VitrineClear : Prop :=
  ∀ (c : Fin 64) (s : State), s.chip.pageLive (pgVIT c) = true →
    Answers (.vitClear c) s (fun d => (d.vitOf c).recs = [] ∧ (d.vitOf c).wptr = 0 ∧ (d.vitOf c).rd = (s.chip.vitOf c).rd ∧
      (∀ j : Nat, j ≠ c → d.vitOf j = s.chip.vitOf j))

/-! ## Matrix arrays and sparsity (04, 05) -/

/-- A NaN block scale makes the step's result the default quiet NaN, whatever the accumulator and the elements hold (R125, R129). -/
def Obligations.NanScale : Prop :=
  ∀ (acc fr fc : Nat) (as bs : List Nat) (sa sb : Nat), (fmtScaled fr = true ∧ sa = 255) ∨ (fmtScaled fc = true ∧ sb = 255) →
    blockStep acc fr fc as bs sa sb = 0x7FC00000

/-- A key list is walked in order (R175, R178): the keys kept rise strictly, every key has its position, and a key is marked
exactly when it does not rise above the last key kept. -/
def Obligations.KeysRise : Prop :=
  ∀ ks : List Nat, ((keepKeys none 0 ks).filter (fun x => !x.2.2)).Pairwise (fun a b => a.1 < b.1) ∧
    (keepKeys none 0 ks).map (fun x => (x.1, x.2.1)) = ks.zipIdx

/-! ## Routing, dispatch (02, 03) -/

/-- Choosing the first n while reading is choosing the first n of the sorted list: the candidate store keeps exactly the best. -/
def Obligations.TopIsSorted : Prop :=
  ∀ (before : Nat × Nat → Nat × Nat → Bool) (n : Nat) (xs : List (Nat × Nat)), topBy before n xs = (sortBy before xs).take n

/-- Tokens among n clusters (R44): contiguous ranges in ascending cluster order from the command's first token, ⌈T/n⌉ for the first
(T mod n) clusters and ⌊T/n⌋ for the rest. -/
def Obligations.TokenShares : Prop :=
  ∀ (mask t : Nat), let cls := maskClusters mask
    let n := cls.length
    let sh := shares cls t
    cls.Pairwise (· < ·) ∧ (∀ c, c ∈ cls ↔ c < 64 ∧ bit mask c = true) ∧ sh.map (fun x => x.1) = cls ∧
    (∀ j, j < n → (sh[j]?).map (fun x => x.2.2) = some (if j < t % n then (t + n - 1) / n else t / n)) ∧
    (∀ j, j < n → (sh[j]?).map (fun x => x.2.1) = some (((sh.take j).map (fun x => x.2.2)).sum)) ∧
    (0 < n → (sh.map (fun x => x.2.2)).sum = t)

/-- The nodes of a DISPATCH are divided among its Drovers in order (R91): the portions stand end to end from 0 to all, ⌈N/n⌉ nodes
for the first (N mod n) and ⌊N/n⌋ for the rest. -/
def Obligations.DroverPortions : Prop :=
  ∀ n total : Nat, 0 < n → (portion n total 0).1 = 0 ∧ (portion n total (n - 1)).2 = total ∧
    (∀ j, j < n → (portion n total j).2 = (portion n total (j + 1)).1) ∧
    (∀ j, j < n → (portion n total j).2 = (portion n total j).1 + if j < total % n then (total + n - 1) / n else total / n)

/-! ## Memory tiers, buffers, mailboxes (08, 09) -/

/-- LPDDR5X packages (R320, R511): LP_POWER_DOWN takes the idle channel of an operating one down, LP_RETRAIN brings a trained one
back to operation with every channel up, LP_DEEP_SLEEP follows 1 s of self-refresh in STANDBY; no byte of memory, no tile and no
other package changes. -/
def Obligations.PackageStates : Prop :=
  ∀ (sh : Fin 16) (ch : Fin 8) (s : State),
    let x := s.chip.shuOf sh
    let others := fun (d : Chip) => (∀ j : Nat, j ≠ sh → d.shuOf j = s.chip.shuOf j) ∧ d.hom = { s.chip.hom with shus := d.hom.shus }
    (s.dieOn = true → x.trained = true → x.lp = 0 → x.flight = [] →
      Answers (.lpPowerDown ⟨sh, ch⟩) s (fun d => d.shuOf sh = { x with pd := (d.shuOf sh).pd } ∧
        (∀ j, j < 8 → (d.shuOf sh).pd.getLsbD j = (x.pd.getLsbD j || decide (j = ch.val))) ∧ others d)) ∧
    (s.dieOn = true → x.trained = true → x.lp < 2 →
      Answers (.lpRetrain sh) s (fun d => d.shuOf sh = { x with lp := 0, pd := 0 } ∧ others d)) ∧
    (s.chip.pwr.st = .standby → x.lp = 2 → s.chip.flt.placed = [] →
      Answers (.lpDeepSleep sh) s (fun d => d.shuOf sh = { x with lp := 3 } ∧ others d))

/-- Bytes stored in one tile read back, and the tiles' entries are as before (R292). -/
def Obligations.TileReadsBack : Prop :=
  ∀ (c : Chip) (a : Nat) (bs : List (BitVec 8)), a % 32768 + bs.length ≤ 32768 → a + bs.length ≤ 0xBFF0000000 →
    (c.putBytes a bs).bytesAt a bs.length = bs ∧ (c.putBytes a bs).hom.tiles = c.hom.tiles

/-- Retain and release of the null handle do nothing (R332): memory, pools and registers are as before. -/
def Obligations.NullHandle : Prop :=
  ∀ (who : Poster) (h : BitVec 32) (s : State), h.toNat % 256 = 0 →
    Answers (.bufRetain who h) s (fun d => d = { s.chip with fe := d.fe } ∧ d.fe = { s.chip.fe with ctxs := d.fe.ctxs }) ∧
    Answers (.bufRelease who h) s (fun d => d = { s.chip with fe := d.fe } ∧ d.fe = { s.chip.fe with ctxs := d.fe.ctxs })

/-- The lock of a core mailbox (R344): a LOCK read takes a free lock and leaves a held one, RELEASE by the owner frees it and by
another does not, BREAK frees it; messages and other mailboxes are as before, while no injected fault is placed. -/
def Obligations.MailboxLock : Prop :=
  ∀ (who : Poster) (b : Fin 3072) (s : State), s.dieOn = true → s.chip.flt.placed = [] → b.val < 2048 →
    s.chip.clFenced (mbxCluster b) = false →
    let x := s.chip.mbxOf b
    let others := fun (d : Chip) => (∀ j : Nat, j ≠ b → d.mbxOf j = s.chip.mbxOf j) ∧ d.hom = s.chip.hom
    Answers (.mbxLock who b) s (fun d => d.mbxOf b = { x with owner := if x.owner = 0 then lockNo who else x.owner } ∧ others d) ∧
    Answers (.mbxRelease who b) s (fun d => d.mbxOf b = { x with owner := if x.owner = lockNo who then 0 else x.owner } ∧ others d) ∧
    Answers (.mbxBreak who b) s (fun d => d.mbxOf b = { x with owner := 0 } ∧ others d)

/-- TAKE (R344, R345): of a core mailbox by its lock's owner, and of a cluster mailbox with the current SEQ, empties it and notes
the SEQ taken; another owner or SEQ changes no mailbox; no injected fault is placed. -/
def Obligations.MailboxTake : Prop :=
  ∀ (who : Poster) (b : Fin 3072) (seq : BitVec 16) (s : State), s.dieOn = true → s.chip.flt.placed = [] →
    s.chip.clFenced (mbxCluster b) = false →
    let x := s.chip.mbxOf b
    Answers (.mbxTake who b seq) s (fun d =>
      (b.val < 2048 → x.owner = lockNo who → x.owner ≠ 0 → d.mbxOf b = { x with full := false, taken := x.seq, owner := 0 }) ∧
      (2048 ≤ b.val → x.seq = seq → d.mbxOf b = { x with full := false, collision := false, taken := x.seq }) ∧
      ((b.val < 2048 ∧ (x.owner ≠ lockNo who ∨ x.owner = 0)) ∨ (2048 ≤ b.val ∧ x.seq ≠ seq) → d.mbxOf b = x) ∧
      (∀ j : Nat, j ≠ b → d.mbxOf j = s.chip.mbxOf j) ∧ d.hom = s.chip.hom)

/-- A post (R343 to R345) where no job is checked and no injected fault is placed: a full core mailbox refuses it; any other mailbox stores pointer, tag and
sender, is FULL, counts SEQ on, and a cluster mailbox that was full notes the collision. -/
def Obligations.MailboxPost : Prop :=
  ∀ (who : Poster) (b : Fin 3072) (post : BitVec 128) (s : State), s.dieOn = true → s.chip.flt.placed = [] →
    s.chip.clFenced (mbxCluster b) = false → bit (s.chip.mbxCfg b) 29 = false →
    let x := s.chip.mbxOf b
    Answers (.mbxPost who b post) s (fun d =>
      (b.val < 2048 → x.full = true → d.mbxOf b = x) ∧
      (2048 ≤ b.val ∨ x.full = false → (d.mbxOf b).ptr = post.setWidth 64 ∧ (d.mbxOf b).tag = bits post.toNat 79 64 ∧
        (d.mbxOf b).full = true ∧ (d.mbxOf b).seq = x.seq + 1 ∧ (d.mbxOf b).owner = x.owner ∧ (d.mbxOf b).taken = x.taken ∧
        (d.mbxOf b).collision = (x.collision || (decide (2048 ≤ b.val) && x.full))) ∧
      (∀ j : Nat, j ≠ b → d.mbxOf j = s.chip.mbxOf j) ∧ d.hom = s.chip.hom)

/-! ## Fabric and collectives (10, 11) -/

/-- Jobs (R386): ADMIT takes a FREE job whose generation is at most seven ahead of the next to ADMITTED, and leaves any other state;
DRAIN takes an ADMITTED job to DRAINING while one of its tags is in use, and else to FREE with the next generation. Every other
job is as before. -/
def Obligations.JobAdmission : Prop :=
  ∀ (job : BitVec 12) (gen : BitVec 4) (s : State), s.chip.pageLive pgCFB = true →
    let a := s.chip.admOf job.toNat
    Answers (.admitJob job gen) s (fun d =>
      d.admOf job.toNat = (if a.st = 0 ∧ (gen.toNat + 16 - a.next) % 16 ≤ 7 then { a with st := 1, gen := gen.toNat } else a) ∧
      (∀ j : Nat, j ≠ job.toNat → d.admOf j = s.chip.admOf j) ∧ d.fab.tags = s.chip.fab.tags ∧ d.hom = s.chip.hom) ∧
    (a.st = 1 → Answers (.drain job) s (fun d =>
      ((∃ e ∈ s.chip.fab.tags, ∃ t, e.2 = some t ∧ t.job / 16 = job.toNat) → d.admOf job.toNat = { a with st := 2 }) ∧
      ((∀ e ∈ s.chip.fab.tags, ∀ t, e.2 = some t → t.job / 16 ≠ job.toNat) →
        d.admOf job.toNat = { a with st := 0, next := (a.gen + 1) % 16 }) ∧
      (∀ j : Nat, j ≠ job.toNat → d.admOf j = s.chip.admOf j)))

/-- Every field of a packet's header that its sender gives stands at its bits (R365), with every other bit 0 until the source, tag,
security and CRC are put in; and so does every field of a completion record (R245). -/
def Obligations.HeaderAndRecordFields : Prop :=
  (∀ (cls node addr job len epoch : Nat) (ctr : Option Nat) (ord : Bool), cls < 16 → node < 2 ^ 18 → addr < 2 ^ 46 → job < 2 ^ 16 →
    len < 2 ^ 12 → epoch < 256 → (∀ k, ctr = some k → k < 65536) →
    let h := mkHdr cls node addr job len epoch ctr ord
    hf h 191 174 = node ∧ hf h 173 128 = addr ∧ hf h 109 94 = job ∧ hf h 78 67 = len ∧ hf h 66 51 = ctr.getD 0 ∧
      hf h 50 50 = b2n ctr.isSome ∧ hf h 49 49 = b2n ord ∧ hf h 48 46 = vcOf cls ∧ hf h 45 42 = cls ∧ hf h 41 34 = epoch ∧
      hf h 255 192 = 0 ∧ hf h 127 110 = 0 ∧ hf h 93 79 = 0 ∧ hf h 33 0 = 0) ∧
  (∀ k : Cmd, k.type < 16 → let r := k.record
    r < 2 ^ 128 ∧ bits r 127 96 = k.tag.toNat ∧ bits r 95 88 = k.status.code ∧ bits r 87 84 = k.type ∧ bits r 83 80 = 0 ∧
      bits r 79 40 = k.endAt.toNat % 2 ^ 40 ∧ bits r 39 8 = k.info.toNat ∧ bits r 7 0 = 1)

/-- A failed training attempt of a port (R357, R364): a port that is DOWN trains again first; with step 1 or 2 failed it goes DOWN,
and after the fourth attempt in a row to FAILED; a switch port whose plane another UP switch port reaches goes to FAILED with
PLANE_DUP at once and keeps the plane that it learned. Other ports are as before. -/
def Obligations.TrainingFails : Prop :=
  ∀ (p : Fin 16) (peer : PortPeer) (s : State), s.dieOn = true →
    (s.chip.portOf p).st = .training ∨ (s.chip.portOf p).st = .down →
    (peer.fail = 1 ∨ peer.fail = 2 →
      Answers (.portTrained p peer) s (fun d => (d.portOf p).attempts = (s.chip.portOf p).attempts + 1 ∧
        (d.portOf p).st = (if 4 ≤ (s.chip.portOf p).attempts + 1 then .failed else .down) ∧
        (d.portOf p).plane = (s.chip.portOf p).plane ∧ (d.portOf p).step = peer.fail.toNat ∧
        (∀ j : Nat, j ≠ p → d.portOf j = s.chip.portOf j))) ∧
    (peer.fail = 0 → peer.module = false → s.chip.isBypass p = false → s.chip.planeDup p peer.plane.toNat = true →
      s.chip.reg (pgCPT p) 0x014 = 0 →
      Answers (.portTrained p peer) s (fun d => (d.portOf p).st = .failed ∧ (d.portOf p).plane = peer.plane.toNat ∧
        bit (d.reg (pgCPT p) 0x010) 4 = true ∧ (∀ j : Nat, j ≠ p → d.portOf j = s.chip.portOf j)))

/-- CFB_CTRL, CFB_NODE and CFB_PEER while a port is not DISABLED, and CPT_CTRL.ENABLE without a node (R359): the locked field keeps
its value, the other fields of the write apply, BAD_WRITE is set where it is not masked, and a write of the value held is accepted. -/
def Obligations.LockedFields : Prop :=
  ∀ (c : Chip) (v : Nat),
    (c.reg pgCFB 0x014 = 0 → (∃ p, p < 16 ∧ (c.portOf p).st ≠ .disabled) →
      (bits v 0 0 ≠ bits (c.reg pgCFB 0x008) 0 0 →
        (c.cfbWrite 0x008 v).fld pgCFB 0x008 0 0 = c.fld pgCFB 0x008 0 0 ∧ (c.cfbWrite 0x008 v).fld pgCFB 0x008 2 1 = bits v 2 1 ∧
        bit ((c.cfbWrite 0x008 v).reg pgCFB 0x010) 7 = true) ∧
      (bits v 0 0 = bits (c.reg pgCFB 0x008) 0 0 →
        c.cfbWrite 0x008 v = c.setReg pgCFB 0x008 (bits v 2 1 * 2 + bits v 0 0)) ∧
      (bits v 31 31 * 2 ^ 31 + bits v 17 0 ≠ c.reg pgCFB 0x200 →
        (c.cfbWrite 0x200 v).reg pgCFB 0x200 = c.reg pgCFB 0x200 ∧ bit ((c.cfbWrite 0x200 v).reg pgCFB 0x010) 7 = true) ∧
      (bits v 31 31 * 2 ^ 31 + bits v 17 0 = c.reg pgCFB 0x200 →
        c.cfbWrite 0x200 v = c.setReg pgCFB 0x200 (c.reg pgCFB 0x200)) ∧
      (bits v 17 0 ≠ c.reg pgCFB 0x204 →
        (c.cfbWrite 0x204 v).reg pgCFB 0x204 = c.reg pgCFB 0x204 ∧ bit ((c.cfbWrite 0x204 v).reg pgCFB 0x010) 7 = true) ∧
      (bits v 17 0 = c.reg pgCFB 0x204 → c.cfbWrite 0x204 v = c.setReg pgCFB 0x204 (c.reg pgCFB 0x204))) ∧
    (∀ p, p < 16 → bit v 0 = true → c.fld pgCFB 0x200 31 31 = 0 → c.reg (pgCPT p) 0x014 = 0 →
      (c.cptEnable p v).portOf p = c.portOf p ∧ (c.cptEnable p v).reg (pgCPT p) 0x008 = c.reg (pgCPT p) 0x008 ∧
      bit ((c.cptEnable p v).reg (pgCPT p) 0x010) 7 = true)

/-- The rank of a channel and level at a port's egress (R381): VC1, VC4, VC2, then VC0 and VC3 together, LC level first. -/
def egressRank (p : EPkt) : Nat :=
  if p.ch = 1 then 0 else if p.ch = 4 then 1 else if p.ch = 2 then 2 else if p.lc then 3 else 4

/-- A packet is the first queued of its channel, and among VC0 and VC3 of its channel and level. -/
def isHead (x : Port) (p : EPkt) : Prop :=
  x.queue.find? (fun q => decide (q.ch = p.ch) && (decide (egressRank p < 3) || q.lc == p.lc)) = some p

/-- The egress arbiter (R381) serves the first packet of a channel that has credits, in the order of ranks, and within VC0 and VC3
of a level the channel whose turn it is; a channel without credits is passed over; after a packet of VC0 or VC3 it is the other
one's turn at that level. -/
def Obligations.EgressOrder : Prop :=
  ∀ x : Port, (∀ p ∈ x.queue, p.ch < 5) →
    (x.pick = none ↔ ∀ p ∈ x.queue, isHead x p → x.canSend p = false) ∧
    (∀ p, x.pick = some p → p ∈ x.queue ∧ isHead x p ∧ x.canSend p = true ∧
      (∀ r ∈ x.queue, isHead x r → x.canSend r = true → egressRank p ≤ egressRank r) ∧
      (let turn := if (if p.lc then x.turnLc else x.turn) then 3 else 0
       3 ≤ egressRank p → (∃ r ∈ x.queue, isHead x r ∧ x.canSend r = true ∧ egressRank r = egressRank p ∧ r.ch = turn) → p.ch = turn)) ∧
    (∀ p, (x.turned p).turnLc = (if p.lc = true ∧ p.ch = 0 then true else if p.lc = true ∧ p.ch = 3 then false else x.turnLc) ∧
      (x.turned p).turn = (if p.lc = false ∧ p.ch = 0 then true else if p.lc = false ∧ p.ch = 3 then false else x.turn))

/-- A collective's packets of a range (R408): end to end from its start, each of 1 to 2,048 B, cut at every multiple of 2,048. -/
def Obligations.PacketCuts : Prop :=
  ∀ n : Nat, ((cuts n).map (fun x => x.2)).sum = n ∧
    (∀ x ∈ cuts n, 0 < x.2 ∧ x.2 ≤ 2048 ∧ x.1 % 2048 = 0 ∧ x.1 + x.2 ≤ n) ∧
    (∀ j, j + 1 < (cuts n).length → ((cuts n)[j]?).map (fun x => x.1 + x.2) = ((cuts n)[j + 1]?).map (fun x => x.1))

/-! ## Host link, management, time (12) -/

/-- A software clear of IRQ_PENDj, with no injected fault placed, clears exactly the bits written with 1 (R12, R557). -/
def Obligations.PendingClear : Prop :=
  ∀ (j : Fin 8) (v : BitVec 64) (s : State), s.chip.pageLive pgIRQ = true → s.chip.flt.placed = [] →
    Answers (.irqPendClear j v) s (fun d =>
      (∀ k, k < 64 → bit (d.reg pgIRQ (0x200 + 8 * j)) k = (bit (s.chip.reg pgIRQ (0x200 + 8 * j)) k && !(v.getLsbD k))) ∧
      (∀ i : Fin 8, i ≠ j → d.reg pgIRQ (0x200 + 8 * i) = s.chip.reg pgIRQ (0x200 + 8 * i)))

/-- TBS_SET (R444): with no context, or while FE_CTRL.ENABLE is 0, the count is loaded and an armed snapshot cancelled; otherwise
the count and the snapshot stand. -/
def Obligations.TimebaseSet : Prop :=
  ∀ (v : BitVec 64) (s : State), s.chip.pageLive pgTBS = true →
    let free := (∀ e ∈ s.chip.fe.ctxs, e.2 = none) ∨ s.chip.fld pgFE 0x008 0 0 = 0
    Answers (.tbsSet v) s (fun d => (free → d.time.tb = v ∧ d.time.snapAt = none) ∧ (¬free → d.time = s.chip.time) ∧
      d.time.ns = s.chip.time.ns ∧ d.hom = s.chip.hom)

/-- A snapshot is armed for INV_AT where that is at least 2 µs away and no armed one is due within 2 µs; CANCEL drops one that is
not; otherwise the armed snapshot stands (R454). -/
def Obligations.SnapshotArm : Prop :=
  ∀ s : State, s.chip.pageLive pgTBS = true →
    let c := s.chip
    let close := ∃ t, c.time.snapAt = some t ∧ t.toNat < c.time.tb.toNat + 2000
    let at_ := c.reg pgTBS 0x220
    Answers .invArm s (fun d => d.time.snapAt = (if at_ < c.time.tb.toNat + 2000 ∨ c.snapClose = true then c.time.snapAt else some (BitVec.ofNat 64 at_)) ∧
      (c.snapClose = true ↔ close) ∧ d.time.tb = c.time.tb) ∧
    Answers .invCancel s (fun d => d.time.snapAt = (if c.snapClose = true then c.time.snapAt else none) ∧ d.time.tb = c.time.tb)

/-- I3C common commands (R451; their effects are those of the family, log 6): ENTDAA and SETDASA give an address to a target without one, RSTDAA takes it away, ENEC and DISEC
switch in-band interrupts, GETMWL and GETMRL answer 256; nothing else of the part changes. -/
def Obligations.I3cCommands : Prop :=
  ∀ (a : BitVec 7) (ev : BitVec 8) (s : State), s.chip.pwr.aux12 = true →
    let c := s.chip
    let got := if c.cur.dynAddr.isNone then some a else c.cur.dynAddr
    Answers (.entdaa a) s (fun d => d = { c with cur.dynAddr := got }) ∧
    Answers (.setdasa a) s (fun d => d = { c with cur.dynAddr := got }) ∧
    Answers .rstdaa s (fun d => d = { c with cur.dynAddr := none }) ∧
    Answers (.enec ev) s (fun d => d = { c with cur.ibiEn := c.cur.ibiEn || ev.getLsbD 0 }) ∧
    Answers (.disec ev) s (fun d => d = { c with cur.ibiEn := c.cur.ibiEn && !(ev.getLsbD 0) }) ∧
    Answers .getmwl s (fun d => d = { c with cur.i3cOut := [1, 0] }) ∧
    Answers .getmrl s (fun d => d = { c with cur.i3cOut := [1, 0] })

/-- LEDGER_WRITE (R448, R449) moves the oldest waiting record into the Ledger under the next SEQ; when the Ledger is full the oldest
sector of 2,048 records goes. Fences, fuses, floors and flash are as before. -/
def Obligations.LedgerWrite : Prop :=
  ∀ (s : State) (r : LedgerRec) (rs : List LedgerRec), s.chip.pwr.aux12 = true → s.chip.cur.up = true → s.chip.cur.fw.st ≠ 2 →
    s.chip.cur.fw.st ≠ 3 → s.chip.cur.buf = r :: rs → s.chip.cur.lost = 0 → s.chip.fz.floorsHold →
    let z := s.chip.fz
    Answers .ledgerWrite s (fun d => d.fz = { z with
        ledger := (if 131072 ≤ z.ledger.length then z.ledger.drop 2048 else z.ledger) ++ [{ r with seq := z.ledgerSeq }],
        ledgerSeq := (z.ledgerSeq + 1) % 2 ^ 48 } ∧ d.cur = { s.chip.cur with buf := rs })

/-- A sensor reading inside the ratings, with the Curator up and the sensor powered, becomes the sensor's value, with the status of
R446 (a reading at a threshold has crossed it, log 79): CRIT or WARN from its threshold up, and, once reached, until the reading lies its hysteresis below. Other sensors are as
before. -/
def Obligations.SensorReads : Prop :=
  ∀ (n : Fin 334) (v : BitVec 32) (s : State), outsideRatings n v.toInt = false → s.chip.cur.up = true → s.chip.sensorOn n = true →
    let old := (s.chip.sensorOf n).status
    let w := Config.sensorWarn n
    let k := Config.sensorCrit n
    let hyst := fun (thr : Int) => if n.val < 64 then (16 : Int) else thr.natAbs / 100
    Answers (.sensorSample n (some v)) s (fun d => (d.sensorOf n).value = v.toInt ∧
      (d.sensorOf n).status =
        (if k ≤ v.toInt ∨ (old = 2 ∧ k - hyst k < v.toInt) then 2
         else if w ≤ v.toInt ∨ ((old = 1 ∨ old = 2) ∧ w - hyst w < v.toInt) then 1 else 0) ∧
      (∀ j : Nat, j ≠ n → d.sensorOf j = s.chip.sensorOf j))

/-! ## Security (13) -/

/-- With every index of the identity key used, ATTEST fails with status KEY and signs nothing (R470). -/
def Obligations.IdentitySpent : Prop :=
  ∀ (c : Chip) (k : Ctx) (b : Nat), 1048576 ≤ c.fz.xmssNext → (c.attest k b).1.st = .key ∧ (c.attest k b).2.fz = c.fz ∧
    (c.attest k b).2.sec = c.sec ∧ (c.attest k b).2.hom = c.hom

/-! ## Power, clocks, reset (14) -/

/-- The regulator's events: PHASE_ADD raises the phase groups to what the current needs, one per 320 A, 1 to 9; PHASE_SHED drops
one, never the last (R498). DROOP (R500) adds 1 to DROOP_EVENTS and its length to DROOP_NS, keeps the point, and fails no command:
queues and cores are as before. -/
def Obligations.RegulatorEvents : Prop :=
  ∀ s : State, s.chip.pwr.rails = true →
    Answers .phaseAdd s (fun d => d.pwr.groups = max s.chip.pwr.groups (min 9 (max 1 ((s.chip.pwr.amps.headD 0 + 319999) / 320000))) ∧
      d.time = s.chip.time ∧ d.hom = s.chip.hom) ∧
    (∀ t, s.chip.pwr.shedSince = some t → 1 < s.chip.pwr.groups → s.chip.flt.placed = [] →
      Answers .phaseShed s (fun d => d.pwr.groups = s.chip.pwr.groups - 1 ∧ d.pwr.shedSince = none ∧ d.hom = s.chip.hom)) ∧
    (∀ ns : BitVec 32, ns ≠ 0 →
      Answers (.droop ns) s (fun d => d.reg pgPWR 0x058 = (s.chip.reg pgPWR 0x058 + 1) % 2 ^ 64 ∧
        d.reg pgPWR 0x060 = (s.chip.reg pgPWR 0x060 + ns.toNat) % 2 ^ 64 ∧
        (s.chip.reg pgPWR 0x014 = 0 → bit (d.reg pgPWR 0x010) 2 = true) ∧ d.pwr.point = s.chip.pwr.point ∧
        d.fe.queues = s.chip.fe.queues ∧ d.core = s.chip.core))

/-- Control steps (R502, R505), with no fault injected: a site at CRIT takes the part to P7 at a DVFS step, otherwise the point moves
by at most one; each millisecond the thermal cap moves by one: up, to 7 at most, while a site is at WARN; it stands while one is at
CRIT alone; else down, to 0. Cores change by the passing time alone. -/
def Obligations.ControlSteps : Prop :=
  ∀ s : State, s.chip.pwr.st = .active → s.chip.flt.placed = [] → s.chip.fld pgFLT 0x008 0 0 = 0 →
    Answers .dvfsStep s (fun d => (s.chip.anySite 2 = true → d.pwr.point = 7) ∧
      (s.chip.anySite 2 = false → d.pwr.point ≤ s.chip.pwr.point + 1 ∧ s.chip.pwr.point ≤ d.pwr.point + 1) ∧
      d.pwr.gated = s.chip.pwr.gated ∧ d.pwr.groups = s.chip.pwr.groups ∧ d.hom = s.chip.hom ∧
      d.core = (s.chip.passTo (s.chip.pwr.lastDvfs + 25000)).core) ∧
    Answers .thermStep s (fun d => d.pwr.thermCap = (if s.chip.anySite 1 then min 7 (s.chip.pwr.thermCap + 1)
        else if s.chip.anySite 2 then s.chip.pwr.thermCap else s.chip.pwr.thermCap - 1) ∧
      d.pwr.point = s.chip.pwr.point ∧ d.hom = s.chip.hom ∧
      d.core = (s.chip.passTo (s.chip.pwr.lastTherm + 1000000)).core)

/-- A cluster gates when its bit of PWR_GATE_REQ is set, it is idle and no wake of it is asked for (R508): its preloaded lists are
lost. Otherwise no gate and no core changes. -/
def Obligations.Gating : Prop :=
  ∀ (c : Fin 64) (s : State), s.dieOn = true →
    let may := bit (s.chip.reg pgPWR 0x218) c = true ∧ s.chip.clGated c = false ∧ s.chip.clIdle c = true ∧ s.chip.wakeAsked c = false
    Answers (.gate c) s (fun d =>
      (may → d.pwr.gated = s.chip.pwr.gated ||| BitVec.ofNat 64 (2 ^ c.val) ∧ (∀ j, j < 8 → (d.coreOf (8 * c + j)).preload = none) ∧
        (∀ n : Nat, n / 8 ≠ c → d.coreOf n = s.chip.coreOf n)) ∧
      (¬may → d.pwr = s.chip.pwr ∧ d.core = s.chip.core) ∧ d.hom = s.chip.hom)

/-- WAKE_READY (R509): a waking cluster that is not fenced is no longer gated; the other clusters' gates are as before. -/
def Obligations.WakeEnds : Prop :=
  ∀ (c : Fin 64) (s : State), s.dieOn = true → s.chip.clFenced c = false → (∃ w ∈ s.chip.pwr.waking, w.1 = c) →
    s.chip.flt.placed = [] →
    Answers (.wakeReady c) s (fun d => d.clGated c = false ∧ (∀ j : Nat, j < 64 → j ≠ c → d.clGated j = s.chip.clGated j) ∧
      (∀ w ∈ d.pwr.waking, w.1 ≠ c) ∧ d.hom = s.chip.hom)

/-- AUX12_LOSS (R497, R533; log 25): the part is OFF, the Ledger's waiting records are lost, exactly the units with a blown fuse stay
fenced, and fuses, floors, flash and the Ledger are kept. -/
def Obligations.AuxLoss : Prop :=
  ∀ s : State,
    let z := s.chip.fz
    Answers .aux12Loss s (fun d => d.pwr.st = .off ∧ d.pwr.rails = false ∧ d.pwr.aux12 = false ∧ d.cur.buf = [] ∧
      (∀ k, k < 64 → d.fz.clFence.getLsbD k = (z.clFuseA.getLsbD k || z.clFuseB.getLsbD k)) ∧
      (∀ n, n < 512 → d.fz.coreFence.getLsbD n =
        (z.coreFuseA.getLsbD n || z.coreFuseB.getLsbD n || z.clFuseA.getLsbD (n / 8) || z.clFuseB.getLsbD (n / 8))) ∧
      d.fz = { z with coreFence := d.fz.coreFence, clFence := d.fz.clFence })

/-! ## Faults, fences (15) -/

/-- A software fence (R528, R532, R534): FENCE_CORE fences its core alone, FENCE_CLUSTER its cluster and that cluster's eight cores;
fuses, flash, floors and the Ledger are as before, where no fault is injected. -/
def Obligations.SoftwareFences : Prop :=
  ∀ (n : Fin 512) (c : Fin 64) (s : State), s.chip.pageLive pgFLT = true → s.chip.flt.placed = [] →
    s.chip.fld pgFLT 0x008 0 0 = 0 →
    let z := s.chip.fz
    Answers (.fenceCore n) s (fun d => (∀ m, m < 512 → d.fz.coreFence.getLsbD m = (z.coreFence.getLsbD m || decide (m = n.val))) ∧
      d.fz = { z with coreFence := d.fz.coreFence }) ∧
    Answers (.fenceCluster c) s (fun d => (∀ m, m < 512 → d.fz.coreFence.getLsbD m = (z.coreFence.getLsbD m || decide (m / 8 = c.val))) ∧
      (∀ k, k < 64 → d.fz.clFence.getLsbD k = (z.clFence.getLsbD k || decide (k = c.val))) ∧
      d.fz = { z with coreFence := d.fz.coreFence, clFence := d.fz.clFence })

/-- FENCE_FUSE of a fenced core that waits for it (R533): the first fuse where it reads back, else the second where that one does;
fences and floors are as before. -/
def Obligations.FenceFuse : Prop :=
  ∀ (n : Fin 512) (okA okB : Bool) (s : State), s.chip.coreFenced n = true → s.chip.flt.fuseQ.contains (false, n.val) = true →
    let z := s.chip.fz
    Answers (.fenceFuse false n okA okB) s (fun d =>
      (∀ m, m < 512 → d.fz.coreFuseA.getLsbD m = (z.coreFuseA.getLsbD m || (okA && decide (m = n.val)))) ∧
      (∀ m, m < 512 → d.fz.coreFuseB.getLsbD m = (z.coreFuseB.getLsbD m || (!okA && okB && decide (m = n.val)))) ∧
      d.fz.clFuseA = z.clFuseA ∧ d.fz.clFuseB = z.clFuseB ∧ d.fz.coreFence = z.coreFence ∧ d.fz.clFence = z.clFence ∧
      d.fz.floors = z.floors)

/-- An unmasked error (R525): with ERR_STAT clear both ERR_INFO registers capture it, otherwise they stand; its bit is set and no
bit is cleared; and the record that goes to the Curator under ERR_ROUTE carries the error's own information. -/
def Obligations.ErrorCapture : Prop :=
  ∀ (c : Chip) (page n i0 i1 : Nat), n < 16 → bit (c.reg page 0x014) n = false →
    let d := c.err page n i0 i1
    (c.reg page 0x010 = 0 → d.reg page 0x020 = i0 % 2 ^ 32 ∧ d.reg page 0x024 = i1 % 2 ^ 32) ∧
    (c.reg page 0x010 ≠ 0 → d.reg page 0x020 = c.reg page 0x020 ∧ d.reg page 0x024 = c.reg page 0x024) ∧
    bit (d.reg page 0x010) n = true ∧ (∀ j, bit (c.reg page 0x010) j = true → bit (d.reg page 0x010) j = true) ∧
    (bit (c.reg page 0x01C) n = true → c.fld pgCUR 0x008 0 0 = 1 → c.cur.buf.length < 4096 →
      ∃ r, r ∈ d.cur.buf ∧ r.page = page ∧ r.kind = 0 ∧ r.code = n ∧ r.info0 = BitVec.ofNat 32 i0 ∧ r.info1 = BitVec.ofNat 32 i1)

/-- A write of ERR_INJ while FLT_CTRL.INJ_EN is 0 is ignored and sets the page's BAD_WRITE where that is not masked (R538). -/
def Obligations.InjectionOff : Prop :=
  ∀ (page : BitVec 16) (v : BitVec 32) (s : State), (blockOf page.toNat).isSome = true → s.chip.pageLive page.toNat = true →
    s.chip.fld pgFLT 0x008 0 0 = 0 → s.chip.reg page.toNat 0x014 = 0 →
    Answers (.errInj page v) s (fun d => d.reg page.toNat 0x018 = s.chip.reg page.toNat 0x018 ∧
      bit (d.reg page.toNat 0x010) 7 = true ∧ d.flt = s.chip.flt ∧ d.hom = s.chip.hom)

/-! ## Conventions and the test port (00, 17) -/

/-- TAP instructions while the rails are on (R569, R570): IDCODE reads 0x1494_8A5B and, like BYPASS, changes nothing else; EXTEST,
CLAMP and HIGHZ mark the boot as not completed. -/
def Obligations.TapInstructions : Prop :=
  ∀ (t : TapInstr) (s : State), s.chip.pwr.rails = true →
    Answers (.tapInstruction t) s (fun d => d.pwr.tap = t ∧ (t = .idcode → d.pwr.tapDr = 0x14948A5B) ∧
      (t = .extest ∨ t = .clamp ∨ t = .highz → d.pwr.booted = false) ∧
      (t = .idcode ∨ t = .bypass ∨ t = .sample → d.pwr = { s.chip.pwr with tap := t, tapDr := d.pwr.tapDr } ∧
        d.hom = s.chip.hom ∧ d.core = s.chip.core ∧ d.fe.queues = s.chip.fe.queues))
end

