-- ==== Sys2Proof/Laws/Exec.lean ====
section
/-!
SUPPORT. What exec answers for each command, as a lift of its operation: one equation per command, so that no later proof unfolds
exec or a meaning's name.
-/

namespace Sys2Proof.Machine

theorem exec_cmdqTail (q : Fin 264) (tail : BitVec 32) (s : State) : exec (.cmdqTail q tail) s =
  s.page (cmdqPage q) (fun c => c.cmdqTail q tail) := rfl
theorem exec_dbTail (q : Fin 264) (v : BitVec 64) (wide : Bool) (s : State) : exec (.dbTail q v wide) s =
  s.die (fun c => c.cmdqTail q (v.setWidth 32)) := rfl
theorem exec_descRead (q : Fin 264) (s : State) : exec (.descRead q) s =
  s.die (fun c => c.descRead q) := rfl
theorem exec_waitMet (q : Fin 264) (k : Fin 4) (s : State) : exec (.waitMet q k) s =
  s.die (fun c => c.waitMet q k) := rfl
theorem exec_waitExpired (q : Fin 264) (k : Fin 4) (s : State) : exec (.waitExpired q k) s =
  s.timed (fun c => c.waitDue q k) (fun c => c.waitExpired q k) := rfl
theorem exec_issue (s : State) : exec .issue s =
  s.die (fun c => c.issue) := rfl
theorem exec_heldStart (q : Fin 264) (i : BitVec 32) (s : State) : exec (.heldStart q i) s =
  s.die (fun c => c.heldStart q i) := rfl
theorem exec_commandComplete (q : Fin 264) (i : BitVec 32) (s : State) : exec (.commandComplete q i) s =
  s.die (fun c => c.commandComplete q i) := rfl
theorem exec_acctWindow (s : State) : exec .acctWindow s =
  s.timed (fun c => c.acctDue) (fun c => c.acctWindow) := rfl
theorem exec_copy (q : Fin 264) (i : BitVec 32) (s : State) : exec (.copy q i) s =
  s.die (fun c => c.copyCmd q i) := rfl
theorem exec_counterNop (q : Fin 264) (i : BitVec 32) (s : State) : exec (.counterNop q i) s =
  s.die (fun c => c.counterNop q i) := rfl
theorem exec_setRange (q : Fin 264) (i : BitVec 32) (s : State) : exec (.setRange q i) s =
  s.die (fun c => c.setRange q i) := rfl
theorem exec_readRange (q : Fin 264) (i : BitVec 32) (s : State) : exec (.readRange q i) s =
  s.die (fun c => c.readRange q i) := rfl
theorem exec_cntSet (k : Fin 65536) (v : BitVec 32) (s : State) : exec (.cntSet k v) s =
  s.die (fun c => c.ctrSet k v.toNat) := rfl
theorem exec_cntAdd (k : Fin 65536) (v : BitVec 32) (s : State) : exec (.cntAdd k v) s =
  s.die (fun c => c.ctrAdd k v.toNat) := rfl
theorem exec_cmdqEnable (q : Fin 264) (s : State) : exec (.cmdqEnable q) s =
  s.page (cmdqPage q) (fun c => c.cmdqEnable q) := rfl
theorem exec_cmdqDisable (q : Fin 264) (s : State) : exec (.cmdqDisable q) s =
  s.page (cmdqPage q) (fun c => c.cmdqDisable q) := rfl
theorem exec_cmdqResume (q : Fin 264) (s : State) : exec (.cmdqResume q) s =
  s.page (cmdqPage q) (fun c => c.cmdqResume q) := rfl
theorem exec_abortHead (q : Fin 264) (s : State) : exec (.abortHead q) s =
  s.page (cmdqPage q) (fun c => c.abortHead q) := rfl
theorem exec_abortAll (q : Fin 264) (s : State) : exec (.abortAll q) s =
  s.page (cmdqPage q) (fun c => c.abortAll q) := rfl
theorem exec_cmdqCfg (q : Fin 264) (v : BitVec 64) (s : State) : exec (.cmdqCfg q v) s =
  s.page (cmdqPage q) (fun c => c.cmdqCfg q v.toNat) := rfl
theorem exec_feAdmit (v : BitVec 32) (s : State) : exec (.feAdmit v) s =
  s.page pgFE (fun c => c.feAdmit v.toNat) := rfl
theorem exec_feSched (v : BitVec 32) (s : State) : exec (.feSched v) s =
  s.page pgFE (fun c => c.feSched v.toNat) := rfl
theorem exec_swapCheck (s : State) : exec .swapCheck s =
  s.die (fun c => c.swapCheck) := rfl
theorem exec_swapDone (s : State) : exec .swapDone s =
  s.timed (fun c => c.swapDue) (fun c => c.swapDone) := rfl
theorem exec_ctxCreate (addr : BitVec 46) (s : State) : exec (.ctxCreate addr) s =
  s.page pgCPX (fun c => c.cpxRow 1 addr.toNat) := rfl
theorem exec_ctxDestroy (addr : BitVec 46) (s : State) : exec (.ctxDestroy addr) s =
  s.page pgCPX (fun c => c.cpxRow 2 addr.toNat) := rfl
theorem exec_ctxSwapOut (addr : BitVec 46) (s : State) : exec (.ctxSwapOut addr) s =
  s.page pgCPX (fun c => c.cpxRow 3 addr.toNat) := rfl
theorem exec_ctxSwapIn (addr : BitVec 46) (s : State) : exec (.ctxSwapIn addr) s =
  s.page pgCPX (fun c => c.cpxRow 4 addr.toNat) := rfl
theorem exec_ctxQuery (addr : BitVec 46) (s : State) : exec (.ctxQuery addr) s =
  s.page pgCPX (fun c => c.cpxRow 5 addr.toNat) := rfl
theorem exec_tilePin (addr : BitVec 46) (s : State) : exec (.tilePin addr) s =
  s.page pgCPX (fun c => c.cpxRow 6 addr.toNat) := rfl
theorem exec_tileUnpin (addr : BitVec 46) (s : State) : exec (.tileUnpin addr) s =
  s.page pgCPX (fun c => c.cpxRow 7 addr.toNat) := rfl
theorem exec_cpxRequestDone (s : State) : exec .cpxRequestDone s =
  s.timed (fun c => c.cpxDue) (fun c => c.cpxRequestDone) := rfl
theorem exec_cmdqBase (q : Fin 264) (cpl : Bool) (v : BitVec 64) (s : State) : exec (.cmdqBase q cpl v) s =
  s.page (cmdqPage q) (fun c => c.cmdqBase q cpl v.toNat) := rfl
theorem exec_kernel (q : Fin 264) (i : BitVec 32) (s : State) : exec (.kernel q i) s =
  s.die (fun c => c.kernel q i) := rfl
theorem exec_kernelLoad (q : Fin 264) (i : BitVec 32) (s : State) : exec (.kernelLoad q i) s =
  s.die (fun c => c.kernelLoad q i) := rfl
theorem exec_kernelPreload (n : Fin 512) (s : State) : exec (.kernelPreload n) s =
  s.die (fun c => c.kernelPreload n) := rfl
theorem exec_kernelEnd (n : Fin 512) (s : State) : exec (.kernelEnd n) s =
  s.timed (fun c => c.seqDue n) (fun c => (c.coreStart n).kernelEnd n) := rfl
theorem exec_bundle (n : Fin 512) (s : State) : exec (.bundle n) s =
  s.timed (fun c => c.seqDue n) (fun c => (c.coreStart n).bundle n) := rfl
theorem exec_stepOp (n : Fin 512) (slot : BitVec 64) (s : State) : exec (.stepOp n slot) s =
  s.eng (fun c => c.slotOp n (fun d => d.mtIssue n (d.coreOf n).b (setBits slot.toNat 63 60 0))) := rfl
theorem exec_veAdd (n : Fin 512) (slot : BitVec 64) (s : State) : exec (.veAdd n slot) s =
  s.eng (fun c => c.veRow n 0 slot.toNat) := rfl
theorem exec_veSub (n : Fin 512) (slot : BitVec 64) (s : State) : exec (.veSub n slot) s =
  s.eng (fun c => c.veRow n 1 slot.toNat) := rfl
theorem exec_veMul (n : Fin 512) (slot : BitVec 64) (s : State) : exec (.veMul n slot) s =
  s.eng (fun c => c.veRow n 2 slot.toNat) := rfl
theorem exec_veFma (n : Fin 512) (slot : BitVec 64) (s : State) : exec (.veFma n slot) s =
  s.eng (fun c => c.veRow n 3 slot.toNat) := rfl
theorem exec_veMin (n : Fin 512) (slot : BitVec 64) (s : State) : exec (.veMin n slot) s =
  s.eng (fun c => c.veRow n 4 slot.toNat) := rfl
theorem exec_veMax (n : Fin 512) (slot : BitVec 64) (s : State) : exec (.veMax n slot) s =
  s.eng (fun c => c.veRow n 5 slot.toNat) := rfl
theorem exec_veCmplt (n : Fin 512) (slot : BitVec 64) (s : State) : exec (.veCmplt n slot) s =
  s.eng (fun c => c.veRow n 6 slot.toNat) := rfl
theorem exec_veSelect (n : Fin 512) (slot : BitVec 64) (s : State) : exec (.veSelect n slot) s =
  s.eng (fun c => c.veRow n 7 slot.toNat) := rfl
theorem exec_veMov (n : Fin 512) (slot : BitVec 64) (s : State) : exec (.veMov n slot) s =
  s.eng (fun c => c.veRow n 8 slot.toNat) := rfl
theorem exec_veAct (n : Fin 512) (slot : BitVec 64) (s : State) : exec (.veAct n slot) s =
  s.eng (fun c => c.veRow n 9 slot.toNat) := rfl
theorem exec_veRsum (n : Fin 512) (slot : BitVec 64) (s : State) : exec (.veRsum n slot) s =
  s.eng (fun c => c.veRow n 10 slot.toNat) := rfl
theorem exec_veRmax (n : Fin 512) (slot : BitVec 64) (s : State) : exec (.veRmax n slot) s =
  s.eng (fun c => c.veRow n 11 slot.toNat) := rfl
theorem exec_veRmin (n : Fin 512) (slot : BitVec 64) (s : State) : exec (.veRmin n slot) s =
  s.eng (fun c => c.veRow n 12 slot.toNat) := rfl
theorem exec_veArgmax (n : Fin 512) (slot : BitVec 64) (s : State) : exec (.veArgmax n slot) s =
  s.eng (fun c => c.veRow n 13 slot.toNat) := rfl
theorem exec_veLsum (n : Fin 512) (slot : BitVec 64) (s : State) : exec (.veLsum n slot) s =
  s.eng (fun c => c.veRow n 14 slot.toNat) := rfl
theorem exec_veWiden (n : Fin 512) (slot : BitVec 64) (s : State) : exec (.veWiden n slot) s =
  s.eng (fun c => c.veRow n 15 slot.toNat) := rfl
theorem exec_veNarrow (n : Fin 512) (slot : BitVec 64) (s : State) : exec (.veNarrow n slot) s =
  s.eng (fun c => c.veRow n 16 slot.toNat) := rfl
theorem exec_vePack (n : Fin 512) (slot : BitVec 64) (s : State) : exec (.vePack n slot) s =
  s.eng (fun c => c.veRow n 17 slot.toNat) := rfl
theorem exec_spstep (n : Fin 512) (slot : BitVec 64) (s : State) : exec (.spstep n slot) s =
  s.eng (fun c => c.slotOp n (fun d => d.siuIssue n (d.coreOf n).b (setBits slot.toNat 63 60 0))) := rfl
theorem exec_probe (n : Fin 512) (slot : BitVec 64) (s : State) : exec (.probe n slot) s =
  s.eng (fun c => c.slotOp n (fun d => d.siuIssue n (d.coreOf n).b (setBits slot.toNat 63 60 1))) := rfl
theorem exec_joinOp (n : Fin 512) (slot : BitVec 64) (s : State) : exec (.joinOp n slot) s =
  s.eng (fun c => c.slotOp n (fun d => d.siuIssue n (d.coreOf n).b (setBits slot.toNat 63 60 2))) := rfl
theorem exec_maskOp (n : Fin 512) (slot : BitVec 64) (s : State) : exec (.maskOp n slot) s =
  s.eng (fun c => c.slotOp n (fun d => d.siuIssue n (d.coreOf n).b (setBits slot.toNat 63 60 3))) := rfl
theorem exec_ldeLinear (n : Fin 512) (slot : BitVec 64) (s : State) : exec (.ldeLinear n slot) s =
  s.eng (fun c => c.xferRow n 3 0 slot.toNat) := rfl
theorem exec_ldeStrided (n : Fin 512) (slot : BitVec 64) (s : State) : exec (.ldeStrided n slot) s =
  s.eng (fun c => c.xferRow n 3 1 slot.toNat) := rfl
theorem exec_ldeIndexed (n : Fin 512) (slot : BitVec 64) (s : State) : exec (.ldeIndexed n slot) s =
  s.eng (fun c => c.xferRow n 3 2 slot.toNat) := rfl
theorem exec_ldeRuns (n : Fin 512) (slot : BitVec 64) (s : State) : exec (.ldeRuns n slot) s =
  s.eng (fun c => c.xferRow n 3 3 slot.toNat) := rfl
theorem exec_steLinear (n : Fin 512) (slot : BitVec 64) (s : State) : exec (.steLinear n slot) s =
  s.eng (fun c => c.xferRow n 4 0 slot.toNat) := rfl
theorem exec_steStrided (n : Fin 512) (slot : BitVec 64) (s : State) : exec (.steStrided n slot) s =
  s.eng (fun c => c.xferRow n 4 1 slot.toNat) := rfl
theorem exec_steIndexed (n : Fin 512) (slot : BitVec 64) (s : State) : exec (.steIndexed n slot) s =
  s.eng (fun c => c.xferRow n 4 2 slot.toNat) := rfl
theorem exec_portTransfer (n : Fin 512) (s : State) : exec (.portTransfer n) s =
  s.die (fun c => c.portTransfer n) := rfl
theorem exec_scuNop (n : Fin 512) (slot : BitVec 64) (s : State) : exec (.scuNop n slot) s =
  s.eng (fun c => c.scuRow n 0 slot.toNat) := rfl
theorem exec_scuSet (n : Fin 512) (slot : BitVec 64) (s : State) : exec (.scuSet n slot) s =
  s.eng (fun c => c.scuRow n 1 slot.toNat) := rfl
theorem exec_scuAdd (n : Fin 512) (slot : BitVec 64) (s : State) : exec (.scuAdd n slot) s =
  s.eng (fun c => c.scuRow n 2 slot.toNat) := rfl
theorem exec_scuSub (n : Fin 512) (slot : BitVec 64) (s : State) : exec (.scuSub n slot) s =
  s.eng (fun c => c.scuRow n 3 slot.toNat) := rfl
theorem exec_ldp (n : Fin 512) (slot : BitVec 64) (s : State) : exec (.ldp n slot) s =
  s.eng (fun c => c.scuRow n 4 slot.toNat) := rfl
theorem exec_arm (n : Fin 512) (slot : BitVec 64) (s : State) : exec (.arm n slot) s =
  s.eng (fun c => c.scuRow n 5 slot.toNat) := rfl
theorem exec_setk (n : Fin 512) (slot : BitVec 64) (s : State) : exec (.setk n slot) s =
  s.eng (fun c => c.scuRow n 6 slot.toNat) := rfl
theorem exec_dbgResume (n : Fin 512) (s : State) : exec (.dbgResume n) s =
  s.die (fun c => c.dbgResume n) := rfl
theorem exec_dbgStep (n : Fin 512) (s : State) : exec (.dbgStep n) s =
  s.die (fun c => c.dbgStep n) := rfl
theorem exec_dbgHalt (n : Fin 512) (s : State) : exec (.dbgHalt n) s =
  s.die (fun c => c.dbgHalt n) := rfl
theorem exec_vitMark (c : Fin 64) (v : BitVec 32) (s : State) : exec (.vitMark c v) s =
  s.page (pgVIT c) (fun d => d.vitMark c v.toNat) := rfl
theorem exec_vitClear (c : Fin 64) (s : State) : exec (.vitClear c) s =
  s.page (pgVIT c) (fun d => d.vitClear c) := rfl
theorem exec_vitRdIdx (c : Fin 64) (i : Fin 16384) (s : State) : exec (.vitRdIdx c i) s =
  s.page (pgVIT c) (fun d => d.vitRead c i) := rfl
theorem exec_route (q : Fin 264) (i : BitVec 32) (s : State) : exec (.route q i) s =
  s.die (fun c => c.route q i) := rfl
theorem exec_domainLoad (q : Fin 264) (i : BitVec 32) (s : State) : exec (.domainLoad q i) s =
  s.die (fun c => c.domainLoad q i) := rfl
theorem exec_routeBias (q : Fin 264) (i : BitVec 32) (s : State) : exec (.routeBias q i) s =
  s.die (fun c => c.routeBias q i) := rfl
theorem exec_laneDrain (c : Fin 64) (s : State) : exec (.laneDrain c) s =
  s.die (fun d => d.laneDrain c) := rfl
theorem exec_lqTimeout (c : Fin 64) (s : State) : exec (.lqTimeout c) s =
  s.timed (fun d => d.lqDue c) (fun d => d.lqTimeout c) := rfl
theorem exec_chargeGrant (c : Fin 64) (s : State) : exec (.chargeGrant c) s =
  s.die (fun d => d.chargeGrant c) := rfl
theorem exec_dispatch (q : Fin 264) (i : BitVec 32) (s : State) : exec (.dispatch q i) s =
  s.die (fun c => c.dispatch q i) := rfl
theorem exec_retrn (q : Fin 264) (i : BitVec 32) (s : State) : exec (.retrn q i) s =
  s.die (fun c => c.retrn q i) := rfl
theorem exec_cancel (q : Fin 264) (i : BitVec 32) (s : State) : exec (.cancel q i) s =
  s.die (fun c => c.cancel q i) := rfl
theorem exec_combine (q : Fin 264) (i : BitVec 32) (s : State) : exec (.combine q i) s =
  s.die (fun c => c.combine q i) := rfl
theorem exec_droverIssue (c : Fin 64) (s : State) : exec (.droverIssue c) s =
  s.die (fun d => d.droverIssue c) := rfl
theorem exec_combineToken (w : Fin 64) (s : State) : exec (.combineToken w) s =
  s.die (fun c => c.combineToken w) := rfl
theorem exec_arrivalApply (w : Fin 64) (s : State) : exec (.arrivalApply w) s =
  s.die (fun c => c.arrivalApply w) := rfl
theorem exec_retTimeout (w : Fin 64) (s : State) : exec (.retTimeout w) s =
  s.timed (fun c => c.retDue w) (fun c => c.retTimeout w) := rfl
theorem exec_moveIn (q : Fin 264) (i : BitVec 32) (s : State) : exec (.moveIn q i) s =
  s.die (fun c => c.moveIn q i) := rfl
theorem exec_moveOut (q : Fin 264) (i : BitVec 32) (s : State) : exec (.moveOut q i) s =
  s.die (fun c => c.moveOut q i) := rfl
theorem exec_pin (q : Fin 264) (i : BitVec 32) (s : State) : exec (.pin q i) s =
  s.die (fun c => c.tmPin q i) := rfl
theorem exec_unpin (q : Fin 264) (i : BitVec 32) (s : State) : exec (.unpin q i) s =
  s.die (fun c => c.tmUnpin q i) := rfl
theorem exec_clearPoison (q : Fin 264) (i : BitVec 32) (s : State) : exec (.clearPoison q i) s =
  s.die (fun c => c.tmClearPoison q i) := rfl
theorem exec_setEnc (q : Fin 264) (i : BitVec 32) (s : State) : exec (.setEnc q i) s =
  s.die (fun c => c.tmSetEnc q i) := rfl
theorem exec_ttBind (q : Fin 264) (i : BitVec 32) (s : State) : exec (.ttBind q i) s =
  s.die (fun c => c.ttBind q i) := rfl
theorem exec_ttUnbind (q : Fin 264) (i : BitVec 32) (s : State) : exec (.ttUnbind q i) s =
  s.die (fun c => c.ttUnbind q i) := rfl
theorem exec_demandBind (q : Fin 264) (i : BitVec 32) (s : State) : exec (.demandBind q i) s =
  s.die (fun c => c.demandBind q i) := rfl
theorem exec_demandUnbind (q : Fin 264) (i : BitVec 32) (s : State) : exec (.demandUnbind q i) s =
  s.die (fun c => c.demandUnbind q i) := rfl
theorem exec_ttEntry (sh : Fin 16) (x : BitVec 8) (s : State) : exec (.ttEntry sh x) s =
  s.die (fun c => c.ttEntry sh x.toNat) := rfl
theorem exec_noticeWrite (job : BitVec 16) (node : BitVec 18) (addr : BitVec 46) (data : List (BitVec 8)) (s : State) : exec (.noticeWrite job node addr data) s =
  s.die (fun c => c.noticeRow job.toNat node.toNat addr.toNat data) := rfl
theorem exec_moveClaim (sh : Fin 16) (s : State) : exec (.moveClaim sh) s =
  s.die (fun c => c.claimRow sh) := rfl
theorem exec_moveComplete (sh : Fin 16) (tile : Fin 25165824) (s : State) : exec (.moveComplete sh tile) s =
  s.served (fun c => (if s.dieOn then (keepFz c (c.moveComplete sh tile).tilesMoved) else c, .none)) := rfl
theorem exec_scrub (sh : Fin 16) (s : State) : exec (.scrub sh) s =
  s.die (fun c => c.scrub sh) := rfl
theorem exec_lpRefresh (sh : Fin 16) (s : State) : exec (.lpRefresh sh) s =
  s.die (fun c => c.lpRefresh sh) := rfl
theorem exec_lpRetrain (sh : Fin 16) (s : State) : exec (.lpRetrain sh) s =
  s.die (fun c => c.lpRetrain sh) := rfl
theorem exec_lpPowerDown (p : LpCh) (s : State) : exec (.lpPowerDown p) s =
  s.die (fun c => c.lpPowerDown p.shu p.ch) := rfl
theorem exec_lpDeepSleep (sh : Fin 16) (s : State) : exec (.lpDeepSleep sh) s =
  s.power (fun c => (c.passTo (c.sleepDue sh)).lpDeepSleep sh) := rfl
theorem exec_bpmCtrl (c : Fin 64) (v : BitVec 32) (s : State) : exec (.bpmCtrl c v) s =
  s.page (pgBPM c) (fun d => d.bpmCtrl c v.toNat) := rfl
theorem exec_bpmPoolCfg (c : Fin 64) (p : Fin 32) (v : BitVec 64) (s : State) : exec (.bpmPoolCfg c p v) s =
  s.page (pgBPM c) (fun d => d.bpmPoolCfg c p v.toNat) := rfl
theorem exec_poolBuildDone (c : Fin 64) (p : Fin 32) (s : State) : exec (.poolBuildDone c p) s =
  s.die (fun d => d.poolBuildDone c p) := rfl
theorem exec_bufRetain (who : Poster) (h : BitVec 32) (s : State) : exec (.bufRetain who h) s =
  s.die (fun c => (c.bufRetain h.toNat none 0).2) := rfl
theorem exec_bufRelease (who : Poster) (h : BitVec 32) (s : State) : exec (.bufRelease who h) s =
  s.die (fun c => (c.bufRelease h.toNat none 0).2) := rfl
theorem exec_post (q : Fin 264) (i : BitVec 32) (s : State) : exec (.post q i) s =
  s.die (fun c => c.post q i) := rfl
theorem exec_take (q : Fin 264) (i : BitVec 32) (s : State) : exec (.take q i) s =
  s.die (fun c => c.take q i) := rfl
theorem exec_alloc (q : Fin 264) (i : BitVec 32) (s : State) : exec (.alloc q i) s =
  s.die (fun c => c.alloc q i) := rfl
theorem exec_retain (q : Fin 264) (i : BitVec 32) (s : State) : exec (.retain q i) s =
  s.die (fun c => c.retain q i) := rfl
theorem exec_release (q : Fin 264) (i : BitVec 32) (s : State) : exec (.release q i) s =
  s.die (fun c => c.release q i) := rfl
theorem exec_mbxPost (who : Poster) (b : Fin 3072) (post : BitVec 128) (s : State) : exec (.mbxPost who b post) s =
  s.die (fun c => (c.mbxPost b (bits post.toNat 63 0) (bits post.toNat 79 64) (c.posterId who).1 (c.posterId who).2 false).2) := rfl
theorem exec_mbxLock (who : Poster) (b : Fin 3072) (s : State) : exec (.mbxLock who b) s =
  s.die (fun c => (c.mbxLock (lockNo who) b).2) := rfl
theorem exec_mbxTake (who : Poster) (b : Fin 3072) (seq : BitVec 16) (s : State) : exec (.mbxTake who b seq) s =
  s.die (fun c => c.mbxTake (lockNo who) b seq.toNat) := rfl
theorem exec_mbxRelease (who : Poster) (b : Fin 3072) (s : State) : exec (.mbxRelease who b) s =
  s.die (fun c => c.mbxRelease (lockNo who) b) := rfl
theorem exec_mbxBreak (who : Poster) (b : Fin 3072) (s : State) : exec (.mbxBreak who b) s =
  s.die (fun c => c.mbxBreak b) := rfl
theorem exec_mbxCfg (c : Fin 64) (i : Fin 48) (v : BitVec 32) (s : State) : exec (.mbxCfg c i v) s =
  s.page (pgMBX c) (fun d => d.mbxCfgWrite c i v.toNat) := rfl
theorem exec_bpmTable (c : Fin 64) (v : BitVec 64) (s : State) : exec (.bpmTable c v) s =
  s.page (pgBPM c) (fun d => d.bpmTable c v.toNat) := rfl
theorem exec_caindWrite (p : Fin 16) (pkt : Pkt) (s : State) : exec (.caindWrite p pkt) s =
  s.die (fun c => c.caind p 0 pkt.hdr pkt.data) := rfl
theorem exec_caindReturn (p : Fin 16) (pkt : Pkt) (s : State) : exec (.caindReturn p pkt) s =
  s.die (fun c => c.caind p 1 pkt.hdr pkt.data) := rfl
theorem exec_caindPost (p : Fin 16) (pkt : Pkt) (s : State) : exec (.caindPost p pkt) s =
  s.die (fun c => c.caind p 2 pkt.hdr pkt.data) := rfl
theorem exec_caindRead (p : Fin 16) (pkt : Pkt) (s : State) : exec (.caindRead p pkt) s =
  s.die (fun c => c.caind p 3 pkt.hdr pkt.data) := rfl
theorem exec_caindReadData (p : Fin 16) (pkt : Pkt) (s : State) : exec (.caindReadData p pkt) s =
  s.die (fun c => c.caind p 4 pkt.hdr pkt.data) := rfl
theorem exec_caindAck (p : Fin 16) (pkt : Pkt) (s : State) : exec (.caindAck p pkt) s =
  s.die (fun c => c.caind p 5 pkt.hdr pkt.data) := rfl
theorem exec_caindColl (p : Fin 16) (pkt : Pkt) (s : State) : exec (.caindColl p pkt) s =
  s.die (fun c => c.caind p 6 pkt.hdr pkt.data) := rfl
theorem exec_caindNotice (p : Fin 16) (pkt : Pkt) (s : State) : exec (.caindNotice p pkt) s =
  s.die (fun c => c.caind p 7 pkt.hdr pkt.data) := rfl
theorem exec_forward (p : Fin 16) (pkt : Pkt) (s : State) : exec (.forward p pkt) s =
  s.served (fun c => if c.pwr.st = .active then c.forwardRow p pkt.hdr pkt.data else (c, .none)) := rfl
theorem exec_ackFlush (node : BitVec 18) (s : State) : exec (.ackFlush node) s =
  s.die (fun c => c.ackFlush node.toNat) := rfl
theorem exec_txnTimeout (t : Fin 16384) (s : State) : exec (.txnTimeout t) s =
  s.timed (fun c => c.txnDue t) (fun c => (c.txnTimeout t).unitsGo) := rfl
theorem exec_frame (l : Link) (f : FrameIn) (s : State) : exec (.frame l f) s =
  (match l with
  | .caind p => s.die (fun c => (c.portFrame p f).healthGo)
  | .halter => s.aon (fun c => (c.hltFrame f).healthGo)) := rfl
theorem exec_replay (l : Link) (ack : BitVec 16) (s : State) : exec (.replay l ack) s =
  (match l with
  | .caind p => s.die (fun c => (c.portReplay p ack.toNat).healthGo)
  | .halter => s.aon (fun c => (c.hltReplay ack.toNat).healthGo)) := rfl
theorem exec_cptEnable (p : Fin 16) (v : BitVec 32) (s : State) : exec (.cptEnable p v) s =
  s.page (pgCPT p) (fun c => (c.cptEnable p v.toNat).healthGo) := rfl
theorem exec_cptRetrain (p : Fin 16) (s : State) : exec (.cptRetrain p) s =
  s.page (pgCPT p) (fun c => (c.cptRetrain p).healthGo) := rfl
theorem exec_portTrained (p : Fin 16) (peer : PortPeer) (s : State) : exec (.portTrained p peer) s =
  s.die (fun c => (c.portTrained p peer).healthGo) := rfl
theorem exec_portDown (p : Fin 16) (lanes : BitVec 8) (s : State) : exec (.portDown p lanes) s =
  s.die (fun c => ((c.portDown p lanes.toNat).unitsGo).healthGo) := rfl
theorem exec_admitJob (job : BitVec 12) (gen : BitVec 4) (s : State) : exec (.admitJob job gen) s =
  s.page pgCFB (fun c => c.admitJob job.toNat gen.toNat) := rfl
theorem exec_drain (job : BitVec 12) (s : State) : exec (.drain job) s =
  s.page pgCFB (fun c => c.drain job.toNat) := rfl
theorem exec_remove (job : BitVec 12) (s : State) : exec (.remove job) s =
  s.page pgCFB (fun c => (c.remove job.toNat).unitsGo) := rfl
theorem exec_allReduce (q : Fin 264) (i : BitVec 32) (s : State) : exec (.allReduce q i) s =
  s.die (fun c => c.allReduce q i) := rfl
theorem exec_reduceScatter (q : Fin 264) (i : BitVec 32) (s : State) : exec (.reduceScatter q i) s =
  s.die (fun c => c.reduceScatter q i) := rfl
theorem exec_allGather (q : Fin 264) (i : BitVec 32) (s : State) : exec (.allGather q i) s =
  s.die (fun c => c.allGather q i) := rfl
theorem exec_allToAll (q : Fin 264) (i : BitVec 32) (s : State) : exec (.allToAll q i) s =
  s.die (fun c => c.allToAll q i) := rfl
theorem exec_broadcast (q : Fin 264) (i : BitVec 32) (s : State) : exec (.broadcast q i) s =
  s.die (fun c => c.broadcast q i) := rfl
theorem exec_mload (q : Fin 264) (i : BitVec 32) (s : State) : exec (.mload q i) s =
  s.die (fun c => c.mload q i) := rfl
theorem exec_collSend (sl : Fin 64) (s : State) : exec (.collSend sl) s =
  s.die (fun c => c.collSend sl) := rfl
theorem exec_collTimeout (sl : Fin 64) (s : State) : exec (.collTimeout sl) s =
  s.timed (fun c => c.collDue sl) (fun c => c.collTimeout sl) := rfl
theorem exec_cfbNode (v : BitVec 32) (s : State) : exec (.cfbNode v) s =
  s.page pgCFB (fun c => c.cfbWrite 0x200 v.toNat) := rfl
theorem exec_halterWrite (pkt : HostPkt) (s : State) : exec (.halterWrite pkt) s =
  s.served (fun c => if hpF pkt 127 124 = 0 then c.hltArrive pkt else (c, .none)) := rfl
theorem exec_halterRead (pkt : HostPkt) (s : State) : exec (.halterRead pkt) s =
  s.served (fun c => if hpF pkt 127 124 = 1 then c.hltArrive pkt else (c, .none)) := rfl
theorem exec_halterMalformed (pkt : HostPkt) (s : State) : exec (.halterMalformed pkt) s =
  s.served (fun c => if !(hpCrcOk pkt) || hpMalformed pkt c.hlt.htags then c.hltArrive pkt else (c, .none)) := rfl
theorem exec_hltEnable (on : Bool) (s : State) : exec (.hltEnable on) s =
  s.page pgHLT (fun c => c.hltEnable on) := rfl
theorem exec_hltRetrain (s : State) : exec .hltRetrain s =
  s.page pgHLT (fun c => c.hltRetrain) := rfl
theorem exec_halterTrained (fail : BitVec 2) (ha8 : Bool) (version : BitVec 16) (htags : BitVec 11) (lanes : BitVec 8) (s : State) : exec (.halterTrained fail ha8 version htags lanes) s =
  s.aon (fun c => c.hltTrained fail ha8 version htags lanes) := rfl
theorem exec_halterDown (lanes : BitVec 8) (s : State) : exec (.halterDown lanes) s =
  s.aon (fun c => c.hltDown lanes) := rfl
theorem exec_irqPendClear (j : Fin 8) (v : BitVec 64) (s : State) : exec (.irqPendClear j v) s =
  s.page pgIRQ (fun c => c.irqClear j v.toNat) := rfl
theorem exec_irqHost (j : Fin 8) (v : BitVec 64) (s : State) : exec (.irqHost j v) s =
  s.page pgIRQ (fun c => c.irqHostEn j v.toNat) := rfl
theorem exec_irqCpx (j : Fin 8) (v : BitVec 64) (s : State) : exec (.irqCpx j v) s =
  s.page pgIRQ (fun c => c.irqCpxEn j v.toNat) := rfl
theorem exec_tbpIn (s : State) : exec .tbpIn s =
  s.aon (fun c => c.tbpIn) := rfl
theorem exec_tbpOut (s : State) : exec .tbpOut s =
  s.aon (fun c => (c.passTo c.pulseDue).tbpOut) := rfl
theorem exec_holdover (s : State) : exec .holdover s =
  s.aon (fun c => (c.passTo c.holdoverDue).holdover) := rfl
theorem exec_tbsSet (v : BitVec 64) (s : State) : exec (.tbsSet v) s =
  s.page pgTBS (fun c => c.tbsSet v) := rfl
theorem exec_invArm (s : State) : exec .invArm s =
  s.page pgTBS (fun c => c.invArm) := rfl
theorem exec_invCancel (s : State) : exec .invCancel s =
  s.page pgTBS (fun c => c.invCancel) := rfl
theorem exec_inventorySnapshot (s : State) : exec .inventorySnapshot s =
  s.aon (fun c => (c.passTo c.snapDue).snapshot) := rfl
theorem exec_sensorSample (i : Fin 334) (v : Option (BitVec 32)) (s : State) : exec (.sensorSample i v) s =
  if (match v with | some x => outsideRatings i x.toInt | none => false) then .fault .outsideRatings else s.power (fun c => c.sensorRow i v) := rfl
theorem exec_ledgerWrite (s : State) : exec .ledgerWrite s =
  s.store s.chip.pwr.aux12 (fun c => c.ledgerWrite) := rfl
theorem exec_i3cRead (s : State) : exec .i3cRead s =
  s.aon (fun c => c.i3cRead) := rfl
theorem exec_entdaa (a : BitVec 7) (s : State) : exec (.entdaa a) s =
  s.aon (fun c => c.i3cAddr a) := rfl
theorem exec_setdasa (a : BitVec 7) (s : State) : exec (.setdasa a) s =
  s.aon (fun c => c.i3cAddr a) := rfl
theorem exec_rstdaa (s : State) : exec .rstdaa s =
  s.aon (fun c => { c with cur.dynAddr := none }) := rfl
theorem exec_enec (events : BitVec 8) (s : State) : exec (.enec events) s =
  s.aon (fun c => c.i3cEvents true events) := rfl
theorem exec_disec (events : BitVec 8) (s : State) : exec (.disec events) s =
  s.aon (fun c => c.i3cEvents false events) := rfl
theorem exec_getpid (s : State) : exec .getpid s =
  s.aon (fun c => c.i3cDrive Config.i3cPid) := rfl
theorem exec_getbcr (s : State) : exec .getbcr s =
  s.aon (fun c => c.i3cDrive [Config.i3cBcr]) := rfl
theorem exec_getdcr (s : State) : exec .getdcr s =
  s.aon (fun c => c.i3cDrive [Config.i3cDcr]) := rfl
theorem exec_getstatus (s : State) : exec .getstatus s =
  s.aon (fun c => c.i3cStatus) := rfl
theorem exec_getmwl (s : State) : exec .getmwl s =
  s.aon (fun c => c.i3cDrive (toBytes 2 256).reverse) := rfl
theorem exec_getmrl (s : State) : exec .getmrl s =
  s.aon (fun c => c.i3cDrive (toBytes 2 256).reverse) := rfl
theorem exec_ibi (s : State) : exec .ibi s =
  s.aon (fun c => c.ibi) := rfl
theorem exec_identify (path : FramePath) (args : List (BitVec 8)) (crc : BitVec 32) (s : State) : exec (.identify path args crc) s =
  s.served (fun c => c.frameRow path 1 args crc) := rfl
theorem exec_health (path : FramePath) (args : List (BitVec 8)) (crc : BitVec 32) (s : State) : exec (.health path args crc) s =
  s.served (fun c => c.frameRow path 2 args crc) := rfl
theorem exec_sensor (path : FramePath) (args : List (BitVec 8)) (crc : BitVec 32) (s : State) : exec (.sensor path args crc) s =
  s.served (fun c => c.frameRow path 3 args crc) := rfl
theorem exec_ledger (path : FramePath) (args : List (BitVec 8)) (crc : BitVec 32) (s : State) : exec (.ledger path args crc) s =
  s.served (fun c => c.frameRow path 4 args crc) := rfl
theorem exec_regRead (path : FramePath) (args : List (BitVec 8)) (crc : BitVec 32) (s : State) : exec (.regRead path args crc) s =
  s.served (fun c => c.frameRow path 5 args crc) := rfl
theorem exec_regWrite (path : FramePath) (args : List (BitVec 8)) (crc : BitVec 32) (s : State) : exec (.regWrite path args crc) s =
  s.served (fun c => c.frameRow path 6 args crc) := rfl
theorem exec_snapshot (path : FramePath) (args : List (BitVec 8)) (crc : BitVec 32) (s : State) : exec (.snapshot path args crc) s =
  s.served (fun c => c.frameRow path 7 args crc) := rfl
theorem exec_time (path : FramePath) (args : List (BitVec 8)) (crc : BitVec 32) (s : State) : exec (.time path args crc) s =
  s.served (fun c => c.frameRow path 8 args crc) := rfl
theorem exec_fwStage (path : FramePath) (args : List (BitVec 8)) (crc : BitVec 32) (s : State) : exec (.fwStage path args crc) s =
  s.served (fun c => c.frameRow path 9 args crc) := rfl
theorem exec_fwStart (path : FramePath) (args : List (BitVec 8)) (crc : BitVec 32) (s : State) : exec (.fwStart path args crc) s =
  s.served (fun c => c.frameRow path 10 args crc) := rfl
theorem exec_fwStatus (path : FramePath) (args : List (BitVec 8)) (crc : BitVec 32) (s : State) : exec (.fwStatus path args crc) s =
  s.served (fun c => c.frameRow path 11 args crc) := rfl
theorem exec_resetFrame (path : FramePath) (args : List (BitVec 8)) (crc : BitVec 32) (s : State) : exec (.resetFrame path args crc) s =
  s.served (fun c => c.frameRow path 12 args crc) := rfl
theorem exec_attest (addr : BitVec 46) (s : State) : exec (.attest addr) s =
  s.store s.dieOn (fun c => c.secRow 1 addr.toNat) := rfl
theorem exec_pubkey (addr : BitVec 46) (s : State) : exec (.pubkey addr) s =
  s.store s.dieOn (fun c => c.secRow 2 addr.toNat) := rfl
theorem exec_keyInstall (addr : BitVec 46) (s : State) : exec (.keyInstall addr) s =
  s.store s.dieOn (fun c => c.secRow 3 addr.toNat) := rfl
theorem exec_setCurrent (addr : BitVec 46) (s : State) : exec (.setCurrent addr) s =
  s.store s.dieOn (fun c => c.secRow 4 addr.toNat) := rfl
theorem exec_retire (addr : BitVec 46) (s : State) : exec (.retire addr) s =
  s.store s.dieOn (fun c => c.secRow 5 addr.toNat) := rfl
theorem exec_rekey (addr : BitVec 46) (s : State) : exec (.rekey addr) s =
  s.store s.dieOn (fun c => c.secRow 6 addr.toNat) := rfl
theorem exec_erase (addr : BitVec 46) (s : State) : exec (.erase addr) s =
  s.store s.dieOn (fun c => c.secRow 7 addr.toNat) := rfl
theorem exec_registerWrite (who : Poster) (page : BitVec 16) (off : Fin 4096) (wide : Bool) (v : BitVec 64) (s : State) : exec (.registerWrite who page off wide v) s =
  s.served (fun c => c.regWriteBy who page.toNat off (if wide then 8 else 4) v.toNat) := rfl
theorem exec_secRequestDone (s : State) : exec .secRequestDone s =
  s.store s.dieOn (fun c => (c.passTo c.secDue).secRequestDone) := rfl
theorem exec_fwUpdateDone (s : State) : exec .fwUpdateDone s =
  s.store s.chip.pwr.aux12 (fun c => c.fwDone) := rfl
theorem exec_resetL (s : State) : exec .resetL s =
  s.power (fun c => c.resetLow) := rfl
theorem exec_aux12On (s : State) : exec .aux12On s =
  s.power (fun c => c.aux12On) := rfl
theorem exec_aux12Loss (s : State) : exec .aux12Loss s =
  .next { s with chip := s.chip.lossFz } := rfl
theorem exec_mainUv (s : State) : exec .mainUv s =
  s.power (fun c => c.mainUv) := rfl
theorem exec_autoRestart (s : State) : exec .autoRestart s =
  s.power (fun c => c.autoRestart) := rfl
theorem exec_droop (ns : BitVec 32) (s : State) : exec (.droop ns) s =
  s.power (fun c => c.droop ns.toNat) := rfl
theorem exec_phaseAdd (s : State) : exec .phaseAdd s =
  s.power (fun c => c.phaseAdd) := rfl
theorem exec_phaseShed (s : State) : exec .phaseShed s =
  s.power (fun c => (c.passTo c.shedDue).phaseShed) := rfl
theorem exec_dvfsStep (s : State) : exec .dvfsStep s =
  s.power (fun c => (c.passTo (c.pwr.lastDvfs + 25000)).dvfsStep) := rfl
theorem exec_thermStep (s : State) : exec .thermStep s =
  s.power (fun c => (c.passTo (c.pwr.lastTherm + 1000000)).thermStep) := rfl
theorem exec_thermalTrip (site : Fin 64) (s : State) : exec (.thermalTrip site) s =
  s.power (fun c => c.thermalTrip site) := rfl
theorem exec_gate (c : Fin 64) (s : State) : exec (.gate c) s =
  s.die (fun d => d.gate c) := rfl
theorem exec_wake (c : Fin 64) (s : State) : exec (.wake c) s =
  s.timed (fun _ => 0) (fun d => ((if d.pwr.aclkOn then d else d.wake c).passTo (if d.pwr.aclkOn then d else d.wake c).wakeStart).wake c) := rfl
theorem exec_wakeReady (c : Fin 64) (s : State) : exec (.wakeReady c) s =
  s.timed (fun d => d.wakeDue c) (fun d => d.wakeReady c) := rfl
theorem exec_aclkIdle (s : State) : exec .aclkIdle s =
  s.power (fun c => (c.passTo c.idleDue).aclkIdle) := rfl
theorem exec_active (s : State) : exec .active s =
  s.power (fun c => c.toActive) := rfl
theorem exec_standby (s : State) : exec .standby s =
  s.power (fun c => c.toStandby) := rfl
theorem exec_aux (s : State) : exec .aux s =
  s.power (fun c => c.toAux) := rfl
theorem exec_coldReset (s : State) : exec .coldReset s =
  s.power (fun c => c.resetTo .cold 3) := rfl
theorem exec_moduleReset (s : State) : exec .moduleReset s =
  s.power (fun c => c.resetTo .module 3) := rfl
theorem exec_dieWarmReset (s : State) : exec .dieWarmReset s =
  s.power (fun c => c.resetTo .dieWarm 3) := rfl
theorem exec_clusterReset (c : Fin 64) (s : State) : exec (.clusterReset c) s =
  s.power (fun d => d.clusterReset c) := rfl
theorem exec_coreReset (n : Fin 512) (s : State) : exec (.coreReset n) s =
  s.power (fun c => c.coreReset n) := rfl
theorem exec_coreFence (n : Fin 512) (page : BitVec 16) (b : Fin 16) (s : State) : exec (.coreFence n page b) s =
  .next { s with chip := if s.dieOn then s.chip.faultsGo (s.chip.coreFenceFz n page.toNat b) else s.chip } := rfl
theorem exec_clusterFence (c : Fin 64) (page : BitVec 16) (b : Fin 16) (s : State) : exec (.clusterFence c page b) s =
  .next { s with chip := if s.dieOn then s.chip.faultsGo (s.chip.clusterFenceFz c page.toNat b) else s.chip } := rfl
theorem exec_fenceCore (n : Fin 512) (s : State) : exec (.fenceCore n) s =
  .next { s with chip := if s.chip.pageLive pgFLT then s.chip.faultsGo (s.chip.fenceCoreFz n 0 0xFF).healthGo else s.chip } := rfl
theorem exec_fenceCluster (c : Fin 64) (s : State) : exec (.fenceCluster c) s =
  .next { s with chip := if s.chip.pageLive pgFLT then s.chip.faultsGo (s.chip.fenceClusterFz c 0 0xFF).healthGo else s.chip } := rfl
theorem exec_fenceFuse (cl : Bool) (u : Fin 512) (okA okB : Bool) (s : State) : exec (.fenceFuse cl u okA okB) s =
  .next { s with chip := s.chip.fuseFz cl u okA okB } := rfl
theorem exec_dieError (page : BitVec 16) (b : Fin 16) (s : State) : exec (.dieError page b) s =
  s.die (fun c => (c.dieErrorRow page.toNat b).healthGo) := rfl
theorem exec_dieHoldExpiry (s : State) : exec .dieHoldExpiry s =
  s.power (fun c => (c.passTo c.holdDue).dieHold) := rfl
theorem exec_fltWdtKick (k : Fin 4) (s : State) : exec (.fltWdtKick k) s =
  s.page pgFLT (fun c => c.wdtKick k) := rfl
theorem exec_wdt (k : Fin 4) (s : State) : exec (.wdt k) s =
  s.timed (fun c => c.wdtDue k) (fun c => (c.wdt k).healthGo) := rfl
theorem exec_errInj (page : BitVec 16) (v : BitVec 32) (s : State) : exec (.errInj page v) s =
  s.page page.toNat (fun c => c.errInj page.toNat v.toNat) := rfl
theorem exec_bootComplete (s : State) : exec .bootComplete s =
  .next { s with chip := s.chip.bootFz.healthGo } := rfl
theorem exec_resetLRelease (s : State) : exec .resetLRelease s =
  s.power (fun c => c.resetRelease) := rfl
theorem exec_tapInstruction (t : TapInstr) (s : State) : exec (.tapInstruction t) s =
  s.power (fun c => c.tapLoad t) := rfl
theorem exec_main48Applied (s : State) : exec .main48Applied s =
  s.power (fun c => c.main48On) := rfl
theorem exec_resetDone (cl : Bool) (u : Fin 512) (s : State) : exec (.resetDone cl u) s =
  s.power (fun c => (c.passTo (c.resetDue cl u)).resetDone cl u) := rfl

end Sys2Proof.Machine
end

