-- ==== Sys2Proof/Laws/Tab.lean ====
section
/-!
SUPPORT. Laws of the sparse tables and memories: what a store reads as, and that every operation keeps the canonical form.
-/

namespace Sys2Proof.Machine

/-! ## Tables -/

variable {α : Type}

theorem Tab.get_del_self (d : α) (t : Tab α) (n : Nat) : Tab.get d (Tab.del t n) n = d := by
  induction t with
  | nil => rfl
  | cons e t ih =>
    obtain ⟨k, v⟩ := e
    by_cases h : k = n
    · simp [Tab.del, h, ih]
    · simp [Tab.del, Tab.get, h, ih]

theorem Tab.get_del_ne (d : α) (t : Tab α) {n m : Nat} (h : m ≠ n) : Tab.get d (Tab.del t n) m = Tab.get d t m := by
  induction t with
  | nil => rfl
  | cons e t ih =>
    obtain ⟨k, v⟩ := e
    by_cases hk : k = n
    · subst hk; simp [Tab.del, Tab.get, ih, Ne.symm h]
    · simp [Tab.del, Tab.get, hk, ih]

theorem Tab.get_ins_self (d : α) (t : Tab α) (n : Nat) (x : α) : Tab.get d (Tab.ins t n x) n = x := by
  induction t with
  | nil => simp [Tab.ins, Tab.get]
  | cons e t ih =>
    obtain ⟨k, v⟩ := e
    by_cases h : k = n
    · simp [Tab.ins, Tab.get, h]
    · by_cases hl : k < n
      · simp [Tab.ins, Tab.get, h, hl, ih]
      · simp [Tab.ins, Tab.get, h, hl]

theorem Tab.get_ins_ne (d : α) (t : Tab α) {n m : Nat} (x : α) (h : m ≠ n) : Tab.get d (Tab.ins t n x) m = Tab.get d t m := by
  induction t with
  | nil => simp [Tab.ins, Tab.get, Ne.symm h]
  | cons e t ih =>
    obtain ⟨k, v⟩ := e
    by_cases hk : k = n
    · subst hk; simp [Tab.ins, Tab.get, Ne.symm h]
    · by_cases hl : k < n
      · simp [Tab.ins, Tab.get, hk, hl, ih]
      · simp [Tab.ins, Tab.get, hk, hl, Ne.symm h]

variable [DecidableEq α]

/-- A key that was stored reads what was stored. -/
@[simp] theorem Tab.get_put_self (d : α) (t : Tab α) (n : Nat) (x : α) : Tab.get d (Tab.put d t n x) n = x := by
  unfold Tab.put
  split
  · next h => rw [h]; exact Tab.get_del_self d t n
  · exact Tab.get_ins_self d t n x

/-- Every other key reads as before, whatever its default. -/
theorem Tab.get_put_ne (e d : α) (t : Tab α) {n m : Nat} (x : α) (h : m ≠ n) : Tab.get e (Tab.put d t n x) m = Tab.get e t m := by
  unfold Tab.put
  split
  · exact Tab.get_del_ne e t h
  · exact Tab.get_ins_ne e t x h

theorem Tab.get_put (d : α) (t : Tab α) (n m : Nat) (x : α) :
    Tab.get d (Tab.put d t n x) m = if m = n then x else Tab.get d t m := by
  split
  · next h => rw [h]; exact Tab.get_put_self d t n x
  · next h => exact Tab.get_put_ne d d t x h

/-! ## Rising keys -/

omit [DecidableEq α]

/-- Every key of a table is above n. -/
def Tab.above (n : Nat) (t : Tab α) : Prop := ∀ e ∈ t, n < e.1

theorem Tab.rising_cons (k : Nat) (v : α) (t : Tab α) :
    Tab.rising ((k, v) :: t) = true ↔ Tab.above k t ∧ Tab.rising t = true := by
  induction t generalizing k v with
  | nil => simp [Tab.rising, Tab.above]
  | cons e t ih =>
    obtain ⟨j, w⟩ := e
    have h := ih j w
    simp only [Tab.rising, Bool.and_eq_true, decide_eq_true_eq]
    constructor
    · rintro ⟨hk, hr⟩
      refine ⟨?_, hr⟩
      intro e he
      rcases List.mem_cons.mp he with rfl | he
      · exact hk
      · exact Nat.lt_trans hk ((h.mp hr).1 e he)
    · rintro ⟨ha, hr⟩
      exact ⟨ha (j, w) (List.mem_cons_self ..), hr⟩

theorem Tab.del_mem {t : Tab α} {n : Nat} {e : Nat × α} (h : e ∈ Tab.del t n) : e ∈ t := by
  induction t with
  | nil => exact h
  | cons x t ih =>
    obtain ⟨k, v⟩ := x
    by_cases hk : k = n
    · simp only [Tab.del, hk, if_true] at h; exact List.mem_cons_of_mem _ (ih h)
    · simp only [Tab.del, hk, if_false, List.mem_cons] at h
      rcases h with rfl | h
      · exact List.mem_cons_self ..
      · exact List.mem_cons_of_mem _ (ih h)

theorem Tab.ins_mem {t : Tab α} {n : Nat} {x : α} {e : Nat × α} (h : e ∈ Tab.ins t n x) : e = (n, x) ∨ e ∈ t := by
  induction t with
  | nil => simpa [Tab.ins] using h
  | cons y t ih =>
    obtain ⟨k, v⟩ := y
    by_cases hk : k = n
    · simp only [Tab.ins, hk, if_true, List.mem_cons] at h
      rcases h with rfl | h
      · exact .inl rfl
      · exact .inr (List.mem_cons_of_mem _ h)
    · by_cases hl : k < n
      · simp only [Tab.ins, hk, hl, if_true, if_false, List.mem_cons] at h
        rcases h with rfl | h
        · exact .inr (List.mem_cons_self ..)
        · rcases ih h with h | h
          · exact .inl h
          · exact .inr (List.mem_cons_of_mem _ h)
      · simp only [Tab.ins, hk, hl, if_false] at h
        exact List.mem_cons.mp h

theorem Tab.rising_del {t : Tab α} (n : Nat) (h : Tab.rising t = true) : Tab.rising (Tab.del t n) = true := by
  induction t with
  | nil => rfl
  | cons e t ih =>
    obtain ⟨k, v⟩ := e
    obtain ⟨ha, hr⟩ := (Tab.rising_cons k v t).mp h
    by_cases hk : k = n
    · simp only [Tab.del, hk, if_true]; exact ih hr
    · simp only [Tab.del, hk, if_false]
      exact (Tab.rising_cons k v _).mpr ⟨fun e he => ha e (Tab.del_mem he), ih hr⟩

theorem Tab.rising_ins {t : Tab α} (n : Nat) (x : α) (h : Tab.rising t = true) : Tab.rising (Tab.ins t n x) = true := by
  induction t with
  | nil => rfl
  | cons e t ih =>
    obtain ⟨k, v⟩ := e
    obtain ⟨ha, hr⟩ := (Tab.rising_cons k v t).mp h
    by_cases hk : k = n
    · subst hk
      simp only [Tab.ins, if_true]
      exact (Tab.rising_cons k x t).mpr ⟨ha, hr⟩
    · by_cases hl : k < n
      · simp only [Tab.ins, hk, hl, if_true, if_false]
        refine (Tab.rising_cons k v _).mpr ⟨?_, ih hr⟩
        intro e he
        rcases Tab.ins_mem he with rfl | he
        · exact hl
        · exact ha e he
      · simp only [Tab.ins, hk, hl, if_false]
        refine (Tab.rising_cons n x _).mpr ⟨?_, h⟩
        intro e he
        rcases List.mem_cons.mp he with rfl | he
        · simp; omega
        · have := ha e he; omega

/-- A store keeps the keys rising. -/
theorem Tab.rising_put [DecidableEq α] (d : α) {t : Tab α} (n : Nat) (x : α) (h : Tab.rising t = true) :
    Tab.rising (Tab.put d t n x) = true := by
  unfold Tab.put
  split
  · exact Tab.rising_del n h
  · exact Tab.rising_ins n x h

theorem Tab.rising_filter {t : Tab α} (p : Nat × α → Bool) (h : Tab.rising t = true) : Tab.rising (t.filter p) = true := by
  induction t with
  | nil => rfl
  | cons e t ih =>
    obtain ⟨k, v⟩ := e
    obtain ⟨ha, hr⟩ := (Tab.rising_cons k v t).mp h
    by_cases hp : p (k, v) = true
    · rw [List.filter_cons_of_pos hp]
      exact (Tab.rising_cons k v _).mpr ⟨fun e he => ha e (List.mem_filter.mp he).1, ih hr⟩
    · rw [List.filter_cons_of_neg hp]; exact ih hr

theorem Tab.get_filter (d : α) (t : Tab α) (p : Nat → Bool) (n : Nat) :
    Tab.get d (t.filter (fun e => p e.1)) n = if p n then Tab.get d t n else d := by
  induction t with
  | nil => simp [Tab.get]
  | cons e t ih =>
    obtain ⟨k, v⟩ := e
    by_cases hp : p k = true
    · rw [List.filter_cons_of_pos (by simpa using hp)]
      by_cases hk : k = n
      · subst hk; simp [Tab.get, hp]
      · simp [Tab.get, hk, ih]
    · rw [List.filter_cons_of_neg (by simpa using hp), ih]
      by_cases hk : k = n
      · subst hk; simp [hp]
      · simp [Tab.get, hk]

theorem Tab.get_append (d : α) (s t : Tab α) (n : Nat) (h : ∀ e ∈ s, e.1 ≠ n) : Tab.get d (s ++ t) n = Tab.get d t n := by
  induction s with
  | nil => rfl
  | cons e s ih =>
    obtain ⟨k, v⟩ := e
    have hk : k ≠ n := h (k, v) (List.mem_cons_self ..)
    simp only [List.cons_append, Tab.get, hk, if_false]
    exact ih (fun e he => h e (List.mem_cons_of_mem _ he))

/-! ## Memories -/

/-- The byte just written reads back; every other byte is as before. -/
theorem Mem.read_write (m : Mem) (a b : Nat) (x : BitVec 8) : Mem.read (Mem.write m a x) b = if b = a then x else Mem.read m b :=
  Tab.get_put 0 m a b x

/-- Bytes written from a read back, and every byte outside them is as before. -/
theorem Mem.read_writeL (bs : List (BitVec 8)) (m : Mem) (a b : Nat) :
    Mem.read (Mem.writeL m a bs) b = if a ≤ b ∧ b < a + bs.length then (bs[b - a]?).getD 0 else Mem.read m b := by
  induction bs generalizing m a with
  | nil => simp [Mem.writeL]
  | cons x bs ih =>
    simp only [Mem.writeL, ih, List.length_cons, Mem.read_write]
    by_cases h1 : b = a
    · subst h1; simp
    · by_cases h2 : a + 1 ≤ b ∧ b < a + 1 + bs.length
      · have h3 : a ≤ b ∧ b < a + (bs.length + 1) := by omega
        have h4 : b - a = (b - (a + 1)) + 1 := by omega
        rw [if_pos h2, if_pos h3, h4]
        simp
      · have h3 : ¬(a ≤ b ∧ b < a + (bs.length + 1)) := by omega
        rw [if_neg h2, if_neg h3, if_neg h1]

theorem Mem.read_clear (m : Mem) (a n b : Nat) : Mem.read (Mem.clear m a n) b = if a ≤ b ∧ b < a + n then 0 else Mem.read m b := by
  unfold Mem.clear Mem.read
  rw [Tab.get_filter 0 m (fun k => !(decide (a ≤ k) && decide (k < a + n))) b]
  by_cases h : a ≤ b ∧ b < a + n
  · simp [h]
  · by_cases h1 : a ≤ b
    · have : ¬ b < a + n := fun h2 => h ⟨h1, h2⟩
      simp [h1, this]
    · simp [h1]

/-- No zero byte is listed. -/
def Mem.noZero (m : Mem) : Prop := ∀ e ∈ m, e.2 ≠ 0

theorem Mem.wf_iff (m : Mem) : Mem.wf m = true ↔ Tab.rising m = true ∧ Mem.noZero m := by
  simp [Mem.wf, Mem.noZero, List.all_eq_true]

/-- A write keeps the canonical form. -/
theorem Mem.wf_write {m : Mem} (a : Nat) (x : BitVec 8) (h : Mem.wf m = true) : Mem.wf (Mem.write m a x) = true := by
  obtain ⟨hr, hz⟩ := (Mem.wf_iff m).mp h
  refine (Mem.wf_iff _).mpr ⟨Tab.rising_put 0 a x hr, ?_⟩
  intro e he
  unfold Mem.write Tab.put at he
  split at he
  · exact hz e (Tab.del_mem he)
  · next hx =>
    rcases Tab.ins_mem he with rfl | he
    · exact hx
    · exact hz e he

theorem Mem.wf_writeL {m : Mem} (a : Nat) (bs : List (BitVec 8)) (h : Mem.wf m = true) : Mem.wf (Mem.writeL m a bs) = true := by
  induction bs generalizing m a with
  | nil => exact h
  | cons x bs ih => exact ih (a + 1) (Mem.wf_write a x h)

theorem Mem.wf_filter {m : Mem} (p : Nat × BitVec 8 → Bool) (h : Mem.wf m = true) : Mem.wf (m.filter p) = true := by
  obtain ⟨hr, hz⟩ := (Mem.wf_iff m).mp h
  exact (Mem.wf_iff _).mpr ⟨Tab.rising_filter p hr, fun e he => hz e (List.mem_filter.mp he).1⟩

theorem Mem.wf_clear {m : Mem} (a n : Nat) (h : Mem.wf m = true) : Mem.wf (Mem.clear m a n) = true := Mem.wf_filter _ h

theorem Tab.rising_map_shift {t : Tab α} (a b : Nat) (h : Tab.rising t = true) (ha : ∀ e ∈ t, a ≤ e.1) :
    Tab.rising (t.map (fun p => (p.1 - a + b, p.2))) = true := by
  induction t with
  | nil => rfl
  | cons e t ih =>
    obtain ⟨k, v⟩ := e
    obtain ⟨hk, hr⟩ := (Tab.rising_cons k v t).mp h
    simp only [List.map_cons]
    refine (Tab.rising_cons _ v _).mpr ⟨?_, ih hr (fun e he => ha e (List.mem_cons_of_mem _ he))⟩
    intro e he
    obtain ⟨e', he', rfl⟩ := List.mem_map.mp he
    have h1 := hk e' he'
    have h2 := ha (k, v) (List.mem_cons_self ..)
    simp at h1 h2 ⊢
    omega

/-- The moved cells of a range stand in canonical form. -/
theorem Mem.wf_slice {m : Mem} (a n b : Nat) (h : Mem.wf m = true) : Mem.wf (Mem.slice m a n b) = true := by
  have hf := Mem.wf_filter (fun p => decide (a ≤ p.1) && decide (p.1 < a + n)) h
  obtain ⟨hr, hz⟩ := (Mem.wf_iff _).mp hf
  refine (Mem.wf_iff _).mpr ⟨Tab.rising_map_shift a b hr ?_, ?_⟩
  · intro e he
    have := (List.mem_filter.mp he).2
    simp at this
    exact this.1
  · intro e he
    obtain ⟨e', he', rfl⟩ := List.mem_map.mp he
    exact hz e' he'

theorem Tab.rising_append {s t : Tab α} (hs : Tab.rising s = true) (ht : Tab.rising t = true)
    (h : ∀ a ∈ s, ∀ b ∈ t, a.1 < b.1) : Tab.rising (s ++ t) = true := by
  induction s with
  | nil => exact ht
  | cons e s ih =>
    obtain ⟨k, v⟩ := e
    obtain ⟨ha, hr⟩ := (Tab.rising_cons k v s).mp hs
    simp only [List.cons_append]
    refine (Tab.rising_cons k v _).mpr ⟨?_, ih hr (fun a h1 b h2 => h a (List.mem_cons_of_mem _ h1) b h2)⟩
    intro e he
    rcases List.mem_append.mp he with he | he
    · exact ha e he
    · exact h (k, v) (List.mem_cons_self ..) e he

/-- A copied range keeps the canonical form. -/
theorem Mem.wf_copyFrom {m src : Mem} (b a n : Nat) (h : Mem.wf m = true) (hs : Mem.wf src = true) :
    Mem.wf (Mem.copyFrom m b src a n) = true := by
  have hk := Mem.wf_clear b n h
  have h1 := Mem.wf_filter (fun p => decide (p.1 < b)) hk
  have h2 := Mem.wf_slice a n b hs
  have h3 := Mem.wf_filter (fun p => decide (b ≤ p.1)) hk
  obtain ⟨r1, z1⟩ := (Mem.wf_iff _).mp h1
  obtain ⟨r2, z2⟩ := (Mem.wf_iff _).mp h2
  obtain ⟨r3, z3⟩ := (Mem.wf_iff _).mp h3
  have b1 : ∀ e ∈ (Mem.clear m b n).filter (fun p => decide (p.1 < b)), e.1 < b := by
    intro e he; simpa using (List.mem_filter.mp he).2
  have b2 : ∀ e ∈ Mem.slice src a n b, b ≤ e.1 ∧ e.1 < b + n := by
    intro e he
    obtain ⟨e', he', rfl⟩ := List.mem_map.mp he
    have := (List.mem_filter.mp he').2
    simp at this ⊢
    omega
  have b3 : ∀ e ∈ (Mem.clear m b n).filter (fun p => decide (b ≤ p.1)), b + n ≤ e.1 := by
    intro e he
    obtain ⟨h1, h2⟩ := List.mem_filter.mp he
    have h3 := (List.mem_filter.mp h1).2
    simp at h2 h3
    omega
  refine (Mem.wf_iff _).mpr ⟨?_, ?_⟩
  · refine Tab.rising_append (Tab.rising_append r1 r2 ?_) r3 ?_
    · intro x hx y hy; exact Nat.lt_of_lt_of_le (b1 x hx) (b2 y hy).1
    · intro x hx y hy
      rcases List.mem_append.mp hx with hx | hx
      · have := b1 x hx; have := b3 y hy; omega
      · have := b2 x hx; have := b3 y hy; omega
  · intro e he
    rcases List.mem_append.mp he with he | he
    · rcases List.mem_append.mp he with he | he
      · exact z1 e he
      · exact z2 e he
    · exact z3 e he

/-- A range copied from another memory reads as it does there; every other byte is as before. -/
theorem Mem.read_copyFrom (m src : Mem) (b a n x : Nat) :
    Mem.read (Mem.copyFrom m b src a n) x = if b ≤ x ∧ x < b + n then Mem.read src (x - b + a) else Mem.read m x := by
  unfold Mem.copyFrom
  have hsl : ∀ e ∈ Mem.slice src a n b, b ≤ e.1 ∧ e.1 < b + n := by
    intro e he
    obtain ⟨e', he', rfl⟩ := List.mem_map.mp he
    have := (List.mem_filter.mp he').2
    simp at this ⊢
    omega
  have hget : b ≤ x → x < b + n → ∀ t : Mem, Mem.read (Mem.slice src a n b ++ t) x = Mem.read src (x - b + a) ∨ Mem.read (Mem.slice src a n b ++ t) x = Tab.get (Mem.read src (x - b + a)) t x := by
    intro h1 h2 t
    unfold Mem.slice Mem.read
    induction src with
    | nil => right; simp [Tab.get]
    | cons e s ih =>
      obtain ⟨k, v⟩ := e
      have hsl' : ∀ e ∈ Mem.slice s a n b, b ≤ e.1 ∧ e.1 < b + n := by
        intro e he
        obtain ⟨e', he', rfl⟩ := List.mem_map.mp he
        have := (List.mem_filter.mp he').2
        simp at this ⊢
        omega
      by_cases hp : a ≤ k ∧ k < a + n
      · by_cases hx : k - a + b = x
        · left
          have : k = x - b + a := by omega
          simp [hp.1, hp.2, Tab.get, hx, ← this]
        · have h3 : ¬ k = x - b + a := by omega
          simpa [hp.1, hp.2, Tab.get, hx, h3] using ih hsl'
      · have h3 : ¬ k = x - b + a := by omega
        have h4 : (decide (a ≤ k) && decide (k < a + n)) = false := by
          simp; omega
        simpa [h4, Tab.get, h3] using ih hsl'
  by_cases h : b ≤ x ∧ x < b + n
  · rw [if_pos h, List.append_assoc]
    have hpre : ∀ e ∈ (Mem.clear m b n).filter (fun p => decide (p.1 < b)), e.1 ≠ x := by
      intro e he
      have := (List.mem_filter.mp he).2
      simp at this
      omega
    unfold Mem.read
    rw [Tab.get_append 0 _ _ x hpre]
    have hpost : Tab.get (Mem.read src (x - b + a)) ((Mem.clear m b n).filter (fun p => decide (b ≤ p.1))) x = Mem.read src (x - b + a) := by
      unfold Mem.clear
      rw [List.filter_filter]
      rw [Tab.get_filter (Mem.read src (x - b + a)) m (fun k => decide (b ≤ k) && !(decide (b ≤ k) && decide (k < b + n))) x]
      simp [h.1, h.2]
    rcases hget h.1 h.2 ((Mem.clear m b n).filter (fun p => decide (b ≤ p.1))) with h5 | h5
    · exact h5
    · exact h5.trans hpost
  · rw [if_neg h]
    unfold Mem.read
    by_cases hx : x < b
    · have e1 : Tab.get 0 ((Mem.clear m b n).filter (fun p => decide (p.1 < b))) x = Tab.get 0 m x := by
        unfold Mem.clear
        rw [List.filter_filter, Tab.get_filter 0 m (fun k => decide (k < b) && !(decide (b ≤ k) && decide (k < b + n))) x]
        have : ¬ b ≤ x := by omega
        simp [hx, this]
      have key : ∀ (s t : Mem), (∀ e ∈ t, e.1 ≠ x) → Tab.get 0 (s ++ t) x = Tab.get (0 : BitVec 8) s x := by
        intro s t ht
        induction s with
        | nil =>
          simp only [List.nil_append, Tab.get]
          have := Tab.get_append (0 : BitVec 8) t [] x ht
          simpa [Tab.get] using this
        | cons e s ih => obtain ⟨k, v⟩ := e; simp only [List.cons_append, Tab.get, ih]
      rw [List.append_assoc, key _ _ ?_, e1]
      intro e he
      rcases List.mem_append.mp he with he | he
      · have := hsl e he; omega
      · have := (List.mem_filter.mp he).2; simp at this; omega
    · have hpre : ∀ e ∈ (Mem.clear m b n).filter (fun p => decide (p.1 < b)) ++ Mem.slice src a n b, e.1 ≠ x := by
        intro e he
        rcases List.mem_append.mp he with he | he
        · have := (List.mem_filter.mp he).2; simp at this; omega
        · have := hsl e he; omega
      rw [Tab.get_append 0 _ _ x hpre]
      unfold Mem.clear
      rw [List.filter_filter, Tab.get_filter 0 m (fun k => decide (b ≤ k) && !(decide (b ≤ k) && decide (k < b + n))) x]
      have h1 : b ≤ x := by omega
      have h2 : ¬ x < b + n := by omega
      simp [h1, h2]

end Sys2Proof.Machine
end

