-- ==== Sys2Proof/Laws/State.lean ====
section
/-!
SUPPORT. What each store into a table of the state reads as, and that it changes nothing else: one lemma per field per update.
-/

namespace Sys2Proof.Machine

/-! ### setQueue -/

@[simp] theorem Chip.queueOf_setQueue (c : Chip) (q : Nat) (x : Queue) : (c.setQueue q x).queueOf q = x := by simp [Chip.setQueue, Chip.queueOf]
theorem Chip.queueOf_setQueue_ne (c : Chip) (q : Nat) (x : Queue) (y : Nat) (h : y ≠ q) : (c.setQueue q x).queueOf y = c.queueOf y := by
  simp [Chip.setQueue, Chip.queueOf, Tab.get_put_ne _ _ _ _ h]
@[simp] theorem Chip.setQueue_fz (c : Chip) (q : Nat) (x : Queue) : (c.setQueue q x).fz = c.fz := rfl
@[simp] theorem Chip.setQueue_regs (c : Chip) (q : Nat) (x : Queue) : (c.setQueue q x).regs = c.regs := rfl
@[simp] theorem Chip.setQueue_time (c : Chip) (q : Nat) (x : Queue) : (c.setQueue q x).time = c.time := rfl
@[simp] theorem Chip.setQueue_pwr (c : Chip) (q : Nat) (x : Queue) : (c.setQueue q x).pwr = c.pwr := rfl
@[simp] theorem Chip.setQueue_flt (c : Chip) (q : Nat) (x : Queue) : (c.setQueue q x).flt = c.flt := rfl
@[simp] theorem Chip.setQueue_sec (c : Chip) (q : Nat) (x : Queue) : (c.setQueue q x).sec = c.sec := rfl
@[simp] theorem Chip.setQueue_cur (c : Chip) (q : Nat) (x : Queue) : (c.setQueue q x).cur = c.cur := rfl
@[simp] theorem Chip.setQueue_hlt (c : Chip) (q : Nat) (x : Queue) : (c.setQueue q x).hlt = c.hlt := rfl
@[simp] theorem Chip.setQueue_hom (c : Chip) (q : Nat) (x : Queue) : (c.setQueue q x).hom = c.hom := rfl
@[simp] theorem Chip.setQueue_bm (c : Chip) (q : Nat) (x : Queue) : (c.setQueue q x).bm = c.bm := rfl
@[simp] theorem Chip.setQueue_core (c : Chip) (q : Nat) (x : Queue) : (c.setQueue q x).core = c.core := rfl
@[simp] theorem Chip.setQueue_rd (c : Chip) (q : Nat) (x : Queue) : (c.setQueue q x).rd = c.rd := rfl
@[simp] theorem Chip.setQueue_fab (c : Chip) (q : Nat) (x : Queue) : (c.setQueue q x).fab = c.fab := rfl
@[simp] theorem Chip.setQueue_col (c : Chip) (q : Nat) (x : Queue) : (c.setQueue q x).col = c.col := rfl
@[simp] theorem Chip.setQueue_fe_ctrs (c : Chip) (q : Nat) (x : Queue) : (c.setQueue q x).fe.ctrs = c.fe.ctrs := rfl
@[simp] theorem Chip.setQueue_fe_ctxs (c : Chip) (q : Nat) (x : Queue) : (c.setQueue q x).fe.ctxs = c.fe.ctxs := rfl
@[simp] theorem Chip.setQueue_fe_swap (c : Chip) (q : Nat) (x : Queue) : (c.setQueue q x).fe.swap = c.fe.swap := rfl
@[simp] theorem Chip.setQueue_fe_cpx (c : Chip) (q : Nat) (x : Queue) : (c.setQueue q x).fe.cpx = c.fe.cpx := rfl
@[simp] theorem Chip.setQueue_fe_cpxUp (c : Chip) (q : Nat) (x : Queue) : (c.setQueue q x).fe.cpxUp = c.fe.cpxUp := rfl
@[simp] theorem Chip.setQueue_fe_cpxIrqs (c : Chip) (q : Nat) (x : Queue) : (c.setQueue q x).fe.cpxIrqs = c.fe.cpxIrqs := rfl
@[simp] theorem Chip.setQueue_fe_winStart (c : Chip) (q : Nat) (x : Queue) : (c.setQueue q x).fe.winStart = c.fe.winStart := rfl
@[simp] theorem Chip.setQueue_fe_issueSeq (c : Chip) (q : Nat) (x : Queue) : (c.setQueue q x).fe.issueSeq = c.fe.issueSeq := rfl
@[simp] theorem Chip.setQueue_fe_wrec (c : Chip) (q : Nat) (x : Queue) : (c.setQueue q x).fe.wrec = c.fe.wrec := rfl
@[simp] theorem Chip.setQueue_fe_qwrec (c : Chip) (q : Nat) (x : Queue) : (c.setQueue q x).fe.qwrec = c.fe.qwrec := rfl
@[simp] theorem Chip.setQueue_fe_fresh (c : Chip) (q : Nat) (x : Queue) : (c.setQueue q x).fe.fresh = c.fe.fresh := rfl

/-! ### setCore -/

@[simp] theorem Chip.coreOf_setCore (c : Chip) (n : Nat) (k : Core) : (c.setCore n k).coreOf n = k := by simp [Chip.setCore, Chip.coreOf]
theorem Chip.coreOf_setCore_ne (c : Chip) (n : Nat) (k : Core) (y : Nat) (h : y ≠ n) : (c.setCore n k).coreOf y = c.coreOf y := by
  simp [Chip.setCore, Chip.coreOf, Tab.get_put_ne _ _ _ _ h]
@[simp] theorem Chip.setCore_fz (c : Chip) (n : Nat) (k : Core) : (c.setCore n k).fz = c.fz := rfl
@[simp] theorem Chip.setCore_regs (c : Chip) (n : Nat) (k : Core) : (c.setCore n k).regs = c.regs := rfl
@[simp] theorem Chip.setCore_time (c : Chip) (n : Nat) (k : Core) : (c.setCore n k).time = c.time := rfl
@[simp] theorem Chip.setCore_pwr (c : Chip) (n : Nat) (k : Core) : (c.setCore n k).pwr = c.pwr := rfl
@[simp] theorem Chip.setCore_flt (c : Chip) (n : Nat) (k : Core) : (c.setCore n k).flt = c.flt := rfl
@[simp] theorem Chip.setCore_sec (c : Chip) (n : Nat) (k : Core) : (c.setCore n k).sec = c.sec := rfl
@[simp] theorem Chip.setCore_cur (c : Chip) (n : Nat) (k : Core) : (c.setCore n k).cur = c.cur := rfl
@[simp] theorem Chip.setCore_hlt (c : Chip) (n : Nat) (k : Core) : (c.setCore n k).hlt = c.hlt := rfl
@[simp] theorem Chip.setCore_fe (c : Chip) (n : Nat) (k : Core) : (c.setCore n k).fe = c.fe := rfl
@[simp] theorem Chip.setCore_hom (c : Chip) (n : Nat) (k : Core) : (c.setCore n k).hom = c.hom := rfl
@[simp] theorem Chip.setCore_bm (c : Chip) (n : Nat) (k : Core) : (c.setCore n k).bm = c.bm := rfl
@[simp] theorem Chip.setCore_rd (c : Chip) (n : Nat) (k : Core) : (c.setCore n k).rd = c.rd := rfl
@[simp] theorem Chip.setCore_fab (c : Chip) (n : Nat) (k : Core) : (c.setCore n k).fab = c.fab := rfl
@[simp] theorem Chip.setCore_col (c : Chip) (n : Nat) (k : Core) : (c.setCore n k).col = c.col := rfl
@[simp] theorem Chip.setCore_core_lmem (c : Chip) (n : Nat) (k : Core) : (c.setCore n k).core.lmem = c.core.lmem := rfl
@[simp] theorem Chip.setCore_core_imem (c : Chip) (n : Nat) (k : Core) : (c.setCore n k).core.imem = c.core.imem := rfl
@[simp] theorem Chip.setCore_core_tbl (c : Chip) (n : Nat) (k : Core) : (c.setCore n k).core.tbl = c.core.tbl := rfl
@[simp] theorem Chip.setCore_core_vits (c : Chip) (n : Nat) (k : Core) : (c.setCore n k).core.vits = c.core.vits := rfl

/-! ### setTile -/

@[simp] theorem Chip.tileOf_setTile (c : Chip) (n : Nat) (t : Tile) : (c.setTile n t).tileOf n = t := by simp [Chip.setTile, Chip.tileOf]
theorem Chip.tileOf_setTile_ne (c : Chip) (n : Nat) (t : Tile) (y : Nat) (h : y ≠ n) : (c.setTile n t).tileOf y = c.tileOf y := by
  simp [Chip.setTile, Chip.tileOf, Tab.get_put_ne _ _ _ _ h]
@[simp] theorem Chip.setTile_fz (c : Chip) (n : Nat) (t : Tile) : (c.setTile n t).fz = c.fz := rfl
@[simp] theorem Chip.setTile_regs (c : Chip) (n : Nat) (t : Tile) : (c.setTile n t).regs = c.regs := rfl
@[simp] theorem Chip.setTile_time (c : Chip) (n : Nat) (t : Tile) : (c.setTile n t).time = c.time := rfl
@[simp] theorem Chip.setTile_pwr (c : Chip) (n : Nat) (t : Tile) : (c.setTile n t).pwr = c.pwr := rfl
@[simp] theorem Chip.setTile_flt (c : Chip) (n : Nat) (t : Tile) : (c.setTile n t).flt = c.flt := rfl
@[simp] theorem Chip.setTile_sec (c : Chip) (n : Nat) (t : Tile) : (c.setTile n t).sec = c.sec := rfl
@[simp] theorem Chip.setTile_cur (c : Chip) (n : Nat) (t : Tile) : (c.setTile n t).cur = c.cur := rfl
@[simp] theorem Chip.setTile_hlt (c : Chip) (n : Nat) (t : Tile) : (c.setTile n t).hlt = c.hlt := rfl
@[simp] theorem Chip.setTile_fe (c : Chip) (n : Nat) (t : Tile) : (c.setTile n t).fe = c.fe := rfl
@[simp] theorem Chip.setTile_bm (c : Chip) (n : Nat) (t : Tile) : (c.setTile n t).bm = c.bm := rfl
@[simp] theorem Chip.setTile_core (c : Chip) (n : Nat) (t : Tile) : (c.setTile n t).core = c.core := rfl
@[simp] theorem Chip.setTile_rd (c : Chip) (n : Nat) (t : Tile) : (c.setTile n t).rd = c.rd := rfl
@[simp] theorem Chip.setTile_fab (c : Chip) (n : Nat) (t : Tile) : (c.setTile n t).fab = c.fab := rfl
@[simp] theorem Chip.setTile_col (c : Chip) (n : Nat) (t : Tile) : (c.setTile n t).col = c.col := rfl
@[simp] theorem Chip.setTile_hom_slots (c : Chip) (n : Nat) (t : Tile) : (c.setTile n t).hom.slots = c.hom.slots := rfl
@[simp] theorem Chip.setTile_hom_lp (c : Chip) (n : Nat) (t : Tile) : (c.setTile n t).hom.lp = c.hom.lp := rfl
@[simp] theorem Chip.setTile_hom_sram (c : Chip) (n : Nat) (t : Tile) : (c.setTile n t).hom.sram = c.hom.sram := rfl
@[simp] theorem Chip.setTile_hom_init (c : Chip) (n : Nat) (t : Tile) : (c.setTile n t).hom.init = c.hom.init := rfl
@[simp] theorem Chip.setTile_hom_shus (c : Chip) (n : Nat) (t : Tile) : (c.setTile n t).hom.shus = c.hom.shus := rfl
@[simp] theorem Chip.setTile_hom_tts (c : Chip) (n : Nat) (t : Tile) : (c.setTile n t).hom.tts = c.hom.tts := rfl
@[simp] theorem Chip.setTile_hom_dbinds (c : Chip) (n : Nat) (t : Tile) : (c.setTile n t).hom.dbinds = c.hom.dbinds := rfl
@[simp] theorem Chip.setTile_hom_order (c : Chip) (n : Nat) (t : Tile) : (c.setTile n t).hom.order = c.hom.order := rfl
@[simp] theorem Chip.setTile_hom_imgLocks (c : Chip) (n : Nat) (t : Tile) : (c.setTile n t).hom.imgLocks = c.hom.imgLocks := rfl
@[simp] theorem Chip.setTile_hom_cache (c : Chip) (n : Nat) (t : Tile) : (c.setTile n t).hom.cache = c.hom.cache := rfl

/-! ### setSlot -/

@[simp] theorem Chip.slotOf_setSlot (c : Chip) (s : Nat) (x : Slot) : (c.setSlot s x).slotOf s = x := by simp [Chip.setSlot, Chip.slotOf]
theorem Chip.slotOf_setSlot_ne (c : Chip) (s : Nat) (x : Slot) (y : Nat) (h : y ≠ s) : (c.setSlot s x).slotOf y = c.slotOf y := by
  simp [Chip.setSlot, Chip.slotOf, Tab.get_put_ne _ _ _ _ h]
@[simp] theorem Chip.setSlot_fz (c : Chip) (s : Nat) (x : Slot) : (c.setSlot s x).fz = c.fz := rfl
@[simp] theorem Chip.setSlot_regs (c : Chip) (s : Nat) (x : Slot) : (c.setSlot s x).regs = c.regs := rfl
@[simp] theorem Chip.setSlot_time (c : Chip) (s : Nat) (x : Slot) : (c.setSlot s x).time = c.time := rfl
@[simp] theorem Chip.setSlot_pwr (c : Chip) (s : Nat) (x : Slot) : (c.setSlot s x).pwr = c.pwr := rfl
@[simp] theorem Chip.setSlot_flt (c : Chip) (s : Nat) (x : Slot) : (c.setSlot s x).flt = c.flt := rfl
@[simp] theorem Chip.setSlot_sec (c : Chip) (s : Nat) (x : Slot) : (c.setSlot s x).sec = c.sec := rfl
@[simp] theorem Chip.setSlot_cur (c : Chip) (s : Nat) (x : Slot) : (c.setSlot s x).cur = c.cur := rfl
@[simp] theorem Chip.setSlot_hlt (c : Chip) (s : Nat) (x : Slot) : (c.setSlot s x).hlt = c.hlt := rfl
@[simp] theorem Chip.setSlot_fe (c : Chip) (s : Nat) (x : Slot) : (c.setSlot s x).fe = c.fe := rfl
@[simp] theorem Chip.setSlot_bm (c : Chip) (s : Nat) (x : Slot) : (c.setSlot s x).bm = c.bm := rfl
@[simp] theorem Chip.setSlot_core (c : Chip) (s : Nat) (x : Slot) : (c.setSlot s x).core = c.core := rfl
@[simp] theorem Chip.setSlot_rd (c : Chip) (s : Nat) (x : Slot) : (c.setSlot s x).rd = c.rd := rfl
@[simp] theorem Chip.setSlot_fab (c : Chip) (s : Nat) (x : Slot) : (c.setSlot s x).fab = c.fab := rfl
@[simp] theorem Chip.setSlot_col (c : Chip) (s : Nat) (x : Slot) : (c.setSlot s x).col = c.col := rfl
@[simp] theorem Chip.setSlot_hom_tiles (c : Chip) (s : Nat) (x : Slot) : (c.setSlot s x).hom.tiles = c.hom.tiles := rfl
@[simp] theorem Chip.setSlot_hom_lp (c : Chip) (s : Nat) (x : Slot) : (c.setSlot s x).hom.lp = c.hom.lp := rfl
@[simp] theorem Chip.setSlot_hom_sram (c : Chip) (s : Nat) (x : Slot) : (c.setSlot s x).hom.sram = c.hom.sram := rfl
@[simp] theorem Chip.setSlot_hom_init (c : Chip) (s : Nat) (x : Slot) : (c.setSlot s x).hom.init = c.hom.init := rfl
@[simp] theorem Chip.setSlot_hom_shus (c : Chip) (s : Nat) (x : Slot) : (c.setSlot s x).hom.shus = c.hom.shus := rfl
@[simp] theorem Chip.setSlot_hom_tts (c : Chip) (s : Nat) (x : Slot) : (c.setSlot s x).hom.tts = c.hom.tts := rfl
@[simp] theorem Chip.setSlot_hom_dbinds (c : Chip) (s : Nat) (x : Slot) : (c.setSlot s x).hom.dbinds = c.hom.dbinds := rfl
@[simp] theorem Chip.setSlot_hom_order (c : Chip) (s : Nat) (x : Slot) : (c.setSlot s x).hom.order = c.hom.order := rfl
@[simp] theorem Chip.setSlot_hom_imgLocks (c : Chip) (s : Nat) (x : Slot) : (c.setSlot s x).hom.imgLocks = c.hom.imgLocks := rfl
@[simp] theorem Chip.setSlot_hom_cache (c : Chip) (s : Nat) (x : Slot) : (c.setSlot s x).hom.cache = c.hom.cache := rfl

/-! ### setShu -/

@[simp] theorem Chip.shuOf_setShu (c : Chip) (s : Nat) (x : Shu) : (c.setShu s x).shuOf s = x := by simp [Chip.setShu, Chip.shuOf]
theorem Chip.shuOf_setShu_ne (c : Chip) (s : Nat) (x : Shu) (y : Nat) (h : y ≠ s) : (c.setShu s x).shuOf y = c.shuOf y := by
  simp [Chip.setShu, Chip.shuOf, Tab.get_put_ne _ _ _ _ h]
@[simp] theorem Chip.setShu_fz (c : Chip) (s : Nat) (x : Shu) : (c.setShu s x).fz = c.fz := rfl
@[simp] theorem Chip.setShu_regs (c : Chip) (s : Nat) (x : Shu) : (c.setShu s x).regs = c.regs := rfl
@[simp] theorem Chip.setShu_time (c : Chip) (s : Nat) (x : Shu) : (c.setShu s x).time = c.time := rfl
@[simp] theorem Chip.setShu_pwr (c : Chip) (s : Nat) (x : Shu) : (c.setShu s x).pwr = c.pwr := rfl
@[simp] theorem Chip.setShu_flt (c : Chip) (s : Nat) (x : Shu) : (c.setShu s x).flt = c.flt := rfl
@[simp] theorem Chip.setShu_sec (c : Chip) (s : Nat) (x : Shu) : (c.setShu s x).sec = c.sec := rfl
@[simp] theorem Chip.setShu_cur (c : Chip) (s : Nat) (x : Shu) : (c.setShu s x).cur = c.cur := rfl
@[simp] theorem Chip.setShu_hlt (c : Chip) (s : Nat) (x : Shu) : (c.setShu s x).hlt = c.hlt := rfl
@[simp] theorem Chip.setShu_fe (c : Chip) (s : Nat) (x : Shu) : (c.setShu s x).fe = c.fe := rfl
@[simp] theorem Chip.setShu_bm (c : Chip) (s : Nat) (x : Shu) : (c.setShu s x).bm = c.bm := rfl
@[simp] theorem Chip.setShu_core (c : Chip) (s : Nat) (x : Shu) : (c.setShu s x).core = c.core := rfl
@[simp] theorem Chip.setShu_rd (c : Chip) (s : Nat) (x : Shu) : (c.setShu s x).rd = c.rd := rfl
@[simp] theorem Chip.setShu_fab (c : Chip) (s : Nat) (x : Shu) : (c.setShu s x).fab = c.fab := rfl
@[simp] theorem Chip.setShu_col (c : Chip) (s : Nat) (x : Shu) : (c.setShu s x).col = c.col := rfl
@[simp] theorem Chip.setShu_hom_tiles (c : Chip) (s : Nat) (x : Shu) : (c.setShu s x).hom.tiles = c.hom.tiles := rfl
@[simp] theorem Chip.setShu_hom_slots (c : Chip) (s : Nat) (x : Shu) : (c.setShu s x).hom.slots = c.hom.slots := rfl
@[simp] theorem Chip.setShu_hom_lp (c : Chip) (s : Nat) (x : Shu) : (c.setShu s x).hom.lp = c.hom.lp := rfl
@[simp] theorem Chip.setShu_hom_sram (c : Chip) (s : Nat) (x : Shu) : (c.setShu s x).hom.sram = c.hom.sram := rfl
@[simp] theorem Chip.setShu_hom_init (c : Chip) (s : Nat) (x : Shu) : (c.setShu s x).hom.init = c.hom.init := rfl
@[simp] theorem Chip.setShu_hom_tts (c : Chip) (s : Nat) (x : Shu) : (c.setShu s x).hom.tts = c.hom.tts := rfl
@[simp] theorem Chip.setShu_hom_dbinds (c : Chip) (s : Nat) (x : Shu) : (c.setShu s x).hom.dbinds = c.hom.dbinds := rfl
@[simp] theorem Chip.setShu_hom_order (c : Chip) (s : Nat) (x : Shu) : (c.setShu s x).hom.order = c.hom.order := rfl
@[simp] theorem Chip.setShu_hom_imgLocks (c : Chip) (s : Nat) (x : Shu) : (c.setShu s x).hom.imgLocks = c.hom.imgLocks := rfl
@[simp] theorem Chip.setShu_hom_cache (c : Chip) (s : Nat) (x : Shu) : (c.setShu s x).hom.cache = c.hom.cache := rfl

/-! ### setCtr -/

@[simp] theorem Chip.ctrOf_setCtr (c : Chip) (k : Nat) (x : Ctr) : (c.setCtr k x).ctrOf k = x := by simp [Chip.setCtr, Chip.ctrOf]
theorem Chip.ctrOf_setCtr_ne (c : Chip) (k : Nat) (x : Ctr) (y : Nat) (h : y ≠ k) : (c.setCtr k x).ctrOf y = c.ctrOf y := by
  simp [Chip.setCtr, Chip.ctrOf, Tab.get_put_ne _ _ _ _ h]
@[simp] theorem Chip.setCtr_fz (c : Chip) (k : Nat) (x : Ctr) : (c.setCtr k x).fz = c.fz := rfl
@[simp] theorem Chip.setCtr_regs (c : Chip) (k : Nat) (x : Ctr) : (c.setCtr k x).regs = c.regs := rfl
@[simp] theorem Chip.setCtr_time (c : Chip) (k : Nat) (x : Ctr) : (c.setCtr k x).time = c.time := rfl
@[simp] theorem Chip.setCtr_pwr (c : Chip) (k : Nat) (x : Ctr) : (c.setCtr k x).pwr = c.pwr := rfl
@[simp] theorem Chip.setCtr_flt (c : Chip) (k : Nat) (x : Ctr) : (c.setCtr k x).flt = c.flt := rfl
@[simp] theorem Chip.setCtr_sec (c : Chip) (k : Nat) (x : Ctr) : (c.setCtr k x).sec = c.sec := rfl
@[simp] theorem Chip.setCtr_cur (c : Chip) (k : Nat) (x : Ctr) : (c.setCtr k x).cur = c.cur := rfl
@[simp] theorem Chip.setCtr_hlt (c : Chip) (k : Nat) (x : Ctr) : (c.setCtr k x).hlt = c.hlt := rfl
@[simp] theorem Chip.setCtr_hom (c : Chip) (k : Nat) (x : Ctr) : (c.setCtr k x).hom = c.hom := rfl
@[simp] theorem Chip.setCtr_bm (c : Chip) (k : Nat) (x : Ctr) : (c.setCtr k x).bm = c.bm := rfl
@[simp] theorem Chip.setCtr_core (c : Chip) (k : Nat) (x : Ctr) : (c.setCtr k x).core = c.core := rfl
@[simp] theorem Chip.setCtr_rd (c : Chip) (k : Nat) (x : Ctr) : (c.setCtr k x).rd = c.rd := rfl
@[simp] theorem Chip.setCtr_fab (c : Chip) (k : Nat) (x : Ctr) : (c.setCtr k x).fab = c.fab := rfl
@[simp] theorem Chip.setCtr_col (c : Chip) (k : Nat) (x : Ctr) : (c.setCtr k x).col = c.col := rfl
@[simp] theorem Chip.setCtr_fe_queues (c : Chip) (k : Nat) (x : Ctr) : (c.setCtr k x).fe.queues = c.fe.queues := rfl
@[simp] theorem Chip.setCtr_fe_ctxs (c : Chip) (k : Nat) (x : Ctr) : (c.setCtr k x).fe.ctxs = c.fe.ctxs := rfl
@[simp] theorem Chip.setCtr_fe_swap (c : Chip) (k : Nat) (x : Ctr) : (c.setCtr k x).fe.swap = c.fe.swap := rfl
@[simp] theorem Chip.setCtr_fe_cpx (c : Chip) (k : Nat) (x : Ctr) : (c.setCtr k x).fe.cpx = c.fe.cpx := rfl
@[simp] theorem Chip.setCtr_fe_cpxUp (c : Chip) (k : Nat) (x : Ctr) : (c.setCtr k x).fe.cpxUp = c.fe.cpxUp := rfl
@[simp] theorem Chip.setCtr_fe_cpxIrqs (c : Chip) (k : Nat) (x : Ctr) : (c.setCtr k x).fe.cpxIrqs = c.fe.cpxIrqs := rfl
@[simp] theorem Chip.setCtr_fe_winStart (c : Chip) (k : Nat) (x : Ctr) : (c.setCtr k x).fe.winStart = c.fe.winStart := rfl
@[simp] theorem Chip.setCtr_fe_issueSeq (c : Chip) (k : Nat) (x : Ctr) : (c.setCtr k x).fe.issueSeq = c.fe.issueSeq := rfl
@[simp] theorem Chip.setCtr_fe_wrec (c : Chip) (k : Nat) (x : Ctr) : (c.setCtr k x).fe.wrec = c.fe.wrec := rfl
@[simp] theorem Chip.setCtr_fe_qwrec (c : Chip) (k : Nat) (x : Ctr) : (c.setCtr k x).fe.qwrec = c.fe.qwrec := rfl
@[simp] theorem Chip.setCtr_fe_fresh (c : Chip) (k : Nat) (x : Ctr) : (c.setCtr k x).fe.fresh = c.fe.fresh := rfl

/-! ### setCtx -/

@[simp] theorem Chip.ctxOf_setCtx (c : Chip) (x : Nat) (k : Option Ctx) : (c.setCtx x k).ctxOf x = k := by simp [Chip.setCtx, Chip.ctxOf]
theorem Chip.ctxOf_setCtx_ne (c : Chip) (x : Nat) (k : Option Ctx) (y : Nat) (h : y ≠ x) : (c.setCtx x k).ctxOf y = c.ctxOf y := by
  simp [Chip.setCtx, Chip.ctxOf, Tab.get_put_ne _ _ _ _ h]
@[simp] theorem Chip.setCtx_fz (c : Chip) (x : Nat) (k : Option Ctx) : (c.setCtx x k).fz = c.fz := rfl
@[simp] theorem Chip.setCtx_regs (c : Chip) (x : Nat) (k : Option Ctx) : (c.setCtx x k).regs = c.regs := rfl
@[simp] theorem Chip.setCtx_time (c : Chip) (x : Nat) (k : Option Ctx) : (c.setCtx x k).time = c.time := rfl
@[simp] theorem Chip.setCtx_pwr (c : Chip) (x : Nat) (k : Option Ctx) : (c.setCtx x k).pwr = c.pwr := rfl
@[simp] theorem Chip.setCtx_flt (c : Chip) (x : Nat) (k : Option Ctx) : (c.setCtx x k).flt = c.flt := rfl
@[simp] theorem Chip.setCtx_sec (c : Chip) (x : Nat) (k : Option Ctx) : (c.setCtx x k).sec = c.sec := rfl
@[simp] theorem Chip.setCtx_cur (c : Chip) (x : Nat) (k : Option Ctx) : (c.setCtx x k).cur = c.cur := rfl
@[simp] theorem Chip.setCtx_hlt (c : Chip) (x : Nat) (k : Option Ctx) : (c.setCtx x k).hlt = c.hlt := rfl
@[simp] theorem Chip.setCtx_hom (c : Chip) (x : Nat) (k : Option Ctx) : (c.setCtx x k).hom = c.hom := rfl
@[simp] theorem Chip.setCtx_bm (c : Chip) (x : Nat) (k : Option Ctx) : (c.setCtx x k).bm = c.bm := rfl
@[simp] theorem Chip.setCtx_core (c : Chip) (x : Nat) (k : Option Ctx) : (c.setCtx x k).core = c.core := rfl
@[simp] theorem Chip.setCtx_rd (c : Chip) (x : Nat) (k : Option Ctx) : (c.setCtx x k).rd = c.rd := rfl
@[simp] theorem Chip.setCtx_fab (c : Chip) (x : Nat) (k : Option Ctx) : (c.setCtx x k).fab = c.fab := rfl
@[simp] theorem Chip.setCtx_col (c : Chip) (x : Nat) (k : Option Ctx) : (c.setCtx x k).col = c.col := rfl
@[simp] theorem Chip.setCtx_fe_queues (c : Chip) (x : Nat) (k : Option Ctx) : (c.setCtx x k).fe.queues = c.fe.queues := rfl
@[simp] theorem Chip.setCtx_fe_ctrs (c : Chip) (x : Nat) (k : Option Ctx) : (c.setCtx x k).fe.ctrs = c.fe.ctrs := rfl
@[simp] theorem Chip.setCtx_fe_swap (c : Chip) (x : Nat) (k : Option Ctx) : (c.setCtx x k).fe.swap = c.fe.swap := rfl
@[simp] theorem Chip.setCtx_fe_cpx (c : Chip) (x : Nat) (k : Option Ctx) : (c.setCtx x k).fe.cpx = c.fe.cpx := rfl
@[simp] theorem Chip.setCtx_fe_cpxUp (c : Chip) (x : Nat) (k : Option Ctx) : (c.setCtx x k).fe.cpxUp = c.fe.cpxUp := rfl
@[simp] theorem Chip.setCtx_fe_cpxIrqs (c : Chip) (x : Nat) (k : Option Ctx) : (c.setCtx x k).fe.cpxIrqs = c.fe.cpxIrqs := rfl
@[simp] theorem Chip.setCtx_fe_winStart (c : Chip) (x : Nat) (k : Option Ctx) : (c.setCtx x k).fe.winStart = c.fe.winStart := rfl
@[simp] theorem Chip.setCtx_fe_issueSeq (c : Chip) (x : Nat) (k : Option Ctx) : (c.setCtx x k).fe.issueSeq = c.fe.issueSeq := rfl
@[simp] theorem Chip.setCtx_fe_wrec (c : Chip) (x : Nat) (k : Option Ctx) : (c.setCtx x k).fe.wrec = c.fe.wrec := rfl
@[simp] theorem Chip.setCtx_fe_qwrec (c : Chip) (x : Nat) (k : Option Ctx) : (c.setCtx x k).fe.qwrec = c.fe.qwrec := rfl
@[simp] theorem Chip.setCtx_fe_fresh (c : Chip) (x : Nat) (k : Option Ctx) : (c.setCtx x k).fe.fresh = c.fe.fresh := rfl

/-! ### setVit -/

@[simp] theorem Chip.vitOf_setVit (c : Chip) (k : Nat) (v : Vit) : (c.setVit k v).vitOf k = v := by simp [Chip.setVit, Chip.vitOf]
theorem Chip.vitOf_setVit_ne (c : Chip) (k : Nat) (v : Vit) (y : Nat) (h : y ≠ k) : (c.setVit k v).vitOf y = c.vitOf y := by
  simp [Chip.setVit, Chip.vitOf, Tab.get_put_ne _ _ _ _ h]
@[simp] theorem Chip.setVit_fz (c : Chip) (k : Nat) (v : Vit) : (c.setVit k v).fz = c.fz := rfl
@[simp] theorem Chip.setVit_regs (c : Chip) (k : Nat) (v : Vit) : (c.setVit k v).regs = c.regs := rfl
@[simp] theorem Chip.setVit_time (c : Chip) (k : Nat) (v : Vit) : (c.setVit k v).time = c.time := rfl
@[simp] theorem Chip.setVit_pwr (c : Chip) (k : Nat) (v : Vit) : (c.setVit k v).pwr = c.pwr := rfl
@[simp] theorem Chip.setVit_flt (c : Chip) (k : Nat) (v : Vit) : (c.setVit k v).flt = c.flt := rfl
@[simp] theorem Chip.setVit_sec (c : Chip) (k : Nat) (v : Vit) : (c.setVit k v).sec = c.sec := rfl
@[simp] theorem Chip.setVit_cur (c : Chip) (k : Nat) (v : Vit) : (c.setVit k v).cur = c.cur := rfl
@[simp] theorem Chip.setVit_hlt (c : Chip) (k : Nat) (v : Vit) : (c.setVit k v).hlt = c.hlt := rfl
@[simp] theorem Chip.setVit_fe (c : Chip) (k : Nat) (v : Vit) : (c.setVit k v).fe = c.fe := rfl
@[simp] theorem Chip.setVit_hom (c : Chip) (k : Nat) (v : Vit) : (c.setVit k v).hom = c.hom := rfl
@[simp] theorem Chip.setVit_bm (c : Chip) (k : Nat) (v : Vit) : (c.setVit k v).bm = c.bm := rfl
@[simp] theorem Chip.setVit_rd (c : Chip) (k : Nat) (v : Vit) : (c.setVit k v).rd = c.rd := rfl
@[simp] theorem Chip.setVit_fab (c : Chip) (k : Nat) (v : Vit) : (c.setVit k v).fab = c.fab := rfl
@[simp] theorem Chip.setVit_col (c : Chip) (k : Nat) (v : Vit) : (c.setVit k v).col = c.col := rfl
@[simp] theorem Chip.setVit_core_cores (c : Chip) (k : Nat) (v : Vit) : (c.setVit k v).core.cores = c.core.cores := rfl
@[simp] theorem Chip.setVit_core_lmem (c : Chip) (k : Nat) (v : Vit) : (c.setVit k v).core.lmem = c.core.lmem := rfl
@[simp] theorem Chip.setVit_core_imem (c : Chip) (k : Nat) (v : Vit) : (c.setVit k v).core.imem = c.core.imem := rfl
@[simp] theorem Chip.setVit_core_tbl (c : Chip) (k : Nat) (v : Vit) : (c.setVit k v).core.tbl = c.core.tbl := rfl

/-! ### setSensor -/

@[simp] theorem Chip.sensorOf_setSensor (c : Chip) (i : Nat) (x : Sensor) : (c.setSensor i x).sensorOf i = x := by simp [Chip.setSensor, Chip.sensorOf]
theorem Chip.sensorOf_setSensor_ne (c : Chip) (i : Nat) (x : Sensor) (y : Nat) (h : y ≠ i) : (c.setSensor i x).sensorOf y = c.sensorOf y := by
  simp [Chip.setSensor, Chip.sensorOf, Tab.get_put_ne _ _ _ _ h]
@[simp] theorem Chip.setSensor_fz (c : Chip) (i : Nat) (x : Sensor) : (c.setSensor i x).fz = c.fz := rfl
@[simp] theorem Chip.setSensor_regs (c : Chip) (i : Nat) (x : Sensor) : (c.setSensor i x).regs = c.regs := rfl
@[simp] theorem Chip.setSensor_time (c : Chip) (i : Nat) (x : Sensor) : (c.setSensor i x).time = c.time := rfl
@[simp] theorem Chip.setSensor_pwr (c : Chip) (i : Nat) (x : Sensor) : (c.setSensor i x).pwr = c.pwr := rfl
@[simp] theorem Chip.setSensor_flt (c : Chip) (i : Nat) (x : Sensor) : (c.setSensor i x).flt = c.flt := rfl
@[simp] theorem Chip.setSensor_sec (c : Chip) (i : Nat) (x : Sensor) : (c.setSensor i x).sec = c.sec := rfl
@[simp] theorem Chip.setSensor_hlt (c : Chip) (i : Nat) (x : Sensor) : (c.setSensor i x).hlt = c.hlt := rfl
@[simp] theorem Chip.setSensor_fe (c : Chip) (i : Nat) (x : Sensor) : (c.setSensor i x).fe = c.fe := rfl
@[simp] theorem Chip.setSensor_hom (c : Chip) (i : Nat) (x : Sensor) : (c.setSensor i x).hom = c.hom := rfl
@[simp] theorem Chip.setSensor_bm (c : Chip) (i : Nat) (x : Sensor) : (c.setSensor i x).bm = c.bm := rfl
@[simp] theorem Chip.setSensor_core (c : Chip) (i : Nat) (x : Sensor) : (c.setSensor i x).core = c.core := rfl
@[simp] theorem Chip.setSensor_rd (c : Chip) (i : Nat) (x : Sensor) : (c.setSensor i x).rd = c.rd := rfl
@[simp] theorem Chip.setSensor_fab (c : Chip) (i : Nat) (x : Sensor) : (c.setSensor i x).fab = c.fab := rfl
@[simp] theorem Chip.setSensor_col (c : Chip) (i : Nat) (x : Sensor) : (c.setSensor i x).col = c.col := rfl
@[simp] theorem Chip.setSensor_cur_up (c : Chip) (i : Nat) (x : Sensor) : (c.setSensor i x).cur.up = c.cur.up := rfl
@[simp] theorem Chip.setSensor_cur_health (c : Chip) (i : Nat) (x : Sensor) : (c.setSensor i x).cur.health = c.cur.health := rfl
@[simp] theorem Chip.setSensor_cur_buf (c : Chip) (i : Nat) (x : Sensor) : (c.setSensor i x).cur.buf = c.cur.buf := rfl
@[simp] theorem Chip.setSensor_cur_lost (c : Chip) (i : Nat) (x : Sensor) : (c.setSensor i x).cur.lost = c.cur.lost := rfl
@[simp] theorem Chip.setSensor_cur_i3cResp (c : Chip) (i : Nat) (x : Sensor) : (c.setSensor i x).cur.i3cResp = c.cur.i3cResp := rfl
@[simp] theorem Chip.setSensor_cur_dynAddr (c : Chip) (i : Nat) (x : Sensor) : (c.setSensor i x).cur.dynAddr = c.cur.dynAddr := rfl
@[simp] theorem Chip.setSensor_cur_ibiEn (c : Chip) (i : Nat) (x : Sensor) : (c.setSensor i x).cur.ibiEn = c.cur.ibiEn := rfl
@[simp] theorem Chip.setSensor_cur_ibiDue (c : Chip) (i : Nat) (x : Sensor) : (c.setSensor i x).cur.ibiDue = c.cur.ibiDue := rfl
@[simp] theorem Chip.setSensor_cur_i3cOut (c : Chip) (i : Nat) (x : Sensor) : (c.setSensor i x).cur.i3cOut = c.cur.i3cOut := rfl
@[simp] theorem Chip.setSensor_cur_fw (c : Chip) (i : Nat) (x : Sensor) : (c.setSensor i x).cur.fw = c.cur.fw := rfl
@[simp] theorem Chip.setSensor_cur_recBuf (c : Chip) (i : Nat) (x : Sensor) : (c.setSensor i x).cur.recBuf = c.cur.recBuf := rfl
@[simp] theorem Chip.setSensor_cur_frameQ (c : Chip) (i : Nat) (x : Sensor) : (c.setSensor i x).cur.frameQ = c.cur.frameQ := rfl

/-! ### setKeys -/

@[simp] theorem Chip.keysOf_setKeys (c : Chip) (x : Nat) (k : KeySet) : (c.setKeys x k).keysOf x = k := by simp [Chip.setKeys, Chip.keysOf]
theorem Chip.keysOf_setKeys_ne (c : Chip) (x : Nat) (k : KeySet) (y : Nat) (h : y ≠ x) : (c.setKeys x k).keysOf y = c.keysOf y := by
  simp [Chip.setKeys, Chip.keysOf, Tab.get_put_ne _ _ _ _ h]
@[simp] theorem Chip.setKeys_fz (c : Chip) (x : Nat) (k : KeySet) : (c.setKeys x k).fz = c.fz := rfl
@[simp] theorem Chip.setKeys_regs (c : Chip) (x : Nat) (k : KeySet) : (c.setKeys x k).regs = c.regs := rfl
@[simp] theorem Chip.setKeys_time (c : Chip) (x : Nat) (k : KeySet) : (c.setKeys x k).time = c.time := rfl
@[simp] theorem Chip.setKeys_pwr (c : Chip) (x : Nat) (k : KeySet) : (c.setKeys x k).pwr = c.pwr := rfl
@[simp] theorem Chip.setKeys_flt (c : Chip) (x : Nat) (k : KeySet) : (c.setKeys x k).flt = c.flt := rfl
@[simp] theorem Chip.setKeys_cur (c : Chip) (x : Nat) (k : KeySet) : (c.setKeys x k).cur = c.cur := rfl
@[simp] theorem Chip.setKeys_hlt (c : Chip) (x : Nat) (k : KeySet) : (c.setKeys x k).hlt = c.hlt := rfl
@[simp] theorem Chip.setKeys_fe (c : Chip) (x : Nat) (k : KeySet) : (c.setKeys x k).fe = c.fe := rfl
@[simp] theorem Chip.setKeys_hom (c : Chip) (x : Nat) (k : KeySet) : (c.setKeys x k).hom = c.hom := rfl
@[simp] theorem Chip.setKeys_bm (c : Chip) (x : Nat) (k : KeySet) : (c.setKeys x k).bm = c.bm := rfl
@[simp] theorem Chip.setKeys_core (c : Chip) (x : Nat) (k : KeySet) : (c.setKeys x k).core = c.core := rfl
@[simp] theorem Chip.setKeys_rd (c : Chip) (x : Nat) (k : KeySet) : (c.setKeys x k).rd = c.rd := rfl
@[simp] theorem Chip.setKeys_fab (c : Chip) (x : Nat) (k : KeySet) : (c.setKeys x k).fab = c.fab := rfl
@[simp] theorem Chip.setKeys_col (c : Chip) (x : Nat) (k : KeySet) : (c.setKeys x k).col = c.col := rfl
@[simp] theorem Chip.setKeys_sec_kem (c : Chip) (x : Nat) (k : KeySet) : (c.setKeys x k).sec.kem = c.sec.kem := rfl
@[simp] theorem Chip.setKeys_sec_nonce (c : Chip) (x : Nat) (k : KeySet) : (c.setKeys x k).sec.nonce = c.sec.nonce := rfl
@[simp] theorem Chip.setKeys_sec_req (c : Chip) (x : Nat) (k : KeySet) : (c.setKeys x k).sec.req = c.sec.req := rfl
@[simp] theorem Chip.setKeys_sec_pending (c : Chip) (x : Nat) (k : KeySet) : (c.setKeys x k).sec.pending = c.sec.pending := rfl
@[simp] theorem Chip.setKeys_sec_romStop (c : Chip) (x : Nat) (k : KeySet) : (c.setKeys x k).sec.romStop = c.sec.romStop := rfl
@[simp] theorem Chip.setKeys_sec_meas (c : Chip) (x : Nat) (k : KeySet) : (c.setKeys x k).sec.meas = c.sec.meas := rfl
@[simp] theorem Chip.setKeys_sec_vers (c : Chip) (x : Nat) (k : KeySet) : (c.setKeys x k).sec.vers = c.sec.vers := rfl

/-! ### setPool -/

@[simp] theorem Chip.poolOf_setPool (c : Chip) (k : Nat) (p : Pool) : (c.setPool k p).poolOf k = p := by simp [Chip.setPool, Chip.poolOf]
theorem Chip.poolOf_setPool_ne (c : Chip) (k : Nat) (p : Pool) (y : Nat) (h : y ≠ k) : (c.setPool k p).poolOf y = c.poolOf y := by
  simp [Chip.setPool, Chip.poolOf, Tab.get_put_ne _ _ _ _ h]
@[simp] theorem Chip.setPool_fz (c : Chip) (k : Nat) (p : Pool) : (c.setPool k p).fz = c.fz := rfl
@[simp] theorem Chip.setPool_regs (c : Chip) (k : Nat) (p : Pool) : (c.setPool k p).regs = c.regs := rfl
@[simp] theorem Chip.setPool_time (c : Chip) (k : Nat) (p : Pool) : (c.setPool k p).time = c.time := rfl
@[simp] theorem Chip.setPool_pwr (c : Chip) (k : Nat) (p : Pool) : (c.setPool k p).pwr = c.pwr := rfl
@[simp] theorem Chip.setPool_flt (c : Chip) (k : Nat) (p : Pool) : (c.setPool k p).flt = c.flt := rfl
@[simp] theorem Chip.setPool_sec (c : Chip) (k : Nat) (p : Pool) : (c.setPool k p).sec = c.sec := rfl
@[simp] theorem Chip.setPool_cur (c : Chip) (k : Nat) (p : Pool) : (c.setPool k p).cur = c.cur := rfl
@[simp] theorem Chip.setPool_hlt (c : Chip) (k : Nat) (p : Pool) : (c.setPool k p).hlt = c.hlt := rfl
@[simp] theorem Chip.setPool_fe (c : Chip) (k : Nat) (p : Pool) : (c.setPool k p).fe = c.fe := rfl
@[simp] theorem Chip.setPool_hom (c : Chip) (k : Nat) (p : Pool) : (c.setPool k p).hom = c.hom := rfl
@[simp] theorem Chip.setPool_core (c : Chip) (k : Nat) (p : Pool) : (c.setPool k p).core = c.core := rfl
@[simp] theorem Chip.setPool_rd (c : Chip) (k : Nat) (p : Pool) : (c.setPool k p).rd = c.rd := rfl
@[simp] theorem Chip.setPool_fab (c : Chip) (k : Nat) (p : Pool) : (c.setPool k p).fab = c.fab := rfl
@[simp] theorem Chip.setPool_col (c : Chip) (k : Nat) (p : Pool) : (c.setPool k p).col = c.col := rfl
@[simp] theorem Chip.setPool_bm_mbxs (c : Chip) (k : Nat) (p : Pool) : (c.setPool k p).bm.mbxs = c.bm.mbxs := rfl

/-! ### setMbx -/

@[simp] theorem Chip.mbxOf_setMbx (c : Chip) (b : Nat) (m : Mbx) : (c.setMbx b m).mbxOf b = m := by simp [Chip.setMbx, Chip.mbxOf]
theorem Chip.mbxOf_setMbx_ne (c : Chip) (b : Nat) (m : Mbx) (y : Nat) (h : y ≠ b) : (c.setMbx b m).mbxOf y = c.mbxOf y := by
  simp [Chip.setMbx, Chip.mbxOf, Tab.get_put_ne _ _ _ _ h]
@[simp] theorem Chip.setMbx_fz (c : Chip) (b : Nat) (m : Mbx) : (c.setMbx b m).fz = c.fz := rfl
@[simp] theorem Chip.setMbx_regs (c : Chip) (b : Nat) (m : Mbx) : (c.setMbx b m).regs = c.regs := rfl
@[simp] theorem Chip.setMbx_time (c : Chip) (b : Nat) (m : Mbx) : (c.setMbx b m).time = c.time := rfl
@[simp] theorem Chip.setMbx_pwr (c : Chip) (b : Nat) (m : Mbx) : (c.setMbx b m).pwr = c.pwr := rfl
@[simp] theorem Chip.setMbx_flt (c : Chip) (b : Nat) (m : Mbx) : (c.setMbx b m).flt = c.flt := rfl
@[simp] theorem Chip.setMbx_sec (c : Chip) (b : Nat) (m : Mbx) : (c.setMbx b m).sec = c.sec := rfl
@[simp] theorem Chip.setMbx_cur (c : Chip) (b : Nat) (m : Mbx) : (c.setMbx b m).cur = c.cur := rfl
@[simp] theorem Chip.setMbx_hlt (c : Chip) (b : Nat) (m : Mbx) : (c.setMbx b m).hlt = c.hlt := rfl
@[simp] theorem Chip.setMbx_fe (c : Chip) (b : Nat) (m : Mbx) : (c.setMbx b m).fe = c.fe := rfl
@[simp] theorem Chip.setMbx_hom (c : Chip) (b : Nat) (m : Mbx) : (c.setMbx b m).hom = c.hom := rfl
@[simp] theorem Chip.setMbx_core (c : Chip) (b : Nat) (m : Mbx) : (c.setMbx b m).core = c.core := rfl
@[simp] theorem Chip.setMbx_rd (c : Chip) (b : Nat) (m : Mbx) : (c.setMbx b m).rd = c.rd := rfl
@[simp] theorem Chip.setMbx_fab (c : Chip) (b : Nat) (m : Mbx) : (c.setMbx b m).fab = c.fab := rfl
@[simp] theorem Chip.setMbx_col (c : Chip) (b : Nat) (m : Mbx) : (c.setMbx b m).col = c.col := rfl
@[simp] theorem Chip.setMbx_bm_pools (c : Chip) (b : Nat) (m : Mbx) : (c.setMbx b m).bm.pools = c.bm.pools := rfl

/-! ### setCslot -/

@[simp] theorem Chip.cslot_setCslot (c : Chip) (s : Nat) (x : CSlot) : (c.setCslot s x).cslot s = x := by simp [Chip.setCslot, Chip.cslot]
theorem Chip.cslot_setCslot_ne (c : Chip) (s : Nat) (x : CSlot) (y : Nat) (h : y ≠ s) : (c.setCslot s x).cslot y = c.cslot y := by
  simp [Chip.setCslot, Chip.cslot, Tab.get_put_ne _ _ _ _ h]
@[simp] theorem Chip.setCslot_fz (c : Chip) (s : Nat) (x : CSlot) : (c.setCslot s x).fz = c.fz := rfl
@[simp] theorem Chip.setCslot_regs (c : Chip) (s : Nat) (x : CSlot) : (c.setCslot s x).regs = c.regs := rfl
@[simp] theorem Chip.setCslot_time (c : Chip) (s : Nat) (x : CSlot) : (c.setCslot s x).time = c.time := rfl
@[simp] theorem Chip.setCslot_pwr (c : Chip) (s : Nat) (x : CSlot) : (c.setCslot s x).pwr = c.pwr := rfl
@[simp] theorem Chip.setCslot_flt (c : Chip) (s : Nat) (x : CSlot) : (c.setCslot s x).flt = c.flt := rfl
@[simp] theorem Chip.setCslot_sec (c : Chip) (s : Nat) (x : CSlot) : (c.setCslot s x).sec = c.sec := rfl
@[simp] theorem Chip.setCslot_cur (c : Chip) (s : Nat) (x : CSlot) : (c.setCslot s x).cur = c.cur := rfl
@[simp] theorem Chip.setCslot_hlt (c : Chip) (s : Nat) (x : CSlot) : (c.setCslot s x).hlt = c.hlt := rfl
@[simp] theorem Chip.setCslot_fe (c : Chip) (s : Nat) (x : CSlot) : (c.setCslot s x).fe = c.fe := rfl
@[simp] theorem Chip.setCslot_hom (c : Chip) (s : Nat) (x : CSlot) : (c.setCslot s x).hom = c.hom := rfl
@[simp] theorem Chip.setCslot_bm (c : Chip) (s : Nat) (x : CSlot) : (c.setCslot s x).bm = c.bm := rfl
@[simp] theorem Chip.setCslot_core (c : Chip) (s : Nat) (x : CSlot) : (c.setCslot s x).core = c.core := rfl
@[simp] theorem Chip.setCslot_rd (c : Chip) (s : Nat) (x : CSlot) : (c.setCslot s x).rd = c.rd := rfl
@[simp] theorem Chip.setCslot_fab (c : Chip) (s : Nat) (x : CSlot) : (c.setCslot s x).fab = c.fab := rfl
@[simp] theorem Chip.setCslot_col_mslots (c : Chip) (s : Nat) (x : CSlot) : (c.setCslot s x).col.mslots = c.col.mslots := rfl

/-! ### setWin -/

@[simp] theorem Chip.winOf_setWin (c : Chip) (w : Nat) (x : Win) : (c.setWin w x).winOf w = x := by simp [Chip.setWin, Chip.winOf]
theorem Chip.winOf_setWin_ne (c : Chip) (w : Nat) (x : Win) (y : Nat) (h : y ≠ w) : (c.setWin w x).winOf y = c.winOf y := by
  simp [Chip.setWin, Chip.winOf, Tab.get_put_ne _ _ _ _ h]
@[simp] theorem Chip.setWin_fz (c : Chip) (w : Nat) (x : Win) : (c.setWin w x).fz = c.fz := rfl
@[simp] theorem Chip.setWin_regs (c : Chip) (w : Nat) (x : Win) : (c.setWin w x).regs = c.regs := rfl
@[simp] theorem Chip.setWin_time (c : Chip) (w : Nat) (x : Win) : (c.setWin w x).time = c.time := rfl
@[simp] theorem Chip.setWin_pwr (c : Chip) (w : Nat) (x : Win) : (c.setWin w x).pwr = c.pwr := rfl
@[simp] theorem Chip.setWin_flt (c : Chip) (w : Nat) (x : Win) : (c.setWin w x).flt = c.flt := rfl
@[simp] theorem Chip.setWin_sec (c : Chip) (w : Nat) (x : Win) : (c.setWin w x).sec = c.sec := rfl
@[simp] theorem Chip.setWin_cur (c : Chip) (w : Nat) (x : Win) : (c.setWin w x).cur = c.cur := rfl
@[simp] theorem Chip.setWin_hlt (c : Chip) (w : Nat) (x : Win) : (c.setWin w x).hlt = c.hlt := rfl
@[simp] theorem Chip.setWin_fe (c : Chip) (w : Nat) (x : Win) : (c.setWin w x).fe = c.fe := rfl
@[simp] theorem Chip.setWin_hom (c : Chip) (w : Nat) (x : Win) : (c.setWin w x).hom = c.hom := rfl
@[simp] theorem Chip.setWin_bm (c : Chip) (w : Nat) (x : Win) : (c.setWin w x).bm = c.bm := rfl
@[simp] theorem Chip.setWin_core (c : Chip) (w : Nat) (x : Win) : (c.setWin w x).core = c.core := rfl
@[simp] theorem Chip.setWin_fab (c : Chip) (w : Nat) (x : Win) : (c.setWin w x).fab = c.fab := rfl
@[simp] theorem Chip.setWin_col (c : Chip) (w : Nat) (x : Win) : (c.setWin w x).col = c.col := rfl
@[simp] theorem Chip.setWin_rd_slots (c : Chip) (w : Nat) (x : Win) : (c.setWin w x).rd.slots = c.rd.slots := rfl
@[simp] theorem Chip.setWin_rd_routes (c : Chip) (w : Nat) (x : Win) : (c.setWin w x).rd.routes = c.rd.routes := rfl
@[simp] theorem Chip.setWin_rd_drovers (c : Chip) (w : Nat) (x : Win) : (c.setWin w x).rd.drovers = c.rd.drovers := rfl
@[simp] theorem Chip.setWin_rd_rtags (c : Chip) (w : Nat) (x : Win) : (c.setWin w x).rd.rtags = c.rd.rtags := rfl

/-! ### setPort -/

@[simp] theorem Chip.portOf_setPort (c : Chip) (p : Nat) (x : Port) : (c.setPort p x).portOf p = x := by simp [Chip.setPort, Chip.portOf]
theorem Chip.portOf_setPort_ne (c : Chip) (p : Nat) (x : Port) (y : Nat) (h : y ≠ p) : (c.setPort p x).portOf y = c.portOf y := by
  simp [Chip.setPort, Chip.portOf, Tab.get_put_ne _ _ _ _ h]
@[simp] theorem Chip.setPort_fz (c : Chip) (p : Nat) (x : Port) : (c.setPort p x).fz = c.fz := rfl
@[simp] theorem Chip.setPort_regs (c : Chip) (p : Nat) (x : Port) : (c.setPort p x).regs = c.regs := rfl
@[simp] theorem Chip.setPort_time (c : Chip) (p : Nat) (x : Port) : (c.setPort p x).time = c.time := rfl
@[simp] theorem Chip.setPort_pwr (c : Chip) (p : Nat) (x : Port) : (c.setPort p x).pwr = c.pwr := rfl
@[simp] theorem Chip.setPort_flt (c : Chip) (p : Nat) (x : Port) : (c.setPort p x).flt = c.flt := rfl
@[simp] theorem Chip.setPort_sec (c : Chip) (p : Nat) (x : Port) : (c.setPort p x).sec = c.sec := rfl
@[simp] theorem Chip.setPort_cur (c : Chip) (p : Nat) (x : Port) : (c.setPort p x).cur = c.cur := rfl
@[simp] theorem Chip.setPort_hlt (c : Chip) (p : Nat) (x : Port) : (c.setPort p x).hlt = c.hlt := rfl
@[simp] theorem Chip.setPort_fe (c : Chip) (p : Nat) (x : Port) : (c.setPort p x).fe = c.fe := rfl
@[simp] theorem Chip.setPort_hom (c : Chip) (p : Nat) (x : Port) : (c.setPort p x).hom = c.hom := rfl
@[simp] theorem Chip.setPort_bm (c : Chip) (p : Nat) (x : Port) : (c.setPort p x).bm = c.bm := rfl
@[simp] theorem Chip.setPort_core (c : Chip) (p : Nat) (x : Port) : (c.setPort p x).core = c.core := rfl
@[simp] theorem Chip.setPort_rd (c : Chip) (p : Nat) (x : Port) : (c.setPort p x).rd = c.rd := rfl
@[simp] theorem Chip.setPort_col (c : Chip) (p : Nat) (x : Port) : (c.setPort p x).col = c.col := rfl
@[simp] theorem Chip.setPort_fab_tags (c : Chip) (p : Nat) (x : Port) : (c.setPort p x).fab.tags = c.fab.tags := rfl
@[simp] theorem Chip.setPort_fab_gens (c : Chip) (p : Nat) (x : Port) : (c.setPort p x).fab.gens = c.fab.gens := rfl
@[simp] theorem Chip.setPort_fab_order (c : Chip) (p : Nat) (x : Port) : (c.setPort p x).fab.order = c.fab.order := rfl
@[simp] theorem Chip.setPort_fab_wait (c : Chip) (p : Nat) (x : Port) : (c.setPort p x).fab.wait = c.fab.wait := rfl
@[simp] theorem Chip.setPort_fab_adm (c : Chip) (p : Nat) (x : Port) : (c.setPort p x).fab.adm = c.fab.adm := rfl
@[simp] theorem Chip.setPort_fab_reach (c : Chip) (p : Nat) (x : Port) : (c.setPort p x).fab.reach = c.fab.reach := rfl
@[simp] theorem Chip.setPort_fab_acks (c : Chip) (p : Nat) (x : Port) : (c.setPort p x).fab.acks = c.fab.acks := rfl
@[simp] theorem Chip.setPort_fab_held (c : Chip) (p : Nat) (x : Port) : (c.setPort p x).fab.held = c.fab.held := rfl

/-! ### setTag -/

@[simp] theorem Chip.tagOf_setTag (c : Chip) (t : Nat) (x : Option Tag) : (c.setTag t x).tagOf t = x := by simp [Chip.setTag, Chip.tagOf]
theorem Chip.tagOf_setTag_ne (c : Chip) (t : Nat) (x : Option Tag) (y : Nat) (h : y ≠ t) : (c.setTag t x).tagOf y = c.tagOf y := by
  simp [Chip.setTag, Chip.tagOf, Tab.get_put_ne _ _ _ _ h]
@[simp] theorem Chip.setTag_fz (c : Chip) (t : Nat) (x : Option Tag) : (c.setTag t x).fz = c.fz := rfl
@[simp] theorem Chip.setTag_regs (c : Chip) (t : Nat) (x : Option Tag) : (c.setTag t x).regs = c.regs := rfl
@[simp] theorem Chip.setTag_time (c : Chip) (t : Nat) (x : Option Tag) : (c.setTag t x).time = c.time := rfl
@[simp] theorem Chip.setTag_pwr (c : Chip) (t : Nat) (x : Option Tag) : (c.setTag t x).pwr = c.pwr := rfl
@[simp] theorem Chip.setTag_flt (c : Chip) (t : Nat) (x : Option Tag) : (c.setTag t x).flt = c.flt := rfl
@[simp] theorem Chip.setTag_sec (c : Chip) (t : Nat) (x : Option Tag) : (c.setTag t x).sec = c.sec := rfl
@[simp] theorem Chip.setTag_cur (c : Chip) (t : Nat) (x : Option Tag) : (c.setTag t x).cur = c.cur := rfl
@[simp] theorem Chip.setTag_hlt (c : Chip) (t : Nat) (x : Option Tag) : (c.setTag t x).hlt = c.hlt := rfl
@[simp] theorem Chip.setTag_fe (c : Chip) (t : Nat) (x : Option Tag) : (c.setTag t x).fe = c.fe := rfl
@[simp] theorem Chip.setTag_hom (c : Chip) (t : Nat) (x : Option Tag) : (c.setTag t x).hom = c.hom := rfl
@[simp] theorem Chip.setTag_bm (c : Chip) (t : Nat) (x : Option Tag) : (c.setTag t x).bm = c.bm := rfl
@[simp] theorem Chip.setTag_core (c : Chip) (t : Nat) (x : Option Tag) : (c.setTag t x).core = c.core := rfl
@[simp] theorem Chip.setTag_rd (c : Chip) (t : Nat) (x : Option Tag) : (c.setTag t x).rd = c.rd := rfl
@[simp] theorem Chip.setTag_col (c : Chip) (t : Nat) (x : Option Tag) : (c.setTag t x).col = c.col := rfl
@[simp] theorem Chip.setTag_fab_ports (c : Chip) (t : Nat) (x : Option Tag) : (c.setTag t x).fab.ports = c.fab.ports := rfl
@[simp] theorem Chip.setTag_fab_gens (c : Chip) (t : Nat) (x : Option Tag) : (c.setTag t x).fab.gens = c.fab.gens := rfl
@[simp] theorem Chip.setTag_fab_order (c : Chip) (t : Nat) (x : Option Tag) : (c.setTag t x).fab.order = c.fab.order := rfl
@[simp] theorem Chip.setTag_fab_wait (c : Chip) (t : Nat) (x : Option Tag) : (c.setTag t x).fab.wait = c.fab.wait := rfl
@[simp] theorem Chip.setTag_fab_adm (c : Chip) (t : Nat) (x : Option Tag) : (c.setTag t x).fab.adm = c.fab.adm := rfl
@[simp] theorem Chip.setTag_fab_reach (c : Chip) (t : Nat) (x : Option Tag) : (c.setTag t x).fab.reach = c.fab.reach := rfl
@[simp] theorem Chip.setTag_fab_acks (c : Chip) (t : Nat) (x : Option Tag) : (c.setTag t x).fab.acks = c.fab.acks := rfl
@[simp] theorem Chip.setTag_fab_held (c : Chip) (t : Nat) (x : Option Tag) : (c.setTag t x).fab.held = c.fab.held := rfl

/-! ### setAdm -/

@[simp] theorem Chip.admOf_setAdm (c : Chip) (j : Nat) (x : Adm) : (c.setAdm j x).admOf j = x := by simp [Chip.setAdm, Chip.admOf]
theorem Chip.admOf_setAdm_ne (c : Chip) (j : Nat) (x : Adm) (y : Nat) (h : y ≠ j) : (c.setAdm j x).admOf y = c.admOf y := by
  simp [Chip.setAdm, Chip.admOf, Tab.get_put_ne _ _ _ _ h]
@[simp] theorem Chip.setAdm_fz (c : Chip) (j : Nat) (x : Adm) : (c.setAdm j x).fz = c.fz := rfl
@[simp] theorem Chip.setAdm_regs (c : Chip) (j : Nat) (x : Adm) : (c.setAdm j x).regs = c.regs := rfl
@[simp] theorem Chip.setAdm_time (c : Chip) (j : Nat) (x : Adm) : (c.setAdm j x).time = c.time := rfl
@[simp] theorem Chip.setAdm_pwr (c : Chip) (j : Nat) (x : Adm) : (c.setAdm j x).pwr = c.pwr := rfl
@[simp] theorem Chip.setAdm_flt (c : Chip) (j : Nat) (x : Adm) : (c.setAdm j x).flt = c.flt := rfl
@[simp] theorem Chip.setAdm_sec (c : Chip) (j : Nat) (x : Adm) : (c.setAdm j x).sec = c.sec := rfl
@[simp] theorem Chip.setAdm_cur (c : Chip) (j : Nat) (x : Adm) : (c.setAdm j x).cur = c.cur := rfl
@[simp] theorem Chip.setAdm_hlt (c : Chip) (j : Nat) (x : Adm) : (c.setAdm j x).hlt = c.hlt := rfl
@[simp] theorem Chip.setAdm_fe (c : Chip) (j : Nat) (x : Adm) : (c.setAdm j x).fe = c.fe := rfl
@[simp] theorem Chip.setAdm_hom (c : Chip) (j : Nat) (x : Adm) : (c.setAdm j x).hom = c.hom := rfl
@[simp] theorem Chip.setAdm_bm (c : Chip) (j : Nat) (x : Adm) : (c.setAdm j x).bm = c.bm := rfl
@[simp] theorem Chip.setAdm_core (c : Chip) (j : Nat) (x : Adm) : (c.setAdm j x).core = c.core := rfl
@[simp] theorem Chip.setAdm_rd (c : Chip) (j : Nat) (x : Adm) : (c.setAdm j x).rd = c.rd := rfl
@[simp] theorem Chip.setAdm_col (c : Chip) (j : Nat) (x : Adm) : (c.setAdm j x).col = c.col := rfl
@[simp] theorem Chip.setAdm_fab_ports (c : Chip) (j : Nat) (x : Adm) : (c.setAdm j x).fab.ports = c.fab.ports := rfl
@[simp] theorem Chip.setAdm_fab_tags (c : Chip) (j : Nat) (x : Adm) : (c.setAdm j x).fab.tags = c.fab.tags := rfl
@[simp] theorem Chip.setAdm_fab_gens (c : Chip) (j : Nat) (x : Adm) : (c.setAdm j x).fab.gens = c.fab.gens := rfl
@[simp] theorem Chip.setAdm_fab_order (c : Chip) (j : Nat) (x : Adm) : (c.setAdm j x).fab.order = c.fab.order := rfl
@[simp] theorem Chip.setAdm_fab_wait (c : Chip) (j : Nat) (x : Adm) : (c.setAdm j x).fab.wait = c.fab.wait := rfl
@[simp] theorem Chip.setAdm_fab_reach (c : Chip) (j : Nat) (x : Adm) : (c.setAdm j x).fab.reach = c.fab.reach := rfl
@[simp] theorem Chip.setAdm_fab_acks (c : Chip) (j : Nat) (x : Adm) : (c.setAdm j x).fab.acks = c.fab.acks := rfl
@[simp] theorem Chip.setAdm_fab_held (c : Chip) (j : Nat) (x : Adm) : (c.setAdm j x).fab.held = c.fab.held := rfl

/-! ### setRslot -/

@[simp] theorem Chip.rslot_setRslot (c : Chip) (s : Nat) (x : RSlot) : (c.setRslot s x).rslot s = x := by simp [Chip.setRslot, Chip.rslot]
theorem Chip.rslot_setRslot_ne (c : Chip) (s : Nat) (x : RSlot) (y : Nat) (h : y ≠ s) : (c.setRslot s x).rslot y = c.rslot y := by
  simp [Chip.setRslot, Chip.rslot, Tab.get_put_ne _ _ _ _ h]
@[simp] theorem Chip.setRslot_fz (c : Chip) (s : Nat) (x : RSlot) : (c.setRslot s x).fz = c.fz := rfl
@[simp] theorem Chip.setRslot_regs (c : Chip) (s : Nat) (x : RSlot) : (c.setRslot s x).regs = c.regs := rfl
@[simp] theorem Chip.setRslot_time (c : Chip) (s : Nat) (x : RSlot) : (c.setRslot s x).time = c.time := rfl
@[simp] theorem Chip.setRslot_pwr (c : Chip) (s : Nat) (x : RSlot) : (c.setRslot s x).pwr = c.pwr := rfl
@[simp] theorem Chip.setRslot_flt (c : Chip) (s : Nat) (x : RSlot) : (c.setRslot s x).flt = c.flt := rfl
@[simp] theorem Chip.setRslot_sec (c : Chip) (s : Nat) (x : RSlot) : (c.setRslot s x).sec = c.sec := rfl
@[simp] theorem Chip.setRslot_cur (c : Chip) (s : Nat) (x : RSlot) : (c.setRslot s x).cur = c.cur := rfl
@[simp] theorem Chip.setRslot_hlt (c : Chip) (s : Nat) (x : RSlot) : (c.setRslot s x).hlt = c.hlt := rfl
@[simp] theorem Chip.setRslot_fe (c : Chip) (s : Nat) (x : RSlot) : (c.setRslot s x).fe = c.fe := rfl
@[simp] theorem Chip.setRslot_hom (c : Chip) (s : Nat) (x : RSlot) : (c.setRslot s x).hom = c.hom := rfl
@[simp] theorem Chip.setRslot_bm (c : Chip) (s : Nat) (x : RSlot) : (c.setRslot s x).bm = c.bm := rfl
@[simp] theorem Chip.setRslot_core (c : Chip) (s : Nat) (x : RSlot) : (c.setRslot s x).core = c.core := rfl
@[simp] theorem Chip.setRslot_fab (c : Chip) (s : Nat) (x : RSlot) : (c.setRslot s x).fab = c.fab := rfl
@[simp] theorem Chip.setRslot_col (c : Chip) (s : Nat) (x : RSlot) : (c.setRslot s x).col = c.col := rfl
@[simp] theorem Chip.setRslot_rd_routes (c : Chip) (s : Nat) (x : RSlot) : (c.setRslot s x).rd.routes = c.rd.routes := rfl
@[simp] theorem Chip.setRslot_rd_wins (c : Chip) (s : Nat) (x : RSlot) : (c.setRslot s x).rd.wins = c.rd.wins := rfl
@[simp] theorem Chip.setRslot_rd_drovers (c : Chip) (s : Nat) (x : RSlot) : (c.setRslot s x).rd.drovers = c.rd.drovers := rfl
@[simp] theorem Chip.setRslot_rd_rtags (c : Chip) (s : Nat) (x : RSlot) : (c.setRslot s x).rd.rtags = c.rd.rtags := rfl

/-! ### setReg -/

@[simp] theorem Chip.setReg_fz (c : Chip) (page off v : Nat) : (c.setReg page off v).fz = c.fz := rfl
@[simp] theorem Chip.setReg_time (c : Chip) (page off v : Nat) : (c.setReg page off v).time = c.time := rfl
@[simp] theorem Chip.setReg_pwr (c : Chip) (page off v : Nat) : (c.setReg page off v).pwr = c.pwr := rfl
@[simp] theorem Chip.setReg_flt (c : Chip) (page off v : Nat) : (c.setReg page off v).flt = c.flt := rfl
@[simp] theorem Chip.setReg_sec (c : Chip) (page off v : Nat) : (c.setReg page off v).sec = c.sec := rfl
@[simp] theorem Chip.setReg_cur (c : Chip) (page off v : Nat) : (c.setReg page off v).cur = c.cur := rfl
@[simp] theorem Chip.setReg_hlt (c : Chip) (page off v : Nat) : (c.setReg page off v).hlt = c.hlt := rfl
@[simp] theorem Chip.setReg_fe (c : Chip) (page off v : Nat) : (c.setReg page off v).fe = c.fe := rfl
@[simp] theorem Chip.setReg_hom (c : Chip) (page off v : Nat) : (c.setReg page off v).hom = c.hom := rfl
@[simp] theorem Chip.setReg_bm (c : Chip) (page off v : Nat) : (c.setReg page off v).bm = c.bm := rfl
@[simp] theorem Chip.setReg_core (c : Chip) (page off v : Nat) : (c.setReg page off v).core = c.core := rfl
@[simp] theorem Chip.setReg_rd (c : Chip) (page off v : Nat) : (c.setReg page off v).rd = c.rd := rfl
@[simp] theorem Chip.setReg_fab (c : Chip) (page off v : Nat) : (c.setReg page off v).fab = c.fab := rfl
@[simp] theorem Chip.setReg_col (c : Chip) (page off v : Nat) : (c.setReg page off v).col = c.col := rfl
@[simp] theorem Chip.setFld_fz (c : Chip) (page off hi lo v : Nat) : (c.setFld page off hi lo v).fz = c.fz := rfl
@[simp] theorem Chip.setFld_time (c : Chip) (page off hi lo v : Nat) : (c.setFld page off hi lo v).time = c.time := rfl
@[simp] theorem Chip.setFld_pwr (c : Chip) (page off hi lo v : Nat) : (c.setFld page off hi lo v).pwr = c.pwr := rfl
@[simp] theorem Chip.setFld_flt (c : Chip) (page off hi lo v : Nat) : (c.setFld page off hi lo v).flt = c.flt := rfl
@[simp] theorem Chip.setFld_sec (c : Chip) (page off hi lo v : Nat) : (c.setFld page off hi lo v).sec = c.sec := rfl
@[simp] theorem Chip.setFld_cur (c : Chip) (page off hi lo v : Nat) : (c.setFld page off hi lo v).cur = c.cur := rfl
@[simp] theorem Chip.setFld_hlt (c : Chip) (page off hi lo v : Nat) : (c.setFld page off hi lo v).hlt = c.hlt := rfl
@[simp] theorem Chip.setFld_fe (c : Chip) (page off hi lo v : Nat) : (c.setFld page off hi lo v).fe = c.fe := rfl
@[simp] theorem Chip.setFld_hom (c : Chip) (page off hi lo v : Nat) : (c.setFld page off hi lo v).hom = c.hom := rfl
@[simp] theorem Chip.setFld_bm (c : Chip) (page off hi lo v : Nat) : (c.setFld page off hi lo v).bm = c.bm := rfl
@[simp] theorem Chip.setFld_core (c : Chip) (page off hi lo v : Nat) : (c.setFld page off hi lo v).core = c.core := rfl
@[simp] theorem Chip.setFld_rd (c : Chip) (page off hi lo v : Nat) : (c.setFld page off hi lo v).rd = c.rd := rfl
@[simp] theorem Chip.setFld_fab (c : Chip) (page off hi lo v : Nat) : (c.setFld page off hi lo v).fab = c.fab := rfl
@[simp] theorem Chip.setFld_col (c : Chip) (page off hi lo v : Nat) : (c.setFld page off hi lo v).col = c.col := rfl

/-- A register's stored value is a 64-bit number. -/
theorem Chip.reg_lt (c : Chip) (page off : Nat) : c.reg page off < 2 ^ 64 := (Tab.get (BitVec.ofNat 64 (regReset page off)) c.regs (page * 4096 + off)).isLt

/-- A register that was stored reads the low 64 bits of what was stored. -/
@[simp] theorem Chip.reg_setReg (c : Chip) (page off v : Nat) : (c.setReg page off v).reg page off = v % 2 ^ 64 := by
  simp [Chip.reg, Chip.setReg, BitVec.toNat_ofNat]

/-- Every other register reads as before. -/
theorem Chip.reg_setReg_ne (c : Chip) (page off v p o : Nat) (h : p * 4096 + o ≠ page * 4096 + off) :
    (c.setReg page off v).reg p o = c.reg p o := by
  simp [Chip.reg, Chip.setReg, Tab.get_put_ne _ _ _ _ h]

end Sys2Proof.Machine
end

