-- ==== Sys2Proof/Laws/Ops.lean ====
section
/-!
SUPPORT. What the shared operations can do: counters, free values, the Ledger's buffer, interrupts, error registers and injections
change only what a report changes.
-/

namespace Sys2Proof.Machine

theorem Chip.Reports.refl (c : Chip) : Chip.Reports c c := ⟨rfl, rfl, rfl, rfl, rfl, rfl, rfl, rfl, rfl, rfl, rfl, rfl, rfl, rfl⟩

theorem Chip.Reports.trans {a b c : Chip} (h : Chip.Reports a b) (k : Chip.Reports b c) : Chip.Reports a c :=
  ⟨k.fz.trans h.fz, k.time.trans h.time, k.pwr.trans h.pwr, k.flt.trans h.flt, k.sec.trans h.sec, k.hom.trans h.hom, k.bm.trans h.bm,
    k.core.trans h.core, k.rd.trans h.rd, k.fab.trans h.fab, k.col.trans h.col, by rw [k.fe, h.fe], k.sensors.trans h.sensors,
    k.ledger.trans h.ledger⟩

theorem Chip.setReg_reports (c : Chip) (page off v : Nat) : Chip.Reports c (c.setReg page off v) :=
  ⟨rfl, rfl, rfl, rfl, rfl, rfl, rfl, rfl, rfl, rfl, rfl, rfl, rfl, rfl⟩

/-- A counter gains n and nothing else changes; n = 0, or a page that does not count, changes nothing (R549). -/
theorem Chip.count_reports (c : Chip) (page i n : Nat) : Chip.Reports c (c.count page i n) := by
  unfold Chip.count
  split
  · exact .refl c
  · split
    · exact c.setReg_reports _ _ _
    · exact .refl c

theorem Chip.freeVal_reports (c : Chip) (w : Nat) : Chip.Reports c (c.freeVal w).2 :=
  ⟨rfl, rfl, rfl, rfl, rfl, rfl, rfl, rfl, rfl, rfl, rfl, rfl, rfl, rfl⟩

theorem Chip.orFree_reports (c : Chip) (w : Nat) (v : Option Nat) : Chip.Reports c (c.orFree w v).2 := by
  cases v with
  | some v => exact .refl c
  | none => exact c.freeVal_reports w

/-- A record for the Ledger's buffer. -/
theorem Chip.ledgerEv0_reports (c : Chip) (page kind : Nat) (code i0 i1 : Option Nat) :
    Chip.Reports c (c.ledgerEv0 page kind code i0 i1).1 := by
  unfold Chip.ledgerEv0
  split
  · exact c.count_reports pgCUR 5 1
  · split
    · refine .trans (c.orFree_reports 8 code) (.trans ((c.orFree 8 code).2.orFree_reports 32 i0)
        (.trans (((c.orFree 8 code).2.orFree 32 i0).2.orFree_reports 32 i1) ?_))
      exact ⟨rfl, rfl, rfl, rfl, rfl, rfl, rfl, rfl, rfl, rfl, rfl, rfl, rfl, rfl⟩
    · refine .trans (b := { c with cur.lost := c.cur.lost + 1 }) ⟨rfl, rfl, rfl, rfl, rfl, rfl, rfl, rfl, rfl, rfl, rfl, rfl, rfl, rfl⟩ ?_
      exact Chip.count_reports _ pgCUR 6 1

theorem Chip.injLink_reports (c : Chip) (page target : Nat) : Chip.Reports c (c.injLink page target).2 := by
  unfold Chip.injLink
  dsimp only
  split
  · exact .trans (Chip.setReg_reports c page 0x018 _) (Chip.count_reports _ pgFLT 7 1)
  · exact .refl c

theorem Chip.injFrame_reports (c : Chip) (page : Nat) : Chip.Reports c (c.injFrame page) :=
  .trans (c.injLink_reports page 0) (Chip.injLink_reports _ page 1)

theorem Chip.hltSend_reports (c : Chip) (p : HPkt) : Chip.Reports c (c.hltSend p) := by
  unfold Chip.hltSend
  dsimp only
  refine .trans (c.injFrame_reports pgHLT) (.trans (b := { c.injFrame pgHLT with hlt.out := (c.injFrame pgHLT).hlt.out ++ [p] }) ?_
    (.trans (Chip.count_reports _ pgHLT 2 1) (Chip.count_reports _ _ _ _)))
  exact ⟨rfl, rfl, rfl, rfl, rfl, rfl, rfl, rfl, rfl, rfl, rfl, rfl, rfl, rfl⟩

theorem Chip.irqHost_reports (c : Chip) (v : Nat) : Chip.Reports c (c.irqHost v) := by
  unfold Chip.irqHost
  split
  · exact .trans (Chip.hltSend_reports _ _) (.trans (Chip.count_reports _ pgIRQ 1 1) (Chip.count_reports _ _ _ _))
  · split
    · exact c.count_reports _ _ _
    · refine .trans (b := { c with hlt.held := c.hlt.held ++ [(v, c.time.tb.toNat % 2 ^ 48)] }) ?_ (Chip.count_reports _ _ _ _)
      exact ⟨rfl, rfl, rfl, rfl, rfl, rfl, rfl, rfl, rfl, rfl, rfl, rfl, rfl, rfl⟩

theorem Chip.irqCpx_reports (c : Chip) (v : Nat) : Chip.Reports c (c.irqCpx v) := by
  unfold Chip.irqCpx
  refine .trans (b := { c with fe.cpxIrqs := c.fe.cpxIrqs ++ [v] }) ?_ (Chip.count_reports _ _ _ _)
  exact ⟨rfl, rfl, rfl, rfl, rfl, rfl, rfl, rfl, rfl, rfl, rfl, rfl, rfl, rfl⟩

theorem Chip.attnSet_reports (c : Chip) (n : Nat) : Chip.Reports c (c.attnSet n).1 := by
  unfold Chip.attnSet
  dsimp only
  refine .trans (c.setReg_reports pgCUR 0x200 (c.reg pgCUR 0x200 ||| 2 ^ n)) ?_
  split
  · exact ⟨rfl, rfl, rfl, rfl, rfl, rfl, rfl, rfl, rfl, rfl, rfl, rfl, rfl, rfl⟩
  · exact .refl _

theorem Chip.Reports.setReg {c d : Chip} (h : Chip.Reports c d) (page off v : Nat) : Chip.Reports c (d.setReg page off v) :=
  h.trans (d.setReg_reports page off v)

theorem Chip.Reports.count {c d : Chip} (h : Chip.Reports c d) (page i n : Nat) : Chip.Reports c (d.count page i n) :=
  h.trans (d.count_reports page i n)

theorem Chip.raise0_reports (c : Chip) (v : Nat) : Chip.Reports c (c.raise0 v).1 := by
  have h0 := Chip.count_reports c pgIRQ 0 1
  unfold Chip.raise0
  split
  · exact .refl c
  · dsimp only
    split
    · dsimp only
      exact Chip.Reports.count (h0.setReg _ _ _) _ _ _
    · have h1 := (h0.setReg pgIRQ 0x2C0 (((c.count pgIRQ 0 1).time.tb.toNat % 2 ^ 48) <<< 16 + v))
      generalize (c.count pgIRQ 0 1).setReg pgIRQ 0x2C0 (((c.count pgIRQ 0 1).time.tb.toNat % 2 ^ 48) <<< 16 + v) = d at h1 ⊢
      have h2 := h1.setReg pgIRQ (0x200 + 8 * (v / 64)) (d.reg pgIRQ (0x200 + 8 * (v / 64)) ||| 2 ^ (v % 64))
      generalize d.setReg pgIRQ (0x200 + 8 * (v / 64)) (d.reg pgIRQ (0x200 + 8 * (v / 64)) ||| 2 ^ (v % 64)) = e at h2 ⊢
      dsimp only
      split <;> split
      · exact h2.trans ((e.irqHost_reports v).trans (Chip.irqCpx_reports _ v))
      · exact h2.trans (e.irqHost_reports v)
      · exact h2.trans (e.irqCpx_reports v)
      · exact h2

theorem Chip.attn_reports (c : Chip) (n : Nat) : Chip.Reports c (c.attn n) := by
  unfold Chip.attn
  dsimp only
  split
  · refine .trans (c.attnSet_reports n) (.trans (Chip.raise0_reports _ 272) ?_)
    split
    · exact Chip.attnSet_reports _ _
    · exact .refl _
  · exact c.attnSet_reports n

/-- An interrupt vector is raised (R556). -/
theorem Chip.raise_reports (c : Chip) (v : Nat) : Chip.Reports c (c.raise v) := by
  unfold Chip.raise
  dsimp only
  split
  · exact .trans (c.raise0_reports v) (Chip.attn_reports _ _)
  · exact c.raise0_reports v

theorem Chip.raiseBlk_reports (c : Chip) (page : Nat) : Chip.Reports c (c.raiseBlk page) := by
  unfold Chip.raiseBlk
  dsimp only
  refine .trans ?_ (Chip.raise_reports _ 266)
  split
  · exact c.setReg_reports _ _ _
  · exact c.setReg_reports _ _ _

theorem Chip.lossErr_reports (c : Chip) : Chip.Reports c c.lossErr := by
  unfold Chip.lossErr
  split
  · exact .refl c
  · dsimp only
    have h1 := (c.freeVal_reports 32).setReg pgCUR 0x010 ((c.freeVal 32).2.reg pgCUR 0x010 ||| 16)
    generalize (c.freeVal 32).2.setReg pgCUR 0x010 ((c.freeVal 32).2.reg pgCUR 0x010 ||| 16) = d at h1 ⊢
    have h2 : Chip.Reports c (if (c.freeVal 32).2.reg pgCUR 0x010 = 0 then (d.setReg pgCUR 0x020 (c.freeVal 32).1).setReg pgCUR 0x024 0
        else d) := by
      split
      · exact (h1.setReg _ _ _).setReg _ _ _
      · exact h1
    generalize (if (c.freeVal 32).2.reg pgCUR 0x010 = 0 then (d.setReg pgCUR 0x020 (c.freeVal 32).1).setReg pgCUR 0x024 0
      else d) = e at h2 ⊢
    have h3 : Chip.Reports c (if bit (e.reg pgCUR 0x01C) 20 = true then e.raiseBlk pgCUR else e) := by
      split
      · exact h2.trans (e.raiseBlk_reports _)
      · exact h2
    generalize (if bit (e.reg pgCUR 0x01C) 20 = true then e.raiseBlk pgCUR else e) = f at h3 ⊢
    refine h3.trans ?_
    split
    · exact .trans (b := { f with cur.lost := f.cur.lost + 1 }) ⟨rfl, rfl, rfl, rfl, rfl, rfl, rfl, rfl, rfl, rfl, rfl, rfl, rfl, rfl⟩
        (Chip.count_reports _ pgCUR 6 1)
    · exact .refl f

/-- An event for the Ledger (R449). -/
theorem Chip.ledgerEv_reports (c : Chip) (page kind : Nat) (code i0 i1 : Option Nat) :
    Chip.Reports c (c.ledgerEv page kind code i0 i1) := by
  unfold Chip.ledgerEv
  dsimp only
  split
  · exact (c.ledgerEv0_reports page kind code i0 i1).trans (.trans (Chip.lossErr_reports _) (Chip.attn_reports _ _))
  · exact c.ledgerEv0_reports page kind code i0 i1

/-- An error of a page (R525 to R527). -/
theorem Chip.err_reports (c : Chip) (page n i0 i1 : Nat) : Chip.Reports c (c.err page n i0 i1) := by
  unfold Chip.err
  split
  · exact .refl c
  · dsimp only
    have h1 := c.setReg_reports page 0x010 (c.reg page 0x010 ||| 2 ^ n)
    generalize c.setReg page 0x010 (c.reg page 0x010 ||| 2 ^ n) = d at h1 ⊢
    have h2 : Chip.Reports d (if c.reg page 0x010 = 0 then (d.setReg page 0x020 (i0 % 2 ^ 32)).setReg page 0x024 (i1 % 2 ^ 32) else d) := by
      split
      · exact .trans (d.setReg_reports _ _ _) (Chip.setReg_reports _ _ _ _)
      · exact .refl d
    generalize (if c.reg page 0x010 = 0 then (d.setReg page 0x020 (i0 % 2 ^ 32)).setReg page 0x024 (i1 % 2 ^ 32) else d) = e at h2 ⊢
    have h3 : Chip.Reports e (if bit (e.reg page 0x01C) (16 + n) = true then e.raiseBlk page else e) := by
      split
      · exact e.raiseBlk_reports page
      · exact .refl e
    generalize (if bit (e.reg page 0x01C) (16 + n) = true then e.raiseBlk page else e) = f at h3 ⊢
    refine .trans h1 (.trans h2 (.trans h3 ?_))
    split
    · exact f.ledgerEv_reports page 0 (some n) (some i0) (some i1)
    · exact .refl f

theorem Chip.badWrite_reports (c : Chip) (page : Nat) : Chip.Reports c (c.badWrite page) := by
  unfold Chip.badWrite
  dsimp only
  exact .trans (Chip.orFree_reports _ _ _) (.trans (Chip.orFree_reports _ _ _) (Chip.err_reports _ _ _ _ _))

theorem Chip.errFree_reports (c : Chip) (page n i1 : Nat) : Chip.Reports c (c.errFree page n i1) :=
  .trans (c.freeVal_reports 32) (Chip.err_reports _ _ _ _ _)

theorem Chip.badAddr_reports (c : Chip) (page addr : Nat) (w : Bool) : Chip.Reports c (c.badAddr page addr w) := c.err_reports _ _ _ _

theorem Chip.lpLink_reports (c : Chip) (s tag : Nat) : Chip.Reports c (c.lpLink s tag) := by
  unfold Chip.lpLink
  dsimp only
  split
  · exact .trans (c.injLink_reports _ _) (.trans (Chip.count_reports _ _ _ _) (Chip.err_reports _ _ _ _ _))
  · exact c.injLink_reports _ _

/-- A health change is a report (R461). -/
theorem Chip.healthGo_fz (c : Chip) : c.healthGo.fz = c.fz := by
  unfold Chip.healthGo
  dsimp only
  split
  · rfl
  · rw [(Chip.attn_reports _ 0).fz, (Chip.ledgerEv_reports _ _ _ _ _ _).fz]
    rfl

/-! ## Injections (R538 to R541) -/

/-- A counter's gain changes registers only. -/
theorem Chip.count_regs (c : Chip) (page i n : Nat) : ∃ r, c.count page i n = { c with regs := r } := by
  unfold Chip.count
  split
  · exact ⟨c.regs, rfl⟩
  · split
    · exact ⟨_, rfl⟩
    · exact ⟨c.regs, rfl⟩

@[simp] theorem Chip.count_fz (c : Chip) (page i n : Nat) : (c.count page i n).fz = c.fz := by
  obtain ⟨r, h⟩ := c.count_regs page i n; rw [h]
@[simp] theorem Chip.count_time (c : Chip) (page i n : Nat) : (c.count page i n).time = c.time := by
  obtain ⟨r, h⟩ := c.count_regs page i n; rw [h]
@[simp] theorem Chip.count_pwr (c : Chip) (page i n : Nat) : (c.count page i n).pwr = c.pwr := by
  obtain ⟨r, h⟩ := c.count_regs page i n; rw [h]
@[simp] theorem Chip.count_flt (c : Chip) (page i n : Nat) : (c.count page i n).flt = c.flt := by
  obtain ⟨r, h⟩ := c.count_regs page i n; rw [h]
@[simp] theorem Chip.count_sec (c : Chip) (page i n : Nat) : (c.count page i n).sec = c.sec := by
  obtain ⟨r, h⟩ := c.count_regs page i n; rw [h]
@[simp] theorem Chip.count_cur (c : Chip) (page i n : Nat) : (c.count page i n).cur = c.cur := by
  obtain ⟨r, h⟩ := c.count_regs page i n; rw [h]
@[simp] theorem Chip.count_hlt (c : Chip) (page i n : Nat) : (c.count page i n).hlt = c.hlt := by
  obtain ⟨r, h⟩ := c.count_regs page i n; rw [h]
@[simp] theorem Chip.count_fe (c : Chip) (page i n : Nat) : (c.count page i n).fe = c.fe := by
  obtain ⟨r, h⟩ := c.count_regs page i n; rw [h]
@[simp] theorem Chip.count_hom (c : Chip) (page i n : Nat) : (c.count page i n).hom = c.hom := by
  obtain ⟨r, h⟩ := c.count_regs page i n; rw [h]
@[simp] theorem Chip.count_bm (c : Chip) (page i n : Nat) : (c.count page i n).bm = c.bm := by
  obtain ⟨r, h⟩ := c.count_regs page i n; rw [h]
@[simp] theorem Chip.count_core (c : Chip) (page i n : Nat) : (c.count page i n).core = c.core := by
  obtain ⟨r, h⟩ := c.count_regs page i n; rw [h]
@[simp] theorem Chip.count_rd (c : Chip) (page i n : Nat) : (c.count page i n).rd = c.rd := by
  obtain ⟨r, h⟩ := c.count_regs page i n; rw [h]
@[simp] theorem Chip.count_fab (c : Chip) (page i n : Nat) : (c.count page i n).fab = c.fab := by
  obtain ⟨r, h⟩ := c.count_regs page i n; rw [h]
@[simp] theorem Chip.count_col (c : Chip) (page i n : Nat) : (c.count page i n).col = c.col := by
  obtain ⟨r, h⟩ := c.count_regs page i n; rw [h]

/-! A word written: only registers and the placed faults change (R539). -/

/-- An armed fault is placed, or nothing happens. -/
theorem Chip.injWA_only (c : Chip) (page target at_ : Nat) :
    ∃ r p, c.injWA page target at_ = { c with regs := r, flt := { c.flt with placed := p } } := by
  unfold Chip.injWA
  dsimp only
  split
  · generalize c.reg page 0x018 = v
    generalize setBits v 31 31 0 = w
    generalize (0x018 : Nat) = off
    generalize hd : c.setReg page off w = d
    have hd' : d = { c with regs := d.regs } := by rw [← hd]; unfold Chip.setReg; rfl
    generalize Placed.mk page target (bits v 30 29) (bits v 19 15) at_ = x
    obtain ⟨r, h⟩ := Chip.count_regs { d with flt.placed := c.flt.placed ++ [x] } pgFLT 7 1
    rw [h, hd']
    exact ⟨r, _, rfl⟩
  · exact ⟨c.regs, c.flt.placed, rfl⟩

/-- No uncorrectable error is found by a write. -/
@[simp] theorem Chip.injWA_due (c : Chip) (page target at_ : Nat) : (c.injWA page target at_).flt.due = c.flt.due := by
  obtain ⟨r, p, h⟩ := c.injWA_only page target at_; rw [h]
@[simp] theorem Chip.injW_due (c : Chip) (page target : Nat) : (c.injW page target).flt.due = c.flt.due := c.injWA_due _ _ _
@[simp] theorem Chip.injWA_fz (c : Chip) (page target at_ : Nat) : (c.injWA page target at_).fz = c.fz := by
  obtain ⟨r, p, h⟩ := c.injWA_only page target at_; rw [h]
@[simp] theorem Chip.injW_fz (c : Chip) (page target : Nat) : (c.injW page target).fz = c.fz := c.injWA_fz _ _ _
@[simp] theorem Chip.injWA_time (c : Chip) (page target at_ : Nat) : (c.injWA page target at_).time = c.time := by
  obtain ⟨r, p, h⟩ := c.injWA_only page target at_; rw [h]
@[simp] theorem Chip.injW_time (c : Chip) (page target : Nat) : (c.injW page target).time = c.time := c.injWA_time _ _ _
@[simp] theorem Chip.injWA_pwr (c : Chip) (page target at_ : Nat) : (c.injWA page target at_).pwr = c.pwr := by
  obtain ⟨r, p, h⟩ := c.injWA_only page target at_; rw [h]
@[simp] theorem Chip.injW_pwr (c : Chip) (page target : Nat) : (c.injW page target).pwr = c.pwr := c.injWA_pwr _ _ _
@[simp] theorem Chip.injWA_sec (c : Chip) (page target at_ : Nat) : (c.injWA page target at_).sec = c.sec := by
  obtain ⟨r, p, h⟩ := c.injWA_only page target at_; rw [h]
@[simp] theorem Chip.injW_sec (c : Chip) (page target : Nat) : (c.injW page target).sec = c.sec := c.injWA_sec _ _ _
@[simp] theorem Chip.injWA_cur (c : Chip) (page target at_ : Nat) : (c.injWA page target at_).cur = c.cur := by
  obtain ⟨r, p, h⟩ := c.injWA_only page target at_; rw [h]
@[simp] theorem Chip.injW_cur (c : Chip) (page target : Nat) : (c.injW page target).cur = c.cur := c.injWA_cur _ _ _
@[simp] theorem Chip.injWA_hlt (c : Chip) (page target at_ : Nat) : (c.injWA page target at_).hlt = c.hlt := by
  obtain ⟨r, p, h⟩ := c.injWA_only page target at_; rw [h]
@[simp] theorem Chip.injW_hlt (c : Chip) (page target : Nat) : (c.injW page target).hlt = c.hlt := c.injWA_hlt _ _ _
@[simp] theorem Chip.injWA_fe (c : Chip) (page target at_ : Nat) : (c.injWA page target at_).fe = c.fe := by
  obtain ⟨r, p, h⟩ := c.injWA_only page target at_; rw [h]
@[simp] theorem Chip.injW_fe (c : Chip) (page target : Nat) : (c.injW page target).fe = c.fe := c.injWA_fe _ _ _
@[simp] theorem Chip.injWA_hom (c : Chip) (page target at_ : Nat) : (c.injWA page target at_).hom = c.hom := by
  obtain ⟨r, p, h⟩ := c.injWA_only page target at_; rw [h]
@[simp] theorem Chip.injW_hom (c : Chip) (page target : Nat) : (c.injW page target).hom = c.hom := c.injWA_hom _ _ _
@[simp] theorem Chip.injWA_bm (c : Chip) (page target at_ : Nat) : (c.injWA page target at_).bm = c.bm := by
  obtain ⟨r, p, h⟩ := c.injWA_only page target at_; rw [h]
@[simp] theorem Chip.injW_bm (c : Chip) (page target : Nat) : (c.injW page target).bm = c.bm := c.injWA_bm _ _ _
@[simp] theorem Chip.injWA_core (c : Chip) (page target at_ : Nat) : (c.injWA page target at_).core = c.core := by
  obtain ⟨r, p, h⟩ := c.injWA_only page target at_; rw [h]
@[simp] theorem Chip.injW_core (c : Chip) (page target : Nat) : (c.injW page target).core = c.core := c.injWA_core _ _ _
@[simp] theorem Chip.injWA_rd (c : Chip) (page target at_ : Nat) : (c.injWA page target at_).rd = c.rd := by
  obtain ⟨r, p, h⟩ := c.injWA_only page target at_; rw [h]
@[simp] theorem Chip.injW_rd (c : Chip) (page target : Nat) : (c.injW page target).rd = c.rd := c.injWA_rd _ _ _
@[simp] theorem Chip.injWA_fab (c : Chip) (page target at_ : Nat) : (c.injWA page target at_).fab = c.fab := by
  obtain ⟨r, p, h⟩ := c.injWA_only page target at_; rw [h]
@[simp] theorem Chip.injW_fab (c : Chip) (page target : Nat) : (c.injW page target).fab = c.fab := c.injWA_fab _ _ _
@[simp] theorem Chip.injWA_col (c : Chip) (page target at_ : Nat) : (c.injWA page target at_).col = c.col := by
  obtain ⟨r, p, h⟩ := c.injWA_only page target at_; rw [h]
@[simp] theorem Chip.injW_col (c : Chip) (page target : Nat) : (c.injW page target).col = c.col := c.injWA_col _ _ _

/-! A read where no fault is placed finds none (R538). -/

theorem Chip.faultsIn_nil (c : Chip) (page target lo n : Nat) (h : c.flt.placed = []) : c.faultsIn page target lo n = [] := by
  simp [Chip.faultsIn, h]
theorem Chip.injRW_nil (c : Chip) (page target e0 e1 i0 i1 : Nat) (h : c.flt.placed = []) :
    c.injRW page target e0 e1 i0 i1 = (c, false) := by
  simp [Chip.injRW, h]
theorem Chip.injR_nil (c : Chip) (page target i0 i1 : Nat) (h : c.flt.placed = []) : c.injR page target i0 i1 = (c, false) :=
  c.injRW_nil _ _ _ _ _ _ h
theorem Chip.injRF_nil (c : Chip) (page target i1 : Nat) (h : c.flt.placed = []) : c.injRF page target i1 = (c, false) := by
  simp [Chip.injRF, h]

/-- Where no fault is placed, a word written whole changes nothing. -/
theorem Chip.rewritten_nil (c : Chip) (page target lo n : Nat) (h : c.flt.placed = []) : c.rewritten page target lo n = c := by
  unfold Chip.rewritten
  have : c.flt.placed.filter (fun p => !(decide (p.page = page) && decide (p.target = target) && decide (lo ≤ p.at_) &&
      decide (p.at_ + 4 ≤ lo + n))) = c.flt.placed := by rw [h]; rfl
  rw [this]

end Sys2Proof.Machine
end

