-- ==== Sys2Proof/Laws/Lift.lean ====
section
/-!
SUPPORT. What the lifts keep: of fences, fuses and floors first, then of everything that an action, a waiting frame or a waiting
packet can set off; and that every command that is not a reading outside the ratings answers.
-/

namespace Sys2Proof.Machine

/-! ## Floors (R466, R467) -/

theorem floorsUp_length (a b : List Nat) : (floorsUp a b).length = 5 := by simp [floorsUp]

theorem floorsUp_le (a b : List Nat) : ∀ f ∈ floorsUp a b, f ≤ 64 := by
  intro f hf
  simp only [floorsUp, List.mem_map, List.mem_range] at hf
  obtain ⟨i, -, rfl⟩ := hf
  omega

theorem floorsUp_getD (a b : List Nat) (i : Nat) (h : i < 5) :
    (floorsUp a b).getD i 0 = max (min 64 (a.getD i 0)) (min 64 (b.getD i 0)) := by
  simp [floorsUp, List.getD, List.getElem?_map, List.getElem?_range h]

theorem Fz.floorsHold_le {z : Fz} (h : z.floorsHold) (i : Nat) : z.floors.getD i 0 ≤ 64 := by
  rcases lt_or_ge i z.floors.length with hi | hi
  · simp only [List.getD, List.getElem?_eq_getElem hi, Option.getD_some]
    exact h.2 _ (List.getElem_mem hi)
  · simp [List.getD, List.getElem?_eq_none hi]

/-! ## The order of reach -/

theorem Fz.fencesIn.refl (z : Fz) : z.fencesIn z := ⟨fun _ h => h, fun _ h => h⟩
theorem Fz.fusesIn.refl (z : Fz) : z.fusesIn z := ⟨fun _ h => h, fun _ h => h, fun _ h => h, fun _ h => h⟩
theorem Fz.floorsIn.refl (z : Fz) : z.floorsIn z := fun _ _ => le_refl _

theorem Fz.fencesIn.trans {x y z : Fz} (h : x.fencesIn y) (k : y.fencesIn z) : x.fencesIn z :=
  ⟨fun n e => k.1 n (h.1 n e), fun n e => k.2 n (h.2 n e)⟩
theorem Fz.fusesIn.trans {x y z : Fz} (h : x.fusesIn y) (k : y.fusesIn z) : x.fusesIn z :=
  ⟨fun n e => k.1 n (h.1 n e), fun n e => k.2.1 n (h.2.1 n e), fun n e => k.2.2.1 n (h.2.2.1 n e), fun n e => k.2.2.2 n (h.2.2.2 n e)⟩
theorem Fz.floorsIn.trans {x y z : Fz} (h : x.floorsIn y) (k : y.floorsIn z) : x.floorsIn z :=
  fun i e => (h i e).trans (k i e)

theorem Fz.sameFences.refl (z : Fz) : z.sameFences z := ⟨rfl, rfl, rfl, rfl, rfl, rfl⟩

theorem Fz.sameFences.fencesIn {z w : Fz} (h : z.sameFences w) : z.fencesIn w := by
  obtain ⟨a, b, -⟩ := h
  simp [Fz.fencesIn, a, b]

theorem Fz.sameFences.fusesIn {z w : Fz} (h : z.sameFences w) : z.fusesIn w := by
  obtain ⟨-, -, a, b, c, d⟩ := h
  simp [Fz.fusesIn, a, b, c, d]

theorem Reach.grown_refl (c : Chip) : Reach.grown.keeps c c := ⟨.refl _, .refl _, fun h => ⟨.refl _, h⟩⟩

theorem Reach.grown_trans {a b c : Chip} (h : Reach.grown.keeps a b) (k : Reach.grown.keeps b c) : Reach.grown.keeps a c :=
  ⟨h.1.trans k.1, h.2.1.trans k.2.1, fun e => ⟨(h.2.2 e).1.trans (k.2.2 (h.2.2 e).2).1, (k.2.2 (h.2.2 e).2).2⟩⟩

theorem Reach.kept_grown {c d : Chip} (h : Reach.kept.keeps c d) : Reach.grown.keeps c d :=
  ⟨h.1.fencesIn, h.1.fusesIn, h.2⟩

theorem Reach.unit_kept {c d : Chip} (h : d.fz = c.fz) : Reach.kept.keeps c d := by
  refine ⟨?_, fun e => ?_⟩
  · rw [h]; exact .refl _
  · rw [h]; exact ⟨.refl _, e⟩

/-! ## The lifts -/

theorem keepFz_kept (c d : Chip) : Reach.kept.keeps c (keepFz c d) := Reach.unit_kept rfl

theorem keepFences_kept (c d : Chip) : Reach.kept.keeps c (keepFences c d) := by
  refine ⟨⟨rfl, rfl, rfl, rfl, rfl, rfl⟩, fun e => ⟨fun i hi => ?_, floorsUp_length _ _, floorsUp_le _ _⟩⟩
  have := Fz.floorsHold_le e i
  show _ ≤ (floorsUp c.fz.floors d.fz.floors).getD i 0
  rw [floorsUp_getD _ _ _ hi]
  omega

theorem addFences_grown (c : Chip) (x : BitVec 512) (y : BitVec 64) (d : Chip) : Reach.grown.keeps c (addFences c x y d) := by
  refine ⟨⟨fun n e => ?_, fun n e => ?_⟩, ⟨fun _ e => e, fun _ e => e, fun _ e => e, fun _ e => e⟩, fun e => ⟨fun _ _ => le_refl _, e⟩⟩
  · show (c.fz.coreFence ||| x).getLsbD n = true
    simp [e]
  · show (c.fz.clFence ||| y).getLsbD n = true
    simp [e]

theorem Reach.grown_of_fz {a b c : Chip} (h : Reach.grown.keeps a b) (k : c.fz = b.fz) : Reach.grown.keeps a c :=
  Reach.grown_trans h (Reach.kept_grown (Reach.unit_kept k))

@[simp] theorem Chip.ctxRefresh_fz (c : Chip) : c.ctxRefresh.fz = c.fz := rfl
@[simp] theorem Chip.ctxRefresh_time (c : Chip) : c.ctxRefresh.time = c.time := rfl

/-! ## Consequences of errors (R522, R528, R532) -/

/-- The consequence of an error adds fences at most. -/
theorem Chip.dueAct_grown (c : Chip) (d : Due) : Reach.grown.keeps c (c.dueAct d) := by
  unfold Chip.dueAct
  split
  · exact addFences_grown _ _ _ _
  · exact addFences_grown _ _ _ _
  · exact Reach.kept_grown (keepFz_kept _ _)

theorem Chip.dueGo_grown (f : Nat) : ∀ c : Chip, Reach.grown.keeps c (c.dueGo f) := by
  induction f with
  | zero => exact fun c => Reach.grown_refl c
  | succ f ih =>
    intro c
    unfold Chip.dueGo
    split
    · exact Reach.grown_refl c
    next d _ =>
      have h0 : Reach.grown.keeps c ({ c with flt.due := c.flt.due.erase d } : Chip) :=
        Reach.grown_of_fz (Reach.grown_refl c) rfl
      exact Reach.grown_trans (Reach.grown_trans h0 (Chip.dueAct_grown _ d)) (ih _)

/-- With no new error found nothing follows. -/
theorem Chip.faultsGo_same {c d : Chip} (h : d.flt.due = c.flt.due) : c.faultsGo d = d := by
  unfold Chip.faultsGo; rw [if_pos h]

theorem Chip.faultsGo_grown (c d : Chip) : Reach.grown.keeps d (c.faultsGo d) := by
  unfold Chip.faultsGo
  split
  · exact Reach.grown_refl d
  · have h := Chip.dueGo_grown 1024 d
    generalize d.dueGo 1024 = e at h ⊢
    exact Reach.grown_of_fz h (Chip.healthGo_fz _)

theorem Reach.leads_of {r : Reach} {c e : Chip} (h : r.keeps c e) : r.leads c (c.faultsGo e) :=
  ⟨e, h, rfl, Chip.faultsGo_same⟩

/-! ## Actions -/

theorem Chip.resetAsked_grown (c : Chip) (l : Level) (cause : Nat) : Reach.grown.keeps c (c.resetAsked l cause) := by
  unfold Chip.resetAsked
  dsimp only
  exact Reach.grown_of_fz (Reach.kept_grown (keepFences_kept _ _)) (Chip.healthGo_fz _)

/-- An action leaves no fence, blows no fuse back and lowers no floor. -/
theorem Chip.act_grown (c : Chip) (a : Act) : Reach.grown.keeps c (c.act a) := by
  unfold Chip.act
  split
  · exact Reach.grown_refl c
  · exact c.resetAsked_grown _ _
  · exact Reach.kept_grown (keepFz_kept _ _)
  · exact Reach.kept_grown (keepFz_kept _ _)
  · exact Reach.kept_grown (keepFences_kept _ _)
  · exact Reach.kept_grown (keepFz_kept _ _)
  · exact Reach.kept_grown (keepFz_kept _ _)
  · split
    · exact Reach.grown_of_fz (addFences_grown _ _ _ _) (Chip.healthGo_fz _)
    · exact Reach.grown_refl c
  · split
    · exact Reach.grown_of_fz (addFences_grown _ _ _ _) (Chip.healthGo_fz _)
    · exact Reach.grown_refl c
  · exact Reach.kept_grown (keepFences_kept _ _)

theorem Chip.acts_grown (f : Nat) : ∀ (c : Chip) (a : Act), Reach.grown.keeps c (c.acts a f) := by
  induction f with
  | zero => exact fun c a => c.act_grown a
  | succ f ih =>
    intro c a
    unfold Chip.acts
    dsimp only
    have h1 := c.act_grown a
    generalize c.act a = d at h1 ⊢
    have h2 := Reach.grown_trans h1 (Reach.kept_grown (keepFences_kept d (d.framesGo (d.cur.frameQ.length + 1)).1))
    generalize keepFences d (d.framesGo (d.cur.frameQ.length + 1)).1 = e at h2 ⊢
    split
    · have h3 := Reach.grown_trans h2 (Reach.kept_grown (keepFz_kept e e.hltPump.1))
      generalize keepFz e e.hltPump.1 = g at h3 ⊢
      split
      · exact h3
      · exact Reach.grown_trans h3 (ih _ _)
    · exact Reach.grown_trans h2 (ih _ _)

theorem Chip.actsGo_grown (c : Chip) (a : Act) : Reach.grown.keeps c (c.actsGo a) := Chip.acts_grown _ _ _

/-! ## Time, fences read from fuses, fuses -/

@[simp] theorem Chip.pass_fz (c : Chip) (n : Nat) : (c.pass n).fz = c.fz := by
  rfl

@[simp] theorem Chip.passTo_fz (c : Chip) (t : Nat) : (c.passTo t).fz = c.fz := by
  unfold Chip.passTo; split
  · exact c.pass_fz _
  · rfl

/-- The bit of one unit. -/
theorem getLsbD_unit (w k m : Nat) (hk : k < w) : (BitVec.ofNat w (2 ^ k)).getLsbD m = decide (m = k) := by
  rw [BitVec.getLsbD_ofNat, Nat.testBit_two_pow]
  by_cases h : m = k
  · simp [h, hk]
  · have : k ≠ m := fun e => h e.symm
    simp [h, this]

/-- The bits of a cluster's eight cores. -/
theorem getLsbD_cores (k m : Nat) (hk : k < 64) : (BitVec.ofNat 512 (255 * 2 ^ (8 * k))).getLsbD m = decide (m / 8 = k) := by
  rw [BitVec.getLsbD_ofNat, mul_comm, Nat.testBit_two_pow_mul]
  have : (255 : Nat).testBit (m - 8 * k) = decide (m - 8 * k < 8) := by
    have := Nat.testBit_two_pow_sub_one 8 (m - 8 * k)
    simpa using this
  rw [this]
  by_cases h : m / 8 = k
  · simp [h]; omega
  · simp [h]; omega

theorem Chip.fencesLoaded_grown (c : Chip) : Reach.grown.keeps c c.fencesLoaded := by
  refine ⟨⟨fun n e => ?_, fun n e => ?_⟩, ⟨fun _ e => e, fun _ e => e, fun _ e => e, fun _ e => e⟩, fun e => ⟨fun _ _ => le_refl _, e⟩⟩
  · simp only [Chip.fencesLoaded]
    simp [e]
  · simp only [Chip.fencesLoaded]
    simp [e]

/-- FENCE_FUSE changes nothing of what no reset clears, or only the fuses of its unit. -/
theorem Chip.fenceFuse_fz (c : Chip) (cl : Bool) (u : Nat) (okA okB : Bool) : (c.fenceFuse cl u okA okB).fz = c.fz ∨
    ∃ a b : BitVec 512, (∀ m, (a ||| b).getLsbD m = true → m = u) ∧ (c.fenceFuse cl u okA okB).fz =
      if cl then { c.fz with clFuseA := c.fz.clFuseA ||| a.setWidth 64, clFuseB := c.fz.clFuseB ||| b.setWidth 64 }
      else { c.fz with coreFuseA := c.fz.coreFuseA ||| a, coreFuseB := c.fz.coreFuseB ||| b } := by
  unfold Chip.fenceFuse
  split
  · exact .inl rfl
  · refine .inr ⟨BitVec.ofNat 512 (if okA then 2 ^ u else 0), BitVec.ofNat 512 (if !okA && okB then 2 ^ u else 0), ?_, ?_⟩
    · intro m hm
      simp only [BitVec.getLsbD_or, BitVec.getLsbD_ofNat, Bool.or_eq_true, Bool.and_eq_true, decide_eq_true_eq] at hm
      rcases hm with ⟨-, hm⟩ | ⟨-, hm⟩ <;> split at hm <;>
        first | (rw [Nat.testBit_two_pow] at hm; simp at hm; exact hm.symm) | (simp at hm)
    · dsimp only
      split
      · rw [Chip.count_fz]; cases cl <;> rfl
      · rw [(Chip.errFree_reports _ _ _ _).fz, Chip.count_fz]; cases cl <;> rfl

end Sys2Proof.Machine
end

