-- ==== Sys2Proof/WellFormed.lean ====
section
/-!
DEFINITION. Well-formed commands: an engine operation's slot spells the row's operation, a packet's payload has its header's
length, a narrow register write carries 32 bits, and so on.
-/

namespace Sys2Proof

/-- A field of a number. -/
def wfBits (v hi lo : Nat) : Nat := v / 2 ^ lo % 2 ^ (hi + 1 - lo)

/-- An engine slot whose field holds the row's operation (R209, R212, R213, R216, R217). -/
def wfSlot (slot : BitVec 64) (hi lo op : Nat) : Bool := decide (wfBits slot.toNat hi lo = op)

/-- A Caind packet of a CLASS: payload of LENGTH bytes (R365, R366). -/
def Pkt.wf (p : Pkt) (cls : Nat) : Bool :=
  (decide (wfBits p.hdr.toNat 45 42 = cls) || (decide (cls = 0) && decide (8 < wfBits p.hdr.toNat 45 42))) &&
    decide (p.data.length = wfBits p.hdr.toNat 78 67)

/-- A Halter packet: a WRITE carries LENGTH bytes, any other packet from the host none (R439). -/
def HostPkt.wf (p : HostPkt) : Bool :=
  decide (p.data.length = if wfBits p.hdr.toNat 127 124 = 0 then wfBits p.hdr.toNat 123 112 else 0)

/-- Arguments of a frame: what its path's transfer holds beside CODE, LEN and the CRC (R450, R451). -/
def FramePath.wf (p : FramePath) (args : List (BitVec 8)) : Bool :=
  match p with
  | .i3c => decide (args.length ≤ 250)
  | .host addr => decide (args.length ≤ 250) && decide (addr.toNat % 256 = 0)
  | .mgmt _ hdr => decide (args.length ≤ 255) && decide (wfBits hdr.toNat 45 42 = 8) && decide (args.length + 6 ≤ wfBits hdr.toNat 78 67)

/-- A core or a cluster. -/
def wfUnit (cl : Bool) (u : Nat) : Bool := !cl || decide (u < 64)

/-- Credits of the five channels (R379). -/
def wfCredits (l : List (BitVec 16)) : Bool := decide (l.length = 5)

/-- Well-formed commands. -/
def Instr.wf : Instr → Bool
  | .dbTail _ v wide => wide || decide (v.toNat < 2 ^ 32)
  | .registerWrite _ _ _ wide v => wide || decide (v.toNat < 2 ^ 32)
  | .stepOp _ slot => wfSlot slot 63 60 0
  | .veAdd _ slot => wfSlot slot 63 58 0
  | .veSub _ slot => wfSlot slot 63 58 1
  | .veMul _ slot => wfSlot slot 63 58 2
  | .veFma _ slot => wfSlot slot 63 58 3
  | .veMin _ slot => wfSlot slot 63 58 4
  | .veMax _ slot => wfSlot slot 63 58 5
  | .veCmplt _ slot => wfSlot slot 63 58 6
  | .veSelect _ slot => wfSlot slot 63 58 7
  | .veMov _ slot => wfSlot slot 63 58 8
  | .veAct _ slot => wfSlot slot 63 58 9
  | .veRsum _ slot => wfSlot slot 63 58 10
  | .veRmax _ slot => wfSlot slot 63 58 11
  | .veRmin _ slot => wfSlot slot 63 58 12
  | .veArgmax _ slot => wfSlot slot 63 58 13
  | .veLsum _ slot => wfSlot slot 63 58 14
  | .veWiden _ slot => wfSlot slot 63 58 15
  | .veNarrow _ slot => wfSlot slot 63 58 16
  | .vePack _ slot => wfSlot slot 63 58 17
  | .spstep _ slot => wfSlot slot 63 60 0
  | .probe _ slot => wfSlot slot 63 60 1
  | .joinOp _ slot => wfSlot slot 63 60 2
  | .maskOp _ slot => wfSlot slot 63 60 3
  | .ldeLinear _ slot => wfSlot slot 63 61 0
  | .ldeStrided _ slot => wfSlot slot 63 61 1
  | .ldeIndexed _ slot => wfSlot slot 63 61 2
  | .ldeRuns _ slot => wfSlot slot 63 61 3
  | .steLinear _ slot => wfSlot slot 63 61 0
  | .steStrided _ slot => wfSlot slot 63 61 1
  | .steIndexed _ slot => wfSlot slot 63 61 2
  | .scuNop _ slot => wfSlot slot 63 60 0
  | .scuSet _ slot => wfSlot slot 63 60 1
  | .scuAdd _ slot => wfSlot slot 63 60 2
  | .scuSub _ slot => wfSlot slot 63 60 3
  | .ldp _ slot => wfSlot slot 63 60 4
  | .arm _ slot => wfSlot slot 63 60 5
  | .setk _ slot => wfSlot slot 63 60 6
  | .noticeWrite _ _ addr data => decide (data.length ≤ 2048) && decide (data.length % 4 = 0) && decide (addr.toNat % 4 = 0)
  | .caindWrite _ p => p.wf 0
  | .caindReturn _ p => p.wf 1
  | .caindPost _ p => p.wf 2
  | .caindRead _ p => p.wf 3
  | .caindReadData _ p => p.wf 4
  | .caindAck _ p => p.wf 5
  | .caindColl _ p => p.wf 6
  | .caindNotice _ p => p.wf 7
  | .forward _ p => decide (p.data.length = wfBits p.hdr.toNat 78 67)
  | .frame _ f => wfCredits f.credits
  | .portTrained _ peer => wfCredits peer.credits
  | .halterWrite p => p.wf && decide (wfBits p.hdr.toNat 127 124 = 0)
  | .halterRead p => p.wf && decide (wfBits p.hdr.toNat 127 124 = 1)
  | .halterMalformed p => p.wf
  | .identify p a _ => p.wf a
  | .health p a _ => p.wf a
  | .sensor p a _ => p.wf a
  | .ledger p a _ => p.wf a
  | .regRead p a _ => p.wf a
  | .regWrite p a _ => p.wf a
  | .snapshot p a _ => p.wf a
  | .time p a _ => p.wf a
  | .fwStage p a _ => p.wf a
  | .fwStart p a _ => p.wf a
  | .fwStatus p a _ => p.wf a
  | .resetFrame p a _ => p.wf a
  | .fenceFuse cl u _ _ => wfUnit cl u
  | .resetDone cl u => wfUnit cl u
  | _ => true

end Sys2Proof
end

