-- ==== Sys2Proof/Tests/Slice0.lean ====
section
/-!
SUPPORT. Tests: each well-formedness check refuses an ill-formed command; a concrete state and operands meet the hypotheses of
each statement; and small cases of single commands, with results from the spec's tables and worked cases.
-/

open Sys2Proof Sys2Proof.Machine

namespace Sys2Proof.Tests

/-! ## Helpers -/

/-- The state after reset with another part. -/
def on (c : Chip) : State := { chip := c, pending := [] }
/-- The part after reset. -/
def r0 : Chip := State.reset.chip
/-- The part after reset with every cluster awake. -/
def awake : Chip := { r0 with pwr.gated := 0 }
/-- Core n running. -/
def running (n : Nat) : Chip := r0.setCore n { coreInit with st := 2 }
/-- What a predicate says of a command's next part; false where it stops. -/
def after (i : Instr) (s : State) (p : Chip → Bool) : Bool :=
  match exec i s with
  | .next t => p t.chip
  | _ => false

/-! ## Ill-formed commands are refused -/

theorem test_wf_dbTail : (Instr.dbTail 0 0x100000000 false).wf = false := by decide
theorem test_wf_registerWrite : (Instr.registerWrite .host 0 0 false 0x100000000).wf = false := by decide
theorem test_wf_stepOp : (Instr.stepOp 0 0x1000000000000000).wf = false := by decide
theorem test_wf_ve : (Instr.veAdd 0 0x0400000000000000).wf = false ∧ (Instr.veSub 0 0).wf = false ∧ (Instr.vePack 0 0).wf = false := by decide
theorem test_wf_siu : (Instr.spstep 0 0x1000000000000000).wf = false ∧ (Instr.probe 0 0).wf = false ∧ (Instr.maskOp 0 0).wf = false := by decide
theorem test_wf_lde : (Instr.ldeLinear 0 0x2000000000000000).wf = false ∧ (Instr.ldeRuns 0 0).wf = false ∧ (Instr.steIndexed 0 0).wf = false := by decide
theorem test_wf_scu : (Instr.scuNop 0 0x1000000000000000).wf = false ∧ (Instr.setk 0 0).wf = false := by decide
theorem test_wf_noticeWrite : (Instr.noticeWrite 0 0 2 []).wf = false ∧ (Instr.noticeWrite 0 0 0 [0]).wf = false := by decide
theorem test_wf_caind_class : (Instr.caindWrite 0 ⟨1 <<< 42, []⟩).wf = false ∧ (Instr.caindNotice 0 ⟨0, []⟩).wf = false := by decide
theorem test_wf_caind_length : (Instr.caindWrite 0 ⟨0, [0]⟩).wf = false ∧ (Instr.forward 0 ⟨0, [0]⟩).wf = false := by decide
theorem test_wf_credits : (Instr.frame .halter ⟨0, true, true, 0, 0, []⟩).wf = false ∧
    (Instr.portTrained 0 ⟨0, true, 0, 0, false, 0, 0, []⟩).wf = false := by decide
theorem test_wf_halter : (Instr.halterWrite ⟨0, [0]⟩).wf = false ∧ (Instr.halterRead ⟨0, []⟩).wf = false := by decide
theorem test_wf_frame_path : (Instr.identify (.host 1) [] 0).wf = false ∧ (Instr.time .i3c (List.replicate 251 0) 0).wf = false := by
  decide +kernel
theorem test_wf_unit : (Instr.fenceFuse true 64 true true).wf = false ∧ (Instr.resetDone true 64).wf = false := by decide
theorem test_wf_good : (Instr.veSub 0 0x0400000000000000).wf = true ∧ (Instr.fenceFuse true 63 true true).wf = true ∧
    (Instr.caindReturn 0 ⟨1 <<< 42, []⟩).wf = true := by decide

/-! ## Witnesses: a state and operands that meet each statement's hypotheses -/

theorem test_w_StepRunsFront : ({ State.reset with pending := [.issue] } : State).pending = [Instr.issue] := by decide
theorem test_w_IdleStep : State.reset.pending = [] := by decide
theorem test_w_ResetRegisters : 0xFFF < 4096 ∧ 0x1 * 4096 + 0xFFF ∉ bootRegs.map Prod.fst ∧ 0 * 4096 + 0 ∉ bootRegs.map Prod.fst := by decide
theorem test_w_FuseInv : State.reset.FuseInv := by
  refine ⟨fun k _ h => ?_, ⟨fun n _ h => ?_, fun k _ h => ?_⟩, ?_, ?_⟩
  · simp [State.reset, Chip.reset, Chip.off, Fz.reset] at h
  · simp [State.reset, Chip.reset, Chip.off, Fz.reset] at h
  · simp [State.reset, Chip.reset, Chip.off, Fz.reset] at h
  · decide
  · decide
theorem test_w_step : step State.reset = .next State.reset.idle ∧ (∀ rest, State.reset.pending ≠ .aux12Loss :: rest) := by
  refine ⟨rfl, fun rest h => ?_⟩
  simp [State.reset] at h
theorem test_w_Ratings : outsideRatings 0 1000 = false ∧ outsideRatings 0 1001 = true ∧ outsideRatings 64 65000 = false ∧
    outsideRatings 64 (-501) = true ∧ outsideRatings 333 31622 = false ∧ outsideRatings 333 31623 = true := by decide
theorem test_w_dieOn : State.reset.dieOn = true ∧ State.reset.chip.pwr.aux12 = true ∧ (on Chip.off).dieOn = false := by decide
theorem test_w_pages : r0.pageLive (cmdqPage 0) = true ∧ r0.pageLive (cmdqPage 263) = true ∧ r0.pageLive pgFE = true ∧
    r0.pageLive pgCPX = true ∧ r0.pageLive pgCFB = true ∧ r0.pageLive pgHLT = true ∧ r0.pageLive pgIRQ = true ∧
    r0.pageLive pgTBS = true ∧ r0.pageLive pgFLT = true := by decide
theorem test_w_cluster_pages : r0.pageLive (pgVIT 0) = true ∧ r0.pageLive (pgVIT 63) = true ∧ r0.pageLive (pgBPM 63) = true ∧
    r0.pageLive (pgMBX 63) = true ∧ r0.pageLive (pgCPT 15) = true := by decide
theorem test_w_reach : reachOf (.veAdd 0 0) = .engine ∧ reachOf (.cntSet 0 0) = .die ∧ reachOf (.vitClear 0) = .unit ∧
    reachOf .ledgerWrite = .kept ∧ reachOf (.fenceCore 0) = .grown ∧ reachOf (.frame (.caind 0) ⟨0, true, true, 0, 0, []⟩) = .die ∧
    reachOf (.frame .halter ⟨0, true, true, 0, 0, []⟩) = .unit := by decide
theorem test_w_counter : r0.clFenced ((0 : Fin 65536) / 1024) = false ∧ r0.clFenced ((65535 : Fin 65536) / 1024) = false ∧
    ({ r0 with fz.clFence := 1 }).clFenced ((1023 : Fin 65536) / 1024) = true := by decide
/-- A queue whose one command only signals. -/
def signalling : Chip := r0.setQueue 0 { (default : Queue) with cmds := [{ (default : Cmd) with phase := .signalling }] }
theorem test_w_StatusFixedOnce : (signalling.cmd? 0 0).map (fun k => k.phase) = some .signalling := by decide
theorem test_w_Scu : (on (running 511)).dieOn = true ∧ ((running 511).coreOf 511).st = 2 ∧
    ((running 511).coreOf 511).scuAt ≠ some ((running 511).coreOf 511).cyc := by decide
theorem test_w_NanScale : fmtScaled 0 = true ∧ fmtScaled 5 = true ∧ fmtScaled 6 = false := by decide
theorem test_w_packages : (r0.shuOf 15).trained = true ∧ (r0.shuOf 15).lp = 0 ∧ (r0.shuOf 15).flight = [] ∧
    (({ r0 with pwr.st := .standby }).setShu 0 { (default : Shu) with lp := 2 }).pwr.st = .standby ∧
    ((({ r0 with pwr.st := .standby }).setShu 0 { (default : Shu) with lp := 2 }).shuOf 0).lp = 2 := by decide
theorem test_w_TileReadsBack : 32767 % 32768 + [(1 : BitVec 8)].length ≤ 32768 ∧ 0xBFEFFFFFFF + [(1 : BitVec 8)].length ≤ 0xBFF0000000 := by decide
theorem test_w_NullHandle : (0 : BitVec 32).toNat % 256 = 0 ∧ (0xFFFFFF00 : BitVec 32).toNat % 256 = 0 := by decide
theorem test_w_mailboxes : r0.clFenced (mbxCluster 0) = false ∧ r0.clFenced (mbxCluster 2047) = false ∧
    r0.clFenced (mbxCluster 3071) = false ∧ bit (r0.mbxCfg 3071) 29 = false ∧ (r0.mbxOf 0).owner = 0 ∧ (r0.mbxOf 0).full = false := by decide
/-- Mailbox b full and locked by the host. -/
def fullBox (b : Nat) : Chip := r0.setMbx b { (default : Mbx) with full := true, owner := 1, seq := 7 }
theorem test_w_MailboxTake : ((fullBox 5).mbxOf 5).owner = lockNo .host ∧ ((fullBox 5).mbxOf 5).owner ≠ 0 ∧
    ((fullBox 5).mbxOf 5).owner ≠ lockNo (.cpx 0) ∧ ((fullBox 3071).mbxOf 3071).seq = 7 ∧ ((fullBox 3071).mbxOf 3071).seq ≠ 8 := by decide
theorem test_w_MailboxPost : ((fullBox 5).mbxOf 5).full = true ∧ ((fullBox 2048).mbxOf 2048).full = true ∧ (r0.mbxOf 5).full = false := by decide
/-- Job 4,095 admitted with one tag of its in use. -/
def jobBusy : Chip := (r0.setAdm 4095 { (default : Adm) with st := 1, gen := 3 }).setTag 9
  (some { by_ := .mgmt, node := 0, job := 16 * 4095 + 3, order := 0, held := none, port := none, since := 0, read := none, cls := 0, kgen := none })
theorem test_w_JobAdmission : (jobBusy.admOf 4095).st = 1 ∧ (jobBusy.fab.tags.any (fun e => (e.2.map (fun t => t.job / 16)) == some 4095)) = true ∧
    ((r0.setAdm 0 { (default : Adm) with st := 1 }).admOf 0).st = 1 ∧ (r0.setAdm 0 { (default : Adm) with st := 1 }).fab.tags = [] := by decide
/-- Port p in a state. -/
def portIn (p : Nat) (st : LinkSt) (n : Nat) : Chip := r0.setPort p { portInit with st := st, attempts := n }
/-- Port p is DOWN and another switch port reaches plane 2. -/
def dupPort (p : Nat) : Chip := (portIn p .down 0).setPort 0 { portInit with st := .up, plane := 2 }
theorem test_w_TrainingFails : ((portIn 0 .training 3).portOf 0).st = .training ∧ ((portIn 15 .down 0).portOf 15).st = .down ∧
    (dupPort 15).planeDup 15 2 = true ∧ (dupPort 15).isBypass 15 = false := by decide
theorem test_w_LockedFields : r0.reg pgCFB 0x014 = 0 ∧ ((portIn 15 .up 0).portOf 15).st ≠ .disabled ∧
    bits 1 0 0 ≠ bits (r0.reg pgCFB 0x008) 0 0 ∧ bits 6 0 0 = bits (r0.reg pgCFB 0x008) 0 0 ∧
    bits 1 31 31 * 2 ^ 31 + bits 1 17 0 ≠ r0.reg pgCFB 0x200 ∧ bits 0 31 31 * 2 ^ 31 + bits 0 17 0 = r0.reg pgCFB 0x200 ∧
    bits 1 17 0 ≠ r0.reg pgCFB 0x204 ∧ bits 0x40000 17 0 = r0.reg pgCFB 0x204 ∧
    bit 1 0 = true ∧ r0.fld pgCFB 0x200 31 31 = 0 ∧ r0.reg (pgCPT 15) 0x014 = 0 := by decide
theorem test_w_HeaderAndRecordFields : hf (mkHdr 15 0x3FFFF 0x3FFFFFFFFFFF 0xFFFF 4095 255 (some 65535) true) 173 128 = 0x3FFFFFFFFFFF ∧
    hf (mkHdr 0 1 2 3 4 5 none false) 191 174 = 1 ∧ hf (mkHdr 8 1 2 3 4 5 none false) 48 46 = 4 ∧
    bits ({ (default : Cmd) with type := 15, status := .epoch } : Cmd).record 87 84 = 15 := by decide
/-- A port with credits and one queued packet of each channel. -/
def egress : Port := { portInit with
  st := .up
  tx := [9, 9, 9, 9, 9]
  queue := [⟨0, [], 0, false, none⟩, ⟨0, [], 3, false, none⟩, ⟨0, [], 3, true, none⟩, ⟨0, [], 2, false, none⟩, ⟨0, [], 4, false, none⟩,
            ⟨0, [], 1, false, none⟩] }
theorem test_w_EgressOrder : (∀ p ∈ egress.queue, p.ch < 5) ∧ egress.pick = some ⟨0, [], 1, false, none⟩ ∧
    ({ egress with queue := egress.queue.take 3 }).pick = some ⟨0, [], 3, true, none⟩ ∧
    ({ egress with queue := egress.queue.take 2, turn := true }).pick = some ⟨0, [], 3, false, none⟩ := by decide
theorem test_w_placed : r0.flt.placed = [] ∧ r0.fld pgFLT 0x008 0 0 = 0 := by decide
theorem test_w_TimebaseSet : (∀ e ∈ r0.fe.ctxs, e.2 = none) ∧
    ¬((∀ e ∈ (r0.setCtx 1 (some default)).fe.ctxs, e.2 = none) ∨ (r0.setCtx 1 (some default)).fld pgFE 0x008 0 0 = 0) := by decide
/-- A snapshot armed for tick t. -/
def armed (t : BitVec 64) : Chip := { r0 with time.snapAt := some t }
theorem test_w_SnapshotArm : (armed 1999).snapClose = true ∧ (armed 2000).snapClose = false ∧ r0.snapClose = false ∧
    r0.reg pgTBS 0x220 < r0.time.tb.toNat + 2000 ∧ ¬((r0.setReg pgTBS 0x220 2000).reg pgTBS 0x220 < r0.time.tb.toNat + 2000) := by decide
/-- One record waits for the Ledger. -/
def waitingRec : Chip := { r0 with cur.buf := [default] }
theorem test_w_LedgerWrite : waitingRec.pwr.aux12 = true ∧ waitingRec.cur.up = true ∧ waitingRec.cur.fw.st ≠ 2 ∧ waitingRec.cur.fw.st ≠ 3 ∧
    waitingRec.cur.buf = [default] ∧ waitingRec.cur.lost = 0 ∧ waitingRec.fz.floors.length = 5 ∧ (∀ f ∈ waitingRec.fz.floors, f ≤ 64) := by decide
theorem test_w_SensorReads : outsideRatings 0 ((1000 : BitVec 32).toInt) = false ∧ r0.cur.up = true ∧ r0.sensorOn 0 = true ∧
    r0.sensorOn 333 = true := by decide
/-- An uncorrectable error of a unit has been found. -/
def found (kind target : Nat) : Chip := { r0 with flt.due := [⟨kind, target, pgCORE 0, 1⟩] }
theorem test_w_ErrorsFenceAtOnce : (found 0 511).flt.due ≠ r0.flt.due ∧ (found 1 63).flt.due = [⟨1, 63, pgCORE 0, 1⟩]  := by decide
theorem test_w_IdentitySpent : 1048576 ≤ ({ r0 with fz.xmssNext := 1048576 }).fz.xmssNext := by decide
theorem test_w_RegulatorEvents : r0.pwr.rails = true ∧ ({ r0 with pwr.shedSince := some 0, pwr.groups := 9 }).pwr.shedSince = some 0 := by decide
/-- A site with a status. -/
def site (n st : Nat) : Chip := r0.setSensor n ⟨900, st⟩
theorem test_w_ControlSteps : r0.pwr.st = .active ∧ (site 63 2).anySite 2 = true ∧ (site 64 2).anySite 2 = false ∧ (site 0 1).anySite 1 = true := by decide
theorem test_w_Gating : bit ((awake.setReg pgPWR 0x218 (2 ^ 63)).reg pgPWR 0x218) 63 = true ∧ awake.clGated 63 = false ∧
    awake.clIdle 63 = true ∧ awake.wakeAsked 63 = false ∧ bit (awake.reg pgPWR 0x218) 0 = false := by decide
theorem test_w_WakeEnds : ∃ w ∈ ({ r0 with pwr.waking := [(63, 0, 0)] }).pwr.waking, w.1 = 63 := by decide
theorem test_w_RegulatorDroop : r0.pwr.rails = true ∧ (1 : BitVec 32) ≠ 0 ∧ r0.reg pgPWR 0x014 = 0 := by decide
/-- Core n is fenced and its fuses wait. -/
def fuseDue (n : Nat) : Chip := { r0 with fz.coreFence := 1 <<< n, flt.fuseQ := [(false, n)] }
theorem test_w_FenceFuse : (fuseDue 511).coreFenced (511 : Fin 512) = true ∧ (fuseDue 511).flt.fuseQ.contains (false, (511 : Fin 512).val) = true := by
  decide +kernel
theorem test_w_ErrorCapture : bit (r0.reg pgFE 0x014) 15 = false ∧ r0.reg pgFE 0x010 = 0 ∧ (r0.setReg pgFE 0x010 1).reg pgFE 0x010 ≠ 0 ∧
    bit ((r0.setReg pgFE 0x01C 0xFFFF).reg pgFE 0x01C) 15 = true ∧ r0.fld pgCUR 0x008 0 0 = 1 ∧ r0.cur.buf.length < 4096 := by decide
theorem test_w_InjectionOff : (blockOf (0x1200 : BitVec 16).toNat).isSome = true ∧ r0.pageLive (0x1200 : BitVec 16).toNat = true ∧
    r0.fld pgFLT 0x008 0 0 = 0 ∧ r0.reg (0x1200 : BitVec 16).toNat 0x014 = 0 := by decide

/-! ## Shared computations -/

/-- IEEE 802.3: the check value of CRC-32. -/
theorem test_crc32 : crc32 [0x31, 0x32, 0x33, 0x34, 0x35, 0x36, 0x37, 0x38, 0x39] = 0xCBF43926 := by decide +kernel
/-- FP32 by IEEE 754: 1 + 1 = 2, 3 × 0.5 = 1.5, and the default NaN of R125. -/
theorem test_fp32 : fadd 0x3F800000 0x3F800000 = 0x40000000 ∧ fmul 0x40400000 0x3F000000 = 0x3FC00000 ∧
    fsub 0x7F800000 0x7F800000 = 0x7FC00000 := by decide +kernel
/-- R502's worked case: a limit of 1,700 W gives P2, and 1,808 W gives P1. -/
theorem test_limitFloor : limitFloor 1700 = 2 ∧ limitFloor 1808 = 1 ∧ limitFloor 2000 = 0 := by decide
/-- R178: 1 breaks order after 3, and 4 is compared with 3. -/
theorem test_keepKeys : keepKeys none 0 [3, 1, 4] = [(3, 0, false), (1, 1, true), (4, 2, false)] := by decide
/-- R408: 5,000 B are cut at 2,048 and 4,096. -/
theorem test_cuts : cuts 5000 = [(0, 2048), (2048, 2048), (4096, 904)] := by decide
/-- R44: ten tokens among clusters 0, 2 and 63. -/
theorem test_shares : shares (maskClusters 0x8000000000000005) 10 = [(0, 0, 4), (2, 4, 3), (63, 7, 3)] := by decide +kernel
/-- R91: ten nodes among three Drovers. -/
theorem test_portion : portion 3 10 0 = (0, 4) ∧ portion 3 10 1 = (4, 7) ∧ portion 3 10 2 = (7, 10) := by decide

/-! ## Commands -/

/-- R261: the wrap of an ADD. -/
theorem test_cntAdd : after (.cntAdd 65535 2) (on (r0.setCtr 65535 { (default : Ctr) with value := 0xFFFFFFFF }))
    (fun d => (d.ctrOf 65535).value = 1 ∧ ((d.ctrClose 65535).ctrOf 65535).wrap) = true := by decide +kernel
/-- R260. -/
theorem test_cntSet : after (.cntSet 7 9) (on (r0.setCtr 7 { (default : Ctr) with value := 1, wrap := true }))
    (fun d => (d.ctrOf 7).value = 9 ∧ (d.ctrOf 7).wrap) = true := by decide +kernel
/-- R532: a fenced cluster refuses. -/
theorem test_cntAdd_fenced : after (.cntAdd 1023 2) (on { r0 with fz.clFence := 1 }) (fun d => d.fe.ctrs = []) = true := by decide +kernel
/-- R210: C2 = C1 + 7, written at the end of the cycle. -/
theorem test_scuAdd : after (.scuAdd 0 0x2440800000000007) (on (r0.setCore 0 { coreInit with st := 2, cs := [0, 5, 0, 0, 0, 0, 0, 0] }))
    (fun d => (d.coreOf 0).csNext = [(2, 12)]) = true := by decide +kernel
/-- R344: the host takes a free lock, and core 0 of the CPX does not take it away. -/
theorem test_mbxLock : after (.mbxLock .host 0) State.reset (fun d => (d.mbxOf 0).owner = 1) = true ∧
    after (.mbxLock (.cpx 0) 5) (on (fullBox 5)) (fun d => (d.mbxOf 5).owner = 1) = true := by decide +kernel
/-- R344: no lock, no TAKE. -/
theorem test_mbxTake : after (.mbxTake .host 5 7) (on (fullBox 5)) (fun d => (d.mbxOf 5).full = false ∧ (d.mbxOf 5).taken = 7) = true ∧
    after (.mbxTake .curator 0 0) (on (r0.setMbx 0 { (default : Mbx) with full := true })) (fun d => (d.mbxOf 0).full) = true := by decide +kernel
/-- R344, R345: SEQ counts on; a full cluster mailbox notes the collision. -/
theorem test_mbxPost : after (.mbxPost .host 0 5) State.reset (fun d => (d.mbxOf 0).seq = 1 ∧ (d.mbxOf 0).ptr = 5) = true ∧
    after (.mbxPost .host 3071 5) (on (fullBox 3071)) (fun d => (d.mbxOf 3071).collision ∧ (d.mbxOf 3071).seq = 8) = true := by decide +kernel
/-- R386: generation 7 ahead is admitted. -/
theorem test_admit : after (.admitJob 5 7) State.reset (fun d => d.admOf 5 = ⟨1, 7, 0⟩) = true := by decide +kernel
/-- R386: a DRAIN without tags frees the job with the next generation. -/
theorem test_drain : after (.drain 5) (on (r0.setAdm 5 ⟨1, 15, 9⟩)) (fun d => d.admOf 5 = ⟨0, 15, 0⟩) = true := by decide +kernel
/-- R364: the fourth failure in a row. -/
theorem test_portTrained : after (.portTrained 3 ⟨2, true, 0, 0, false, 0, 0, [0, 0, 0, 0, 0]⟩) (on (portIn 3 .training 3))
    (fun d => (d.portOf 3).st = .failed) = true := by decide +kernel
/-- R359: CPT_CTRL.ENABLE without a node. -/
theorem test_cptEnable : after (.cptEnable 15 1) State.reset (fun d => (d.portOf 15).st = .disabled ∧ bit (d.reg (pgCPT 15) 0x010) 7) = true := by decide +kernel
/-- R12: the boot's HLT_LINK, vector 269, is pending and cleared. -/
theorem test_irqPendClear : bit (r0.reg pgIRQ 0x220) 13 = true ∧
    after (.irqPendClear 4 0x2000) State.reset (fun d => d.reg pgIRQ 0x220 = 0) = true := by decide +kernel
/-- R445's worked case: an error of 23 ns gives −23,000 ppb. -/
theorem test_tbpIn : after .tbpIn (on { ((r0.setReg pgTBS 0x008 1).setReg pgTBS 0x210 1000000).setReg pgTBS 0x214 38 with time.tb := 7000000061 })
    (fun d => d.reg pgTBS 0x218 = 23 ∧ d.reg pgTBS 0x21C = 0xFFFFA628) = true := by decide +kernel
/-- R454: 2 µs ahead is armed, less is late. -/
theorem test_invArm : after .invArm (on (r0.setReg pgTBS 0x220 2000)) (fun d => d.time.snapAt = some 2000) = true ∧
    after .invArm (on (r0.setReg pgTBS 0x220 1999)) (fun d => d.time.snapAt = none ∧ bit (d.reg pgTBS 0x010) 4) = true := by decide +kernel
/-- R451: a second ENTDAA keeps the first address. -/
theorem test_entdaa : after (.entdaa 9) (on { r0 with cur.dynAddr := some 8 }) (fun d => d.cur.dynAddr = some 8) = true := by decide +kernel
/-- R571. -/
theorem test_ratings : (match exec (.sensorSample 0 (some 1001)) State.reset with | .fault .outsideRatings => true | _ => false) = true := by
  decide +kernel
/-- R498: 2,000 A need seven groups. -/
theorem test_phaseAdd : after .phaseAdd (on { r0 with pwr.amps := [2000000] }) (fun d => d.pwr.groups = 7) = true := by decide +kernel
/-- R500. -/
theorem test_droop : after (.droop 700) State.reset (fun d => d.reg pgPWR 0x058 = 1 ∧ d.reg pgPWR 0x060 = 700 ∧ bit (d.reg pgPWR 0x010) 2) = true := by decide +kernel
/-- R505: a site at CRIT. -/
theorem test_dvfsStep : after .dvfsStep (on { site 63 2 with pwr.point := 1 }) (fun d => d.pwr.point = 7) = true := by decide +kernel
/-- R508. -/
theorem test_gate : after (.gate 63) (on (awake.setReg pgPWR 0x218 (2 ^ 63))) (fun d => d.clGated 63 ∧ !(d.clGated 62)) = true := by decide +kernel
/-- R511. -/
theorem test_aux12Loss : after .aux12Loss (on (fuseDue 511)) (fun d => d.pwr.st = .off ∧ !(d.coreFenced 511)) = true := by decide +kernel
/-- R528: FENCE_CORE fences its core alone. -/
theorem test_fenceCore : after (.fenceCore 8) State.reset (fun d => d.coreFenced 8 ∧ !(d.coreFenced 7) ∧ !(d.clFenced 1)) = true := by decide +kernel
/-- R533: the second fuse where the first does not read back. -/
theorem test_fenceFuse : after (.fenceFuse false 511 false true) (on (fuseDue 511)) (fun d => d.fz.coreFuseB.getLsbD 511 ∧ !(d.fz.coreFuseA.getLsbD 511)) = true := by decide +kernel
/-- R538: INJ_EN is 0. -/
theorem test_errInj : after (.errInj 0x1100 0x80000000) State.reset (fun d => d.reg 0x1100 0x018 = 0 ∧ bit (d.reg 0x1100 0x010) 7) = true := by decide +kernel
/-- R569. -/
theorem test_idcode : after (.tapInstruction .idcode) State.reset (fun d => d.pwr.tapDr = 0x14948A5B) = true := by decide +kernel
/-- R570: EXTEST undoes the boot. -/
theorem test_extest : after (.tapInstruction .extest) State.reset (fun d => !(d.pwr.booted)) = true := by decide +kernel

end Sys2Proof.Tests
end

/-!
SUPPORT. The register file after reset (R9), and the w1c write of an interrupt-pending register (R12, R557).
-/

namespace Sys2Proof.Machine

/-! ## Registers after reset -/

/-- A key that no entry of a table lists holds the default. -/
theorem Tab.get_of_not_mem {α : Type} (d : α) (t : Tab α) (n : Nat) (h : n ∉ t.map Prod.fst) : Tab.get d t n = d := by
  have hne : ∀ e ∈ t, e.1 ≠ n := fun e he hk => h (hk ▸ List.mem_map_of_mem he)
  simpa [Tab.get] using Tab.get_append d t [] n hne

/-- A register that the register table does not list holds its Reset column (R9). -/
theorem Chip.reg_of_not_mem (c : Chip) (page off : Nat) (h : page * 4096 + off ∉ c.regs.map Prod.fst) :
    c.reg page off = regReset page off % 2 ^ 64 := by
  rw [Chip.reg, Tab.get_of_not_mem _ _ _ h, BitVec.toNat_ofNat]

/-- Settles O3: the boot's six writes are the whole register table after reset. -/
theorem resetRegisters : Obligations.ResetRegisters := by
  intro page off _ hboot
  have hregs : State.reset.chip.regs = bootRegs := rfl
  exact Chip.reg_of_not_mem _ _ _ (by rwa [hregs])

/-! ## A write of a page that finds no error -/

@[simp] theorem Chip.ctxRefresh_flt (c : Chip) : c.ctxRefresh.flt = c.flt := rfl
@[simp] theorem Chip.reg_ctxRefresh (c : Chip) (page off : Nat) : c.ctxRefresh.reg page off = c.reg page off := rfl
@[simp] theorem keepFz_flt (c d : Chip) : (keepFz c d).flt = d.flt := rfl
@[simp] theorem Chip.reg_keepFz (c d : Chip) (page off : Nat) : (keepFz c d).reg page off = d.reg page off := rfl

/-- A write of a page that answers, and in which no uncorrectable error is found, answers its operation's state (R522, R552). -/
theorem answers_of_page {i : Instr} {s : State} {page : Nat} {f : Chip → Chip} {P : Chip → Prop}
    (hrun : exec i s = s.page page f) (hlive : s.chip.pageLive page = true)
    (hdue : (f s.chip).flt.due = s.chip.flt.due) (hP : P (keepFz s.chip (f s.chip).ctxRefresh)) : Answers i s P := by
  have hsame : s.chip.faultsGo (keepFz s.chip (f s.chip).ctxRefresh) = keepFz s.chip (f s.chip).ctxRefresh :=
    Chip.faultsGo_same (by simpa using hdue)
  refine ⟨{ s with chip := keepFz s.chip (f s.chip).ctxRefresh }, ?_, rfl, hP⟩
  rw [hrun, State.page, if_pos hlive, hsame]

/-! ## Write one to clear (R12) -/

/-- Taking from a number the bits it shares with a mask clears exactly the mask's bits. -/
theorem testBit_sub_and (a v k : Nat) : (a - (a &&& v)).testBit k = (a.testBit k && !v.testBit k) := by
  induction k generalizing a v with
  | zero =>
    have hmod : (a &&& v) % 2 = a % 2 &&& v % 2 := Nat.and_mod_two_pow (n := 1)
    have hle : a &&& v ≤ a := Nat.and_le_left
    have hle' : a % 2 &&& v % 2 ≤ a % 2 := Nat.and_le_left
    have hlow : (a - (a &&& v)) % 2 = a % 2 - (a % 2 &&& v % 2) := by omega
    simp only [Nat.testBit_zero, hlow]
    rcases Nat.mod_two_eq_zero_or_one a with ha | ha <;> rcases Nat.mod_two_eq_zero_or_one v with hv | hv <;>
      simp [ha, hv]
  | succ k ih =>
    have hdiv : (a &&& v) / 2 = a / 2 &&& v / 2 := Nat.and_div_two
    have hmod : (a &&& v) % 2 ≤ a % 2 := (Nat.and_mod_two_pow (n := 1)).trans_le Nat.and_le_left
    have hhalf : (a - (a &&& v)) / 2 = a / 2 - (a / 2 &&& v / 2) := by omega
    rw [Nat.testBit_succ, hhalf, ih, Nat.testBit_succ, Nat.testBit_succ]

/-- With no fault placed a clear of IRQ_PENDj is a store, and IRQ_BLKSRC clears with BLK_ERR (R557). -/
theorem Chip.irqClear_of_no_placed (c : Chip) (j v : Nat) (h : c.flt.placed = []) :
    c.irqClear j v =
      let off := 0x200 + 8 * j
      let d := c.setReg pgIRQ off (c.reg pgIRQ off - (c.reg pgIRQ off &&& v))
      if j = 4 ∧ bit v 10 then d.setReg pgIRQ 0x2C8 0 else d := by
  rw [Chip.irqClear, Chip.injR_nil _ _ _ _ _ h]

theorem Chip.irqClear_flt (c : Chip) (j v : Nat) (h : c.flt.placed = []) : (c.irqClear j v).flt = c.flt := by
  rw [c.irqClear_of_no_placed j v h]
  dsimp only
  split <;> rfl

/-- Every register of the IRQ page but IRQ_BLKSRC reads as after the store. -/
theorem Chip.reg_irqClear (c : Chip) (j v off : Nat) (h : c.flt.placed = []) (hoff : off ≠ 0x2C8) :
    (c.irqClear j v).reg pgIRQ off =
      if off = 0x200 + 8 * j then c.reg pgIRQ off - (c.reg pgIRQ off &&& v) else c.reg pgIRQ off := by
  have hlt : c.reg pgIRQ (0x200 + 8 * j) - (c.reg pgIRQ (0x200 + 8 * j) &&& v) < 2 ^ 64 :=
    (Nat.sub_le _ _).trans_lt (c.reg_lt _ _)
  have hblk (d : Chip) : (d.setReg pgIRQ 0x2C8 0).reg pgIRQ off = d.reg pgIRQ off := d.reg_setReg_ne _ _ _ _ _ (by omega)
  have hstore : (c.irqClear j v).reg pgIRQ off =
      (c.setReg pgIRQ (0x200 + 8 * j) (c.reg pgIRQ (0x200 + 8 * j) - (c.reg pgIRQ (0x200 + 8 * j) &&& v))).reg pgIRQ off := by
    rw [c.irqClear_of_no_placed j v h]
    dsimp only
    split
    · exact hblk _
    · rfl
  rw [hstore]
  split
  next heq => rw [heq, Chip.reg_setReg, Nat.mod_eq_of_lt hlt]
  next hne => exact c.reg_setReg_ne _ _ _ _ _ (by omega)

/-- Settles O44: the clear is a w1c write of its own register alone. -/
theorem pendingClear : Obligations.PendingClear := by
  intro j v s hlive hplaced
  refine answers_of_page (exec_irqPendClear j v s) hlive (by rw [Chip.irqClear_flt _ _ _ hplaced]) ⟨fun k _ => ?_, fun i hij => ?_⟩
  · have hself := s.chip.reg_irqClear j v.toNat (0x200 + 8 * j) hplaced (by omega)
    rw [if_pos rfl] at hself
    rw [Chip.reg_keepFz, Chip.reg_ctxRefresh, hself]
    exact testBit_sub_and _ _ k
  · have hother := s.chip.reg_irqClear j v.toNat (0x200 + 8 * i) hplaced (by omega)
    have hne : 0x200 + 8 * i.val ≠ 0x200 + 8 * j.val := by omega
    rwa [if_neg hne] at hother

end Sys2Proof.Machine

/-!
SUPPORT. The division of items among participants in order (R44): sizes ⌈t/n⌉ and ⌊t/n⌋, and where each part begins.
-/

namespace Sys2Proof.Machine

/-! ## The parts of a division in order -/

/-- The items of participant j when t items are divided among n in order (R44). -/
def shareSize (n t j : Nat) : Nat := if j < t % n then t / n + 1 else t / n

/-- The larger parts hold ⌈t/n⌉ items. -/
theorem shareSize_eq_ceil {n : Nat} (t j : Nat) (hn : 0 < n) :
    shareSize n t j = if j < t % n then (t + n - 1) / n else t / n := by
  unfold shareSize
  split
  case isFalse => rfl
  case isTrue hj =>
    have hlt : t % n < n := Nat.mod_lt t hn
    have hsplit : t + n - 1 = (t % n - 1) + n * (t / n + 1) := by
      have hdiv := Nat.mod_add_div t n
      rw [Nat.mul_add_one]
      omega
    have hzero : (t % n - 1) / n = 0 := Nat.div_eq_of_lt (by omega)
    rw [hsplit, Nat.add_mul_div_left _ _ hn, hzero, Nat.zero_add]

theorem portion_fst (n t j : Nat) : (portion n t j).1 = j * (t / n) + min j (t % n) := rfl

theorem portion_fst_zero (n t : Nat) : (portion n t 0).1 = 0 := by
  rw [portion_fst, Nat.zero_mul, Nat.zero_min]

/-- A part begins where the part before it ends. -/
theorem portion_fst_succ (n t j : Nat) : (portion n t (j + 1)).1 = (portion n t j).1 + shareSize n t j := by
  rw [portion_fst, portion_fst, Nat.succ_mul, shareSize]
  split <;> omega

/-- Where a part begins: after the larger parts, then after the smaller ones. -/
theorem portion_fst_eq_ite (n t j : Nat) : (portion n t j).1 =
    if j < t % n then j * (t / n + 1) else t % n * (t / n + 1) + (j - t % n) * (t / n) := by
  rw [portion_fst]
  split
  case isTrue hj => rw [Nat.min_eq_left hj.le, Nat.mul_add_one]
  case isFalse hj =>
    have hle : t % n ≤ j := Nat.le_of_not_lt hj
    calc j * (t / n) + min j (t % n) = (t % n + (j - t % n)) * (t / n) + t % n := by
          rw [Nat.min_eq_right hle, Nat.add_sub_cancel' hle]
      _ = t % n * (t / n + 1) + (j - t % n) * (t / n) := by ring

/-- The parts end with the last item. -/
theorem portion_fst_last {n : Nat} (t : Nat) (hn : 0 < n) : (portion n t n).1 = t := by
  rw [portion_fst, Nat.min_eq_right (Nat.mod_lt t hn).le, Nat.div_add_mod]

/-! ## Participating clusters and their token shares (R44) -/

theorem mem_maskClusters (m c : Nat) : c ∈ maskClusters m ↔ c < 64 ∧ bit m c = true := by
  rw [maskClusters, List.mem_filter, List.mem_range]

theorem maskClusters_ascending (m : Nat) : (maskClusters m).Pairwise (· < ·) :=
  List.pairwise_lt_range.filter _

/-- A cluster's share is the part of its position among the clusters. -/
theorem shares_eq_map_portion (cls : List Nat) (t : Nat) : shares cls t =
    cls.zipIdx.map (fun p => (p.1, (portion cls.length t p.2).1, shareSize cls.length t p.2)) := by
  refine List.map_congr_left fun p _ => ?_
  rw [portion_fst_eq_ite, shareSize]
  by_cases hbig : p.2 < t % cls.length
  · simp only [if_pos hbig]
  · simp only [if_neg hbig]

theorem shares_length (cls : List Nat) (t : Nat) : (shares cls t).length = cls.length := by
  rw [shares_eq_map_portion, List.length_map, List.length_zipIdx]

theorem shares_getElem? {cls : List Nat} {j : Nat} (t : Nat) (hj : j < cls.length) :
    (shares cls t)[j]? = some (cls[j], (portion cls.length t j).1, shareSize cls.length t j) := by
  simp [shares_eq_map_portion, hj]

theorem shares_map_fst (cls : List Nat) (t : Nat) : (shares cls t).map (fun x => x.1) = cls := by
  rw [shares_eq_map_portion, List.map_map]
  exact List.zipIdx_map_fst 0 cls

/-- The first j shares hold the tokens before the j-th part. -/
theorem shares_sum_take {cls : List Nat} {j : Nat} (t : Nat) (hj : j ≤ cls.length) :
    (((shares cls t).take j).map (fun x => x.2.2)).sum = (portion cls.length t j).1 := by
  induction j with
  | zero => rw [portion_fst_zero, List.take_zero, List.map_nil, List.sum_nil]
  | succ j ih =>
    rw [List.take_add_one, shares_getElem? t hj, List.map_append, List.sum_append, ih (Nat.le_of_succ_le hj),
      portion_fst_succ]
    simp

/-- The shares of at least one cluster hold every token. -/
theorem shares_sum {cls : List Nat} (t : Nat) (hcls : 0 < cls.length) :
    ((shares cls t).map (fun x => x.2.2)).sum = t := by
  have htake := shares_sum_take t (le_refl cls.length)
  rwa [portion_fst_last t hcls, List.take_of_length_le (shares_length cls t).le] at htake

/-- Settles O30: the shares are the parts of the division in order, whose starts are the sums of the sizes before them. -/
theorem tokenShares : Obligations.TokenShares := by
  intro mask t cls n sh
  refine ⟨maskClusters_ascending mask, mem_maskClusters mask, shares_map_fst cls t, fun j hj => ?_, fun j hj => ?_,
    shares_sum t⟩
  · rw [shares_getElem? t hj, Option.map_some, shareSize_eq_ceil t j (Nat.zero_lt_of_lt hj)]
  · rw [shares_getElem? t hj, Option.map_some, shares_sum_take t hj.le]

end Sys2Proof.Machine

/-!
The division of a DISPATCH's destination nodes among its Drovers (R91).
-/

namespace Sys2Proof.Machine

/-- One past the last item of a part is the first of the next, also after the last part. -/
theorem portion_snd (n t j : Nat) : (portion n t j).2 = (portion n t (j + 1)).1 := rfl

/-- Settles O31: each portion ends where the next begins, one `shareSize` further on, and the one after the last begins at
the total. -/
theorem droverPortions : Obligations.DroverPortions := by
  intro n total hn
  refine ⟨portion_fst_zero n total, ?_, fun j _ => portion_snd n total j, fun j _ => ?_⟩
  · rw [portion_snd, Nat.sub_add_cancel hn, portion_fst_last total hn]
  · rw [portion_snd, portion_fst_succ, shareSize_eq_ceil total j hn]

end Sys2Proof.Machine

/-!
NaN in the matrix arrays' arithmetic: in the exact sum (IEEE 754), in the rounding to FP32 and as a block scale (R125, R129).
-/

namespace Sys2Proof.Machine

@[simp] theorem FV.add_nan (v : FV) : FV.add v .nan = .nan := by
  cases v <;> rfl

/-- A NaN rounds to the default quiet NaN. -/
@[simp] theorem FV.toF32_nan : FV.toF32 .nan = 0x7FC00000 := rfl

/-- A NaN scale of either stream makes V a NaN, whatever the elements hold. -/
theorem blockV_of_nan_scale {fr fc sa sb : Nat} (as bs : List Nat)
    (hscale : (fmtScaled fr = true ∧ sa = 255) ∨ (fmtScaled fc = true ∧ sb = 255)) : blockV fr fc as bs sa sb = .nan := by
  rw [blockV, if_pos (by simpa using hscale)]

/-- Settles O27: V is a NaN, and a NaN stays one in the sum with any accumulator. -/
theorem nanScale : Obligations.NanScale := by
  intro acc fr fc as bs sa sb hscale
  rw [blockStep, blockV_of_nan_scale as bs hscale, FV.add_nan, FV.toF32_nan]

end Sys2Proof.Machine

/-!
SUPPORT. Replacing a field of a value: what the field and the bits below it then hold.
-/

namespace Sys2Proof.Machine

theorem bits_eq_div_mod (v hi lo : Nat) : bits v hi lo = v / 2 ^ lo % 2 ^ (hi + 1 - lo) := by
  rw [bits, Nat.shiftRight_eq_div_pow]

theorem testBit_bits (v hi lo i : Nat) : (bits v hi lo).testBit i = (decide (i < hi + 1 - lo) && v.testBit (lo + i)) := by
  rw [bits, Nat.testBit_mod_two_pow, Nat.testBit_shiftRight]

/-- The value's part below the field stays, and so do whole multiples of the field's size above it. -/
theorem setBits_eq_add (v hi lo x : Nat) : setBits v hi lo x =
    2 ^ lo * (2 ^ (hi + 1 - lo) * (v / 2 ^ lo / 2 ^ (hi + 1 - lo)) + x % 2 ^ (hi + 1 - lo)) + v % 2 ^ lo := by
  have hlow : 2 ^ lo * (v / 2 ^ lo) + v % 2 ^ lo = v := Nat.div_add_mod v (2 ^ lo)
  have hfield := Nat.div_add_mod (v / 2 ^ lo) (2 ^ (hi + 1 - lo))
  rw [← hfield, Nat.mul_add] at hlow
  simp only [setBits, bits_eq_div_mod, Nat.shiftLeft_eq, Nat.mul_comm _ (2 ^ lo), Nat.mul_add]
  omega

theorem bits_setBits_self (v hi lo x : Nat) : bits (setBits v hi lo x) hi lo = x % 2 ^ (hi + 1 - lo) := by
  have hlow : v % 2 ^ lo / 2 ^ lo = 0 := Nat.div_eq_of_lt (Nat.mod_lt v (Nat.two_pow_pos lo))
  rw [bits_eq_div_mod, setBits_eq_add, Nat.mul_add_div (Nat.two_pow_pos lo), hlow, Nat.add_zero, Nat.mul_add_mod, Nat.mod_mod]

theorem testBit_setBits_of_lt {i lo : Nat} (v hi x : Nat) (h : i < lo) : (setBits v hi lo x).testBit i = v.testBit i := by
  rw [setBits_eq_add, Nat.testBit_two_pow_mul_add _ (Nat.mod_lt v (Nat.two_pow_pos lo)), if_pos h, Nat.testBit_mod_two_pow]
  simp [h]

theorem bit_setBits_of_lt {i lo : Nat} (v hi x : Nat) (h : i < lo) : bit (setBits v hi lo x) i = bit v i :=
  testBit_setBits_of_lt v hi x h

theorem bits_setBits_of_lt {h lo : Nat} (v hi x l : Nat) (hlt : h < lo) : bits (setBits v hi lo x) h l = bits v h l := by
  refine Nat.eq_of_testBit_eq fun i => ?_
  rw [testBit_bits, testBit_bits]
  by_cases hi : i < h + 1 - l
  · rw [testBit_setBits_of_lt _ _ _ (by omega)]
  · simp [hi]

theorem bit_bits_zero {i hi : Nat} (v : Nat) (h : i ≤ hi) : bit (bits v hi 0) i = bit v i := by
  rw [bit, bit, testBit_bits, Nat.zero_add]
  simp [Nat.lt_succ_of_le h]

end Sys2Proof.Machine

/-!
What an SCU operation queues for the end of its cycle, and what that end does (R203, R205, R210).
-/

namespace Sys2Proof.Machine

/-! ## Cores, Vitrines and error state through counts and keepers -/

@[simp] theorem Chip.coreOf_count (c : Chip) (page i n m : Nat) : (c.count page i n).coreOf m = c.coreOf m := by
  rw [Chip.coreOf, Chip.count_core, Chip.coreOf]
@[simp] theorem Chip.coreOf_keepEngine (c d : Chip) (m : Nat) : (keepEngine c d).coreOf m = d.coreOf m := rfl
@[simp] theorem keepEngine_core (c d : Chip) : (keepEngine c d).core = d.core := rfl
@[simp] theorem keepEngine_flt (c d : Chip) : (keepEngine c d).flt = d.flt := rfl
@[simp] theorem Chip.vitOf_ctxRefresh (c : Chip) (k : Nat) : c.ctxRefresh.vitOf k = c.vitOf k := rfl
@[simp] theorem Chip.vitOf_keepFz (c d : Chip) (k : Nat) : (keepFz c d).vitOf k = d.vitOf k := rfl

/-- An engine operation of a die that works, in which no uncorrectable error is found, answers its operation's state (R522). -/
theorem answers_of_eng {i : Instr} {s : State} {f : Chip → Chip} {P : Chip → Prop} (hrun : exec i s = s.eng f)
    (hon : s.dieOn = true) (hdue : (f s.chip).flt.due = s.chip.flt.due) (hP : P (keepEngine s.chip (f s.chip))) :
    Answers i s P := by
  refine ⟨{ s with chip := keepEngine s.chip (f s.chip) }, ?_, rfl, hP⟩
  rw [hrun, State.eng, if_pos hon, Chip.faultsGo_same (by simpa using hdue)]

theorem Answers.imp {i : Instr} {s : State} {P Q : Chip → Prop} (h : Answers i s P) (hPQ : ∀ d, P d → Q d) : Answers i s Q := by
  obtain ⟨t, hrun, hpending, hP⟩ := h
  exact ⟨t, hrun, hpending, hPQ _ hP⟩

/-! ## The value that a counter write carries (R209, R210) -/

theorem scuValue_set (k : Core) (w : Nat) : scuValue k 1 w = bits w 31 0 := rfl
theorem scuValue_add (k : Core) (w : Nat) : scuValue k 2 w =
    (k.ctr (bits w 56 54) + if bit w 47 then bits w 31 0 else k.ctr (bits w 53 51)) % 2 ^ 32 := rfl
theorem scuValue_sub (k : Core) (w : Nat) : scuValue k 3 w =
    (k.ctr (bits w 56 54) + (2 ^ 32 - if bit w 47 then bits w 31 0 else k.ctr (bits w 53 51))) % 2 ^ 32 := rfl

/-- LDP's half and parameter are fields of its immediate. -/
theorem scuValue_ldp (k : Core) (w : Nat) : scuValue k 4 w =
    if bit (bits w 31 0) 4 then k.param (bits w 31 0 % 16) >>> 32 else k.param (bits w 31 0 % 16) % 2 ^ 32 := by
  have hparam : bits w 31 0 % 16 = bits w 3 0 := by
    simp only [bits_eq_div_mod]
    omega
  rw [bit_bits_zero w (by decide), hparam, Nat.shiftRight_eq_div_pow]
  rfl

/-- The OP field takes no part in the value. -/
theorem scuValue_setBits (k : Core) (op v x : Nat) : scuValue k op (setBits v 63 60 x) = scuValue k op v := by
  simp [scuValue, bits_setBits_of_lt, bit_setBits_of_lt]

/-- A counter stores a value modulo 2³². -/
theorem ofNat_mod_word (x : Nat) : BitVec.ofNat 32 (x % 2 ^ 32) = BitVec.ofNat 32 x :=
  BitVec.eq_of_toNat_eq (by simp)

/-! ## The issue of an SCU operation with its slot free -/

section Issue

variable {c : Chip} {n bundle w : Nat}

/-- SCU_NOP takes the slot of its cycle and writes nothing. -/
theorem Chip.scuIssue_nop (hfree : (c.coreOf n).scuAt ≠ some (c.coreOf n).cyc) (hop : bits w 63 60 = 0) :
    c.scuIssue n bundle w =
      (c.setCore n { c.coreOf n with scuAt := some (c.coreOf n).cyc }).count (pgCORE n) 14 1 := by
  simp only [Chip.scuIssue, if_neg hfree, hop]

/-- SCU_SET, SCU_ADD, SCU_SUB and LDP queue a write of counter D. -/
theorem Chip.scuIssue_counter {op : Nat} (hfree : (c.coreOf n).scuAt ≠ some (c.coreOf n).cyc) (hop : bits w 63 60 = op)
    (hcounter : op = 1 ∨ op = 2 ∨ op = 3 ∨ op = 4) :
    c.scuIssue n bundle w = (c.setCore n { c.coreOf n with
        scuAt := some (c.coreOf n).cyc,
        csNext := (c.coreOf n).csNext ++ [(bits w 59 57, BitVec.ofNat 32 (scuValue (c.coreOf n) op w))] }).count (pgCORE n) 14 1 := by
  obtain rfl | rfl | rfl | rfl := hcounter
  · simp only [Chip.scuIssue, if_neg hfree, hop, scuValue_set]
  · simp only [Chip.scuIssue, if_neg hfree, hop, scuValue_add, ofNat_mod_word]
    rfl
  · simp only [Chip.scuIssue, if_neg hfree, hop, scuValue_sub, ofNat_mod_word]
    rfl
  · simp only [Chip.scuIssue, if_neg hfree, hop, scuValue_ldp]
    rfl

/-- ARM queues a comparison for comparator D. -/
theorem Chip.scuIssue_arm (hfree : (c.coreOf n).scuAt ≠ some (c.coreOf n).cyc) (hop : bits w 63 60 = 5) :
    c.scuIssue n bundle w = (c.setCore n { c.coreOf n with
        scuAt := some (c.coreOf n).cyc,
        ksNext := (c.coreOf n).ksNext ++ [(bits w 59 57, .rel (bits w 56 54) (bits w 50 48) (bits w 53 51)
          (if bit w 47 then some (BitVec.ofNat 32 (bits w 31 0)) else none))] }).count (pgCORE n) 14 1 := by
  simp only [Chip.scuIssue, if_neg hfree, hop]

/-- SETK queues a constant for comparator D. -/
theorem Chip.scuIssue_setk (hfree : (c.coreOf n).scuAt ≠ some (c.coreOf n).cyc) (hop : bits w 63 60 = 6) :
    c.scuIssue n bundle w = (c.setCore n { c.coreOf n with
        scuAt := some (c.coreOf n).cyc,
        ksNext := (c.coreOf n).ksNext ++ [(bits w 59 57, .const (bit w 0))] }).count (pgCORE n) 14 1 := by
  simp only [Chip.scuIssue, if_neg hfree, hop, bit_bits_zero w (Nat.zero_le 31)]

end Issue

/-! ## The SCU rows of a running core -/

/-- An SCU row whose issue leaves its core as k changes no other core and no local memory. -/
theorem answers_of_scuRow {i : Instr} {s : State} {n op v : Nat} {k : Core} (hfree : scuFree s n)
    (hrun : exec i s = s.eng (fun c => c.scuRow n op v))
    (hissue : (s.chip.coreOf n).scuAt ≠ some (s.chip.coreOf n).cyc →
      s.chip.scuIssue n (s.chip.coreOf n).b (setBits v 63 60 op) = (s.chip.setCore n k).count (pgCORE n) 14 1) :
    Answers i s (fun d => d.coreOf n = k ∧ (∀ m : Nat, m ≠ n → d.coreOf m = s.chip.coreOf m) ∧
      d.core.lmem = s.chip.core.lmem) := by
  obtain ⟨hon, hruns, hslot⟩ := hfree
  have hrow : s.chip.scuRow n op v = (s.chip.setCore n k).count (pgCORE n) 14 1 := by
    rw [Chip.scuRow, Chip.slotOp, if_pos hruns, hissue hslot]
  refine answers_of_eng hrun hon (by simp [hrow]) ?_
  rw [hrow]
  refine ⟨by simp, fun m hm => ?_, by simp⟩
  rw [Chip.coreOf_keepEngine, Chip.coreOf_count, Chip.coreOf_setCore_ne _ _ _ _ hm]

/-- A row that queues a counter write queues its slot's value (R209, R210). -/
theorem answers_of_counterRow {i : Instr} {s : State} {n op v : Nat} (hfree : scuFree s n)
    (hrun : exec i s = s.eng (fun c => c.scuRow n op v)) (hcounter : op = 1 ∨ op = 2 ∨ op = 3 ∨ op = 4) :
    Answers i s (fun d => d.coreOf n = { s.chip.coreOf n with
        scuAt := some (s.chip.coreOf n).cyc,
        csNext := (s.chip.coreOf n).csNext ++ [(bits v 59 57, BitVec.ofNat 32 (scuValue (s.chip.coreOf n) op v))] } ∧
      (∀ m : Nat, m ≠ n → d.coreOf m = s.chip.coreOf m) ∧ d.core.lmem = s.chip.core.lmem) := by
  have hop : bits (setBits v 63 60 op) 63 60 = op := by
    rw [bits_setBits_self]
    omega
  refine answers_of_scuRow hfree hrun fun hslot => ?_
  rw [Chip.scuIssue_counter hslot hop hcounter, scuValue_setBits, bits_setBits_of_lt _ _ _ _ (by decide)]

/-- Settles O24: each row's issue queues its own write, and the OP field of the row leaves the slot's other fields. -/
theorem scuWrites : Obligations.ScuWrites := by
  intro n slot s hfree k v
  have himm : BitVec.ofNat 32 (bits slot.toNat 31 0) = slot.setWidth 32 := BitVec.eq_of_toNat_eq (by simp [bits_eq_div_mod])
  refine ⟨fun i op hi => ?_, ?_, ?_, ?_⟩
  · obtain ⟨rfl, rfl⟩ | ⟨rfl, rfl⟩ | ⟨rfl, rfl⟩ | ⟨rfl, rfl⟩ := hi
    · exact answers_of_counterRow hfree (exec_scuSet n slot s) (by decide)
    · exact answers_of_counterRow hfree (exec_scuAdd n slot s) (by decide)
    · exact answers_of_counterRow hfree (exec_scuSub n slot s) (by decide)
    · exact answers_of_counterRow hfree (exec_ldp n slot s) (by decide)
  · refine (answers_of_scuRow hfree (exec_setk n slot s) fun hslot => ?_).imp fun d hd => hd.1
    rw [Chip.scuIssue_setk hslot (bits_setBits_self _ _ _ _)]
    simp only [bits_setBits_of_lt, bit_setBits_of_lt, Nat.reduceLT]
    rfl
  · refine (answers_of_scuRow hfree (exec_arm n slot s) fun hslot => ?_).imp fun d hd => hd.1
    rw [Chip.scuIssue_arm hslot (bits_setBits_self _ _ _ _)]
    simp only [bits_setBits_of_lt, bit_setBits_of_lt, Nat.reduceLT, himm]
    rfl
  · exact (answers_of_scuRow hfree (exec_scuNop n slot s) fun hslot =>
      Chip.scuIssue_nop hslot (bits_setBits_self _ _ _ _)).imp fun d hd => hd.1

/-! ## The end of a cycle -/

/-- Each comparator follows its source as the counters then stand (R210). -/
theorem Core.scuEnd_follows {k : Core} {x : Cmp} (hx : x ∈ k.scuEnd.ks) : x.val = cmpVal k.scuEnd.cs x.src := by
  obtain ⟨y, -, rfl⟩ := List.mem_map.mp hx
  rfl

theorem Chip.coreOf_nextCycle_ne (c : Chip) {n m : Nat} (h : m ≠ n) : (c.nextCycle n).coreOf m = c.coreOf m := by
  rw [Chip.nextCycle, Chip.coreOf_count, Chip.coreOf_setCore_ne _ _ _ _ h]

/-- Settles O25: the next cycle's core is the one at the end of the SCU's cycle, moved on by one. -/
theorem cycleEnds : Obligations.CycleEnds := by
  intro c n k d
  have hd : d = (c.nextCycle n).coreOf n := rfl
  rw [Chip.nextCycle, Chip.coreOf_count, Chip.coreOf_setCore] at hd
  rw [hd]
  exact ⟨rfl, rfl, rfl, rfl, rfl, rfl, rfl, rfl, fun x => Core.scuEnd_follows, fun m => c.coreOf_nextCycle_ne⟩

/-! ## Vitrine -/

/-- Settles O26: CLEAR writes its own cluster's buffer and finds no error. -/
theorem vitrineClear : Obligations.VitrineClear := by
  intro c s hlive
  refine answers_of_page (exec_vitClear c s) hlive (by rw [Chip.vitClear, Chip.setVit_flt]) ?_
  simp only [Chip.vitOf_keepFz, Chip.vitOf_ctxRefresh, Chip.vitClear, Chip.vitOf_setVit, true_and]
  exact fun j => Chip.vitOf_setVit_ne _ _ _ _

end Sys2Proof.Machine

/-!
Sync counters (R259 to R261): the cycle that is open on a counter, how an operation opens, joins and closes it, and what CNT_SET and
CNT_ADD leave of the rest; the status codes (R246).
-/

namespace Sys2Proof.Machine

/-! ## The open cycle of one counter -/

/-- A counter once the cycle that is open on it has ended: a wrap of the exact result is recorded (R261). -/
def Ctr.closed (x : Ctr) : Ctr :=
  if x.openAt.isNone then x else ⟨x.value, x.wrap || decide (2 ^ 32 ≤ x.exact), none, 0, none, 0⟩

/-- A counter with a new cycle open at time t, before its first operation. -/
def Ctr.opened (x : Ctr) (t : Nat) : Ctr := { x.closed with openAt := some t, base := x.value, top := none, adds := 0 }

/-- A SET joins the open cycle: the largest applies (R260). -/
def Ctr.joinSet (x : Ctr) (v : Nat) : Ctr := { x with top := some (BitVec.ofNat 32 (max (v % 2 ^ 32) (x.top.getD 0).toNat)) }

/-- An ADD joins the open cycle (R260). -/
def Ctr.joinAdd (x : Ctr) (v : Nat) : Ctr := { x with adds := x.adds + v % 2 ^ 32 }

/-- The value follows from the open cycle's operations (R261). -/
def Ctr.settle (x : Ctr) : Ctr := { x with value := BitVec.ofNat 32 x.exact }

theorem Ctr.closed_openAt (x : Ctr) : x.closed.openAt = none := by
  rw [Ctr.closed]
  split
  · exact Option.isNone_iff_eq_none.mp ‹_›
  · rfl

theorem Ctr.closed_value (x : Ctr) : x.closed.value = x.value := by
  rw [Ctr.closed]
  split <;> rfl

theorem Ctr.closed_wrap (x : Ctr) : x.closed.wrap = (x.wrap || (x.openAt.isSome && decide (2 ^ 32 ≤ x.exact))) := by
  rw [Ctr.closed]
  cases x.openAt <;> simp

/-- Whatever operation comes first in a new cycle leaves the cycle's marks. -/
theorem Ctr.newCycle_of_marks {x y : Ctr} {t : Nat} (hopen : y.openAt = some t) (hbase : y.base = x.value)
    (hwrap : y.wrap = x.closed.wrap) : newCycle x y t :=
  ⟨hopen, hbase, hwrap.trans x.closed_wrap⟩

/-- The larger of two words is a word. -/
theorem toNat_ofNat_max (v w : BitVec 32) : (BitVec.ofNat 32 (max v.toNat w.toNat)).toNat = max v.toNat w.toNat := by
  rw [BitVec.toNat_ofNat, Nat.mod_eq_of_lt (max_lt v.isLt w.isLt)]

/-! ## What work on counter k leaves -/

/-- d follows from c by work on counter k: other counters stand, no uncorrectable error is found, and nothing outside the front-end,
the registers and what a report reaches changes. -/
structure Chip.CtrWork (k : Nat) (c d : Chip) : Prop where
  others : ∀ j : Nat, j ≠ k → d.ctrOf j = c.ctrOf j
  due : d.flt.due = c.flt.due
  frame : d = { c with fe := d.fe, regs := d.regs, flt := d.flt, hlt := d.hlt, cur := d.cur }

theorem Chip.CtrWork.refl (k : Nat) (c : Chip) : Chip.CtrWork k c c := ⟨fun _ _ => rfl, rfl, rfl⟩

theorem Chip.CtrWork.trans {k : Nat} {c d e : Chip} (h : Chip.CtrWork k c d) (g : Chip.CtrWork k d e) : Chip.CtrWork k c e :=
  ⟨fun j hj => (g.others j hj).trans (h.others j hj), g.due.trans h.due, by rw [g.frame, h.frame]⟩

theorem Chip.CtrWork.time {k : Nat} {c d : Chip} (h : Chip.CtrWork k c d) : d.time = c.time := by rw [h.frame]

/-- A report reaches no counter. -/
theorem Chip.Reports.ctrOf {c d : Chip} (h : Chip.Reports c d) (j : Nat) : d.ctrOf j = c.ctrOf j := by
  rw [Chip.ctrOf, h.fe, Chip.ctrOf]

theorem Chip.Reports.ctrWork {c d : Chip} (h : Chip.Reports c d) (k : Nat) : Chip.CtrWork k c d := by
  refine ⟨fun j _ => h.ctrOf j, by rw [h.flt], ?_⟩
  obtain ⟨hfz, htime, hpwr, -, hsec, hhom, hbm, hcore, hrd, hfab, hcol, -, -, -⟩ := h
  rw [← hfz, ← htime, ← hpwr, ← hsec, ← hhom, ← hbm, ← hcore, ← hrd, ← hfab, ← hcol]

theorem Chip.setCtr_ctrWork (c : Chip) (k : Nat) (x : Ctr) : Chip.CtrWork k c (c.setCtr k x) :=
  ⟨fun j hj => c.ctrOf_setCtr_ne k x j hj, rfl, rfl⟩

@[simp] theorem Chip.ctrOf_judge (c : Chip) (k j : Nat) : (c.judge k).ctrOf j = c.ctrOf j := rfl

theorem Chip.judge_ctrWork (c : Chip) (k : Nat) : Chip.CtrWork k c (c.judge k) := ⟨fun _ _ => rfl, rfl, rfl⟩

/-- A store of the counter's word may place or take away a fault, no more (R538, R539). -/
theorem Chip.ctrOf_ctrStored (c : Chip) (k target j : Nat) : (c.ctrStored k target).ctrOf j = c.ctrOf j := by
  rw [Chip.ctrStored, Chip.ctrOf, Chip.injWA_fe]
  rfl

theorem Chip.ctrStored_ctrWork (c : Chip) (k target : Nat) : Chip.CtrWork k c (c.ctrStored k target) := by
  refine ⟨fun j _ => c.ctrOf_ctrStored k target j, Chip.injWA_due _ _ _ _, ?_⟩
  obtain ⟨r, p, h⟩ := (c.rewritten (pgCNT (k / 1024)) target (ctrAt k) 4).injWA_only (pgCNT (k / 1024)) target (ctrAt k)
  rw [Chip.ctrStored, h]
  rfl

/-! ## A fault that a read of a counter finds -/

/-- A fault that is found is reported, and reaches no counter. -/
theorem Chip.ctrOf_faultFound (c : Chip) (p : Placed) (e0 e1 i0 i1 j : Nat) :
    (c.faultFound p e0 e1 i0 i1).1.ctrOf j = c.ctrOf j := by
  have herr : (if 0x2600 ≤ p.page ∧ p.page < 0x2640 then c else c.err p.page 1 i0 i1).ctrOf j = c.ctrOf j := by
    split
    · rfl
    · exact (c.err_reports _ _ _ _).ctrOf j
  rw [Chip.faultFound]
  split
  · rfl
  · split
    · exact ((c.count_reports _ _ _).trans (Chip.err_reports _ _ _ _ _)).ctrOf j
    · dsimp only
      split
      · exact herr
      · exact herr

theorem Chip.ctrOf_ctrFound (c : Chip) (k target j : Nat) : (c.ctrFound k target).ctrOf j = c.ctrOf j := by
  rw [Chip.ctrFound]
  induction c.faultsIn (pgCNT (k / 1024)) target (ctrAt k) 4 generalizing c with
  | nil => rfl
  | cons p ps ih => rw [List.foldl_cons, ih, Chip.ctrOf_faultFound]

/-- With no fault placed a read finds none. -/
theorem Chip.ctrFound_nil (c : Chip) (k target : Nat) (h : c.flt.placed = []) : c.ctrFound k target = c := by
  rw [Chip.ctrFound, c.faultsIn_nil _ _ _ _ h, List.foldl_nil]

/-! ## The end of a cycle -/

/-- The end of an open cycle stores the closed counter, reports its wraps, reads the wait list and judges the waits. -/
theorem Chip.ctrClose_open (c : Chip) (k : Nat) (hopen : (c.ctrOf k).openAt.isNone = false) :
    ∃ d, Chip.Reports (c.setCtr k (c.ctrOf k).closed) d ∧ (c.ctrClose k = d.judge k ∨ c.ctrClose k = (d.ctrFound k 1).judge k) := by
  have hwraps : decide (0 < (c.ctrOf k).exact / 2 ^ 32) = decide (2 ^ 32 ≤ (c.ctrOf k).exact) :=
    decide_eq_decide.mpr (Nat.div_pos_iff.trans (and_iff_right (by decide)))
  rw [Chip.ctrClose, Ctr.closed]
  simp only [hopen, Bool.false_eq_true, if_false, hwraps]
  generalize c.setCtr k _ = e
  have hreport : Chip.Reports e (if 0 < (c.ctrOf k).exact / 2 ^ 32 then
      (e.count (pgCNT (k / 1024)) 4 ((c.ctrOf k).exact / 2 ^ 32)).err (pgCNT (k / 1024)) 3 k 0 else e) := by
    split
    · exact (e.count_reports _ _ _).trans (Chip.err_reports _ _ _ _ _)
    · exact .refl e
  refine ⟨_, hreport, ?_⟩
  generalize (if 0 < (c.ctrOf k).exact / 2 ^ 32 then _ else e) = d
  split
  · exact .inr rfl
  · exact .inl rfl

theorem Chip.ctrClose_idle (c : Chip) (k : Nat) (hidle : (c.ctrOf k).openAt.isNone = true) : c.ctrClose k = c := by
  rw [Chip.ctrClose]
  exact if_pos hidle

theorem Ctr.closed_idle (x : Ctr) (hidle : x.openAt.isNone = true) : x.closed = x := if_pos hidle

/-- Every counter after the close reads as after the store of the closed one. -/
theorem Chip.ctrOf_ctrClose_setCtr (c : Chip) (k j : Nat) (hopen : (c.ctrOf k).openAt.isNone = false) :
    (c.ctrClose k).ctrOf j = (c.setCtr k (c.ctrOf k).closed).ctrOf j := by
  obtain ⟨d, hd, hclose | hclose⟩ := c.ctrClose_open k hopen
  · rw [hclose, Chip.ctrOf_judge, hd.ctrOf]
  · rw [hclose, Chip.ctrOf_judge, Chip.ctrOf_ctrFound, hd.ctrOf]

theorem Chip.ctrOf_ctrClose (c : Chip) (k : Nat) : (c.ctrClose k).ctrOf k = (c.ctrOf k).closed := by
  cases hopen : (c.ctrOf k).openAt.isNone with
  | true => rw [c.ctrClose_idle k hopen, Ctr.closed_idle _ hopen]
  | false => rw [c.ctrOf_ctrClose_setCtr k k hopen, Chip.ctrOf_setCtr]

theorem Chip.ctrOf_ctrClose_ne (c : Chip) {k j : Nat} (hj : j ≠ k) : (c.ctrClose k).ctrOf j = c.ctrOf j := by
  cases hopen : (c.ctrOf k).openAt.isNone with
  | true => rw [c.ctrClose_idle k hopen]
  | false => rw [c.ctrOf_ctrClose_setCtr k j hopen, Chip.ctrOf_setCtr_ne _ _ _ _ hj]

/-- With no fault placed the close is work on its counter alone, and leaves the error state. -/
theorem Chip.ctrClose_ctrWork (c : Chip) (k : Nat) (h : c.flt.placed = []) :
    Chip.CtrWork k c (c.ctrClose k) ∧ (c.ctrClose k).flt = c.flt := by
  cases hopen : (c.ctrOf k).openAt.isNone with
  | true =>
    rw [c.ctrClose_idle k hopen]
    exact ⟨.refl k c, rfl⟩
  | false =>
    obtain ⟨d, hd, hclose⟩ := c.ctrClose_open k hopen
    have hjudge : c.ctrClose k = d.judge k := by
      rwa [d.ctrFound_nil k 1 (by rw [hd.flt, Chip.setCtr_flt, h]), or_self] at hclose
    rw [hjudge]
    exact ⟨((c.setCtr_ctrWork k _).trans (hd.ctrWork k)).trans (d.judge_ctrWork k), hd.flt⟩

/-! ## An operation reaches a counter -/

/-- An operation falls into the open cycle only while the clock stands at it (log 40). -/
theorem Chip.ctrSame_open {c : Chip} {k : Nat} (h : (c.ctrSame k).1 = true) : (c.ctrOf k).openAt = some c.time.ns := by
  rw [Chip.ctrSame] at h
  split at h
  · assumption
  · cases h

theorem Chip.ctrSame_reports (c : Chip) (k : Nat) : Chip.Reports c (c.ctrSame k).2 := by
  rw [Chip.ctrSame]
  split
  · exact c.freeVal_reports 1
  · exact .refl c

/-- With no fault placed an operation finds its counter in the cycle that is open at this moment, or in a new one. -/
theorem Chip.ctrOpen_cases (c : Chip) (k : Nat) (h : c.flt.placed = []) :
    Chip.CtrWork k c (c.ctrOpen k) ∧
      ((c.ctrOf k).openAt = some c.time.ns ∧ (c.ctrOpen k).ctrOf k = c.ctrOf k ∨
        (c.ctrOpen k).ctrOf k = (c.ctrOf k).opened c.time.ns) := by
  have hsame := c.ctrSame_reports k
  rw [Chip.ctrOpen]
  dsimp only
  split
  case isTrue hin => exact ⟨hsame.ctrWork k, .inl ⟨Chip.ctrSame_open hin, hsame.ctrOf k⟩⟩
  case isFalse =>
    obtain ⟨hwork, hflt⟩ := (c.ctrSame k).2.ctrClose_ctrWork k (by rw [hsame.flt, h])
    rw [Chip.ctrFound_nil _ k 0 (by rw [hflt, hsame.flt, h])]
    refine ⟨((hsame.ctrWork k).trans hwork).trans (Chip.setCtr_ctrWork _ _ _), .inr ?_⟩
    rw [Chip.ctrOf_setCtr, Chip.ctrOf_ctrClose, hwork.time, hsame.time, hsame.ctrOf, Ctr.opened, Ctr.closed_value]

/-- An operation's result is stored and counted: work on its counter alone, which then holds it. -/
theorem Chip.ctrPut_count_ctrWork (c : Chip) (k page i : Nat) (y : Ctr) :
    Chip.CtrWork k c ((c.ctrPut k y).count page i 1) ∧ ((c.ctrPut k y).count page i 1).ctrOf k = y.settle := by
  have hcount := (c.ctrPut k y).count_reports page i 1
  refine ⟨((c.setCtr_ctrWork k _).trans (Chip.ctrStored_ctrWork _ k 0)).trans (hcount.ctrWork k), ?_⟩
  rw [hcount.ctrOf, Chip.ctrPut, Chip.ctrOf_ctrStored, Chip.ctrOf_setCtr, Ctr.settle]

theorem Chip.ctrSet_fenced (c : Chip) (k v : Nat) (h : c.clFenced (k / 1024) = true) : c.ctrSet k v = c := by
  rw [Chip.ctrSet, if_pos h]

theorem Chip.ctrAdd_fenced (c : Chip) (k v : Nat) (h : c.clFenced (k / 1024) = true) : c.ctrAdd k v = c := by
  rw [Chip.ctrAdd, if_pos h]

theorem Chip.ctrSet_ctrWork (c : Chip) (k v : Nat) (h : c.clFenced (k / 1024) = false) :
    Chip.CtrWork k (c.ctrOpen k) (c.ctrSet k v) ∧ (c.ctrSet k v).ctrOf k = (((c.ctrOpen k).ctrOf k).joinSet v).settle := by
  rw [Chip.ctrSet, h, if_neg Bool.false_ne_true]
  exact (c.ctrOpen k).ctrPut_count_ctrWork k _ _ _

theorem Chip.ctrAdd_ctrWork (c : Chip) (k v : Nat) (h : c.clFenced (k / 1024) = false) :
    Chip.CtrWork k (c.ctrOpen k) (c.ctrAdd k v) ∧ (c.ctrAdd k v).ctrOf k = (((c.ctrOpen k).ctrOf k).joinAdd v).settle := by
  rw [Chip.ctrAdd, h, if_neg Bool.false_ne_true]
  exact (c.ctrOpen k).ctrPut_count_ctrWork k _ _ _

/-! ## The counter rows -/

/-- A command of the die's units in which no uncorrectable error is found answers its operation's state (R522). -/
theorem answers_of_die {i : Instr} {s : State} {f : Chip → Chip} {P : Chip → Prop} (hrun : exec i s = s.die f)
    (hon : s.dieOn = true) (hdue : (f s.chip).flt.due = s.chip.flt.due) (hP : P (keepDie s.chip (f s.chip).ctxRefresh)) :
    Answers i s P := by
  have hsame : s.chip.faultsGo (keepDie s.chip (f s.chip).ctxRefresh) = keepDie s.chip (f s.chip).ctxRefresh :=
    Chip.faultsGo_same hdue
  refine ⟨{ s with chip := keepDie s.chip (f s.chip).ctxRefresh }, ?_, rfl, hP⟩
  rw [hrun, State.die, if_pos hon, hsame]

/-- Work on a counter is all that a command of the die leaves of it. -/
theorem Chip.CtrWork.keepDie {k : Nat} {c d : Chip} (h : Chip.CtrWork k c d) : Chip.CtrWork k c (keepDie c d.ctxRefresh) := by
  refine ⟨h.others, h.due, ?_⟩
  rw [h.frame]
  rfl

/-- A counter row in which its counter ends as g of the cycle that it finds. -/
theorem answers_of_counterOp {i : Instr} {s : State} {k : Nat} {f : Chip → Chip} {g : Ctr → Ctr} (hrun : exec i s = s.die f)
    (hon : s.dieOn = true) (hplaced : s.chip.flt.placed = [])
    (hf : Chip.CtrWork k (s.chip.ctrOpen k) (f s.chip) ∧ (f s.chip).ctrOf k = g ((s.chip.ctrOpen k).ctrOf k)) :
    Answers i s (fun d => Chip.CtrWork k s.chip d ∧
      ((s.chip.ctrOf k).openAt = some s.chip.time.ns ∧ d.ctrOf k = g (s.chip.ctrOf k) ∨
        d.ctrOf k = g ((s.chip.ctrOf k).opened s.chip.time.ns))) := by
  obtain ⟨hopen, hcycle⟩ := s.chip.ctrOpen_cases k hplaced
  obtain ⟨hop, hctr⟩ := hf
  have hwork := hopen.trans hop
  have hkept : (keepDie s.chip (f s.chip).ctxRefresh).ctrOf k = g ((s.chip.ctrOpen k).ctrOf k) := hctr
  refine answers_of_die hrun hon hwork.due ⟨hwork.keepDie, ?_⟩
  rw [hkept]
  obtain ⟨hat, hsame⟩ | hnew := hcycle
  · exact .inl ⟨hat, congrArg g hsame⟩
  · exact .inr (congrArg g hnew)

/-- A row whose operation leaves the part leaves every counter, whether the die works or not. -/
theorem answers_ctrs_of_id {i : Instr} {s : State} {f : Chip → Chip} (hrun : exec i s = s.die f) (hid : f s.chip = s.chip) :
    Answers i s (fun d => d.fe.ctrs = s.chip.fe.ctrs) := by
  cases hon : s.dieOn with
  | true =>
    refine answers_of_die hrun hon (by rw [hid]) ?_
    rw [hid]
    rfl
  | false =>
    refine ⟨s, ?_, rfl, rfl⟩
    rw [hrun, State.die, hon, if_neg Bool.false_ne_true]

/-! ## What the operations make of a counter -/

/-- The largest SET of a cycle applies, then its ADDs (R260). -/
theorem Ctr.value_settle_joinSet (x : Ctr) (v : BitVec 32) :
    (x.joinSet v.toNat).settle.value = BitVec.ofNat 32 (max v.toNat (x.top.getD 0).toNat + x.adds) := by
  simp only [Ctr.settle, Ctr.joinSet, Ctr.exact, Option.getD_some, BitVec.toNat_mod_cancel, toNat_ofNat_max]

theorem Ctr.top_settle_joinSet (x : Ctr) (v : BitVec 32) :
    (x.joinSet v.toNat).settle.top = some (BitVec.ofNat 32 (max v.toNat (x.top.getD 0).toNat)) := by
  simp only [Ctr.settle, Ctr.joinSet, BitVec.toNat_mod_cancel]

/-- An ADD adds to the exact result (R261). -/
theorem Ctr.exact_settle_joinAdd (x : Ctr) (v : BitVec 32) : (x.joinAdd v.toNat).settle.exact = x.exact + v.toNat := by
  simp only [Ctr.settle, Ctr.joinAdd, Ctr.exact, BitVec.toNat_mod_cancel, Nat.add_assoc]

theorem Ctr.exact_opened (x : Ctr) (t : Nat) : (x.opened t).exact = x.value.toNat := rfl

/-- The value is the exact result modulo 2³² (R261). -/
theorem Ctr.value_settle_joinAdd (x : Ctr) (v : BitVec 32) :
    (x.joinAdd v.toNat).settle.value = BitVec.ofNat 32 (x.exact + v.toNat) := by
  rw [← x.exact_settle_joinAdd]
  rfl

/-- In a new cycle a SET stands alone (R260). -/
theorem Ctr.value_settle_joinSet_opened (x : Ctr) (v : BitVec 32) (t : Nat) : ((x.opened t).joinSet v.toNat).settle.value = v := by
  rw [Ctr.value_settle_joinSet]
  simp [Ctr.opened]

theorem Ctr.top_settle_joinSet_opened (x : Ctr) (v : BitVec 32) (t : Nat) : ((x.opened t).joinSet v.toNat).settle.top = some v := by
  rw [Ctr.top_settle_joinSet]
  simp [Ctr.opened]

/-- In a new cycle an ADD adds to the value before it (R261). -/
theorem Ctr.value_settle_joinAdd_opened (x : Ctr) (v : BitVec 32) (t : Nat) :
    ((x.opened t).joinAdd v.toNat).settle.value = x.value + v := by
  rw [Ctr.value_settle_joinAdd, Ctr.exact_opened]
  simp [BitVec.ofNat_add]

theorem Ctr.newCycle_joinSet (x : Ctr) (v t : Nat) : newCycle x ((x.opened t).joinSet v).settle t := Ctr.newCycle_of_marks rfl rfl rfl

theorem Ctr.newCycle_joinAdd (x : Ctr) (v t : Nat) : newCycle x ((x.opened t).joinAdd v).settle t := Ctr.newCycle_of_marks rfl rfl rfl

/-- Settles O20: the SET joins the cycle open at this moment or opens a new one, and works on its own counter alone. -/
theorem counterSet : Obligations.CounterSet := by
  intro k v s x now
  refine ⟨fun hon hplaced hfence => ?_, fun hfence =>
    answers_ctrs_of_id (exec_cntSet k v s) (s.chip.ctrSet_fenced k v.toNat hfence)⟩
  refine (answers_of_counterOp (g := fun y => (y.joinSet v.toNat).settle) (exec_cntSet k v s) hon hplaced
    (s.chip.ctrSet_ctrWork k v.toNat hfence)).imp fun d hd => ?_
  obtain ⟨hwork, ⟨hat, hctr⟩ | hctr⟩ := hd
  · refine ⟨.inr ?_, fun hne => absurd hat hne, hwork.others, hwork.frame⟩
    rw [hctr]
    exact ⟨⟨hat, hat, rfl, rfl⟩, x.top_settle_joinSet v, rfl, x.value_settle_joinSet v⟩
  · have hnew := x.newCycle_joinSet v.toNat now
    rw [← hctr] at hnew
    refine ⟨.inl ⟨hnew, ?_⟩, fun _ => hnew, hwork.others, hwork.frame⟩
    rw [hctr]
    exact ⟨x.value_settle_joinSet_opened v now, x.top_settle_joinSet_opened v now, rfl⟩

/-- Settles O21: the ADD joins the cycle open at this moment or opens a new one; the close of a cycle stores the closed counter. -/
theorem counterAdd : Obligations.CounterAdd := by
  refine ⟨?_, ?_⟩
  · intro k v s x now
    refine ⟨fun hon hplaced hfence => ?_, fun hfence =>
      answers_ctrs_of_id (exec_cntAdd k v s) (s.chip.ctrAdd_fenced k v.toNat hfence)⟩
    refine (answers_of_counterOp (g := fun y => (y.joinAdd v.toNat).settle) (exec_cntAdd k v s) hon hplaced
      (s.chip.ctrAdd_ctrWork k v.toNat hfence)).imp fun d hd => ?_
    obtain ⟨hwork, ⟨hat, hctr⟩ | hctr⟩ := hd
    · refine ⟨.inr ?_, fun hne => absurd hat hne, hwork.others, hwork.frame⟩
      rw [hctr]
      exact ⟨⟨hat, hat, rfl, rfl⟩, x.exact_settle_joinAdd v, rfl⟩
    · have hnew := x.newCycle_joinAdd v.toNat now
      rw [← hctr] at hnew
      refine ⟨.inl ⟨hnew, ?_⟩, fun _ => hnew, hwork.others, hwork.frame⟩
      rw [hctr]
      exact ⟨x.value_settle_joinAdd_opened v now, (x.opened now).exact_settle_joinAdd v⟩
  · intro c k x y
    have hy : y = x.closed := c.ctrOf_ctrClose k
    rw [hy]
    exact ⟨x.closed_openAt, x.closed_value, x.closed_wrap, fun j => c.ctrOf_ctrClose_ne⟩

/-! ## Status codes (R246) -/

theorem Status.code_lt (s : Status) : s.code < 12 := by
  cases s <;> decide

theorem Status.ofCode_code (s : Status) : Status.ofCode s.code = s := by
  cases s <;> rfl

/-- Settles O23: the codes are R246's table, whose inverse is `Status.ofCode`. -/
theorem statusCodes : Obligations.StatusCodes :=
  ⟨fun s => ⟨s.code_lt, s.ofCode_code⟩, rfl, rfl, rfl, rfl, rfl, rfl, rfl, rfl, rfl, rfl, rfl, rfl⟩

end Sys2Proof.Machine

/-!
Bytes at their homes in one tile (R292).
-/

namespace Sys2Proof.Machine

/-! ## One byte at its home -/

/-- A byte stored at its home: the SRAM slot of a tile that stands in one, else LPDDR5X (R292). -/
def Chip.putByte (c : Chip) (a : Nat) (b : BitVec 8) : Chip :=
  if (c.tileOf (a / 32768)).tier then
    { c with hom.sram := Mem.write c.hom.sram ((c.tileOf (a / 32768)).slot * 32768 + a % 32768) b }
  else { c with hom.lp := Mem.write c.hom.lp a b }

theorem Chip.putBytes_cons (c : Chip) (a : Nat) (b : BitVec 8) (bs : List (BitVec 8)) :
    c.putBytes a (b :: bs) = (c.putByte a b).putBytes (a + 1) bs := rfl

theorem Chip.bytesAt_succ (c : Chip) (a n : Nat) : c.bytesAt a (n + 1) = c.byteAt a :: c.bytesAt (a + 1) n := by
  simp [Chip.bytesAt, List.range_succ_eq_map, Function.comp_def, Nat.add_comm 1, Nat.add_assoc]

/-- Below the system area a byte is read at its tile's home. -/
theorem Chip.byteAt_of_lt (c : Chip) {a : Nat} (h : a < 0xBFF0000000) : c.byteAt a =
    if (c.tileOf (a / 32768)).tier then Mem.read c.hom.sram ((c.tileOf (a / 32768)).slot * 32768 + a % 32768)
    else Mem.read c.hom.lp a := by
  rw [Chip.byteAt, if_neg (by omega)]

@[simp] theorem Chip.putByte_hom_tiles (c : Chip) (a : Nat) (b : BitVec 8) : (c.putByte a b).hom.tiles = c.hom.tiles := by
  rw [Chip.putByte]
  split <;> rfl

@[simp] theorem Chip.tileOf_putByte (c : Chip) (a : Nat) (b : BitVec 8) (n : Nat) :
    (c.putByte a b).tileOf n = c.tileOf n := by
  rw [Chip.tileOf, Chip.putByte_hom_tiles, Chip.tileOf]

/-- A stored byte is what a read within its tile finds at its address; the tile's other bytes stand. -/
theorem Chip.byteAt_putByte (c : Chip) {a x : Nat} (b : BitVec 8) (hx : x < 0xBFF0000000) (htile : x / 32768 = a / 32768) :
    (c.putByte a b).byteAt x = if x = a then b else c.byteAt x := by
  rw [Chip.byteAt_of_lt _ hx, Chip.byteAt_of_lt _ hx, Chip.tileOf_putByte, htile, Chip.putByte]
  have hoff (k : Nat) : k * 32768 + x % 32768 = k * 32768 + a % 32768 ↔ x = a := by omega
  split
  case isTrue => simp only [Mem.read_write, hoff]
  case isFalse => simp only [Mem.read_write]

/-! ## Consecutive bytes of one tile -/

theorem Chip.putBytes_hom_tiles (c : Chip) (a : Nat) (bs : List (BitVec 8)) : (c.putBytes a bs).hom.tiles = c.hom.tiles := by
  induction bs generalizing c a with
  | nil => rfl
  | cons b bs ih => rw [Chip.putBytes_cons, ih, Chip.putByte_hom_tiles]

/-- Bytes stored further on in a tile leave the byte at x. -/
theorem Chip.byteAt_putBytes_of_lt (c : Chip) {a x : Nat} {bs : List (BitVec 8)} (hx : x < 0xBFF0000000) (hlt : x < a)
    (hfit : a + bs.length ≤ (x / 32768 + 1) * 32768) : (c.putBytes a bs).byteAt x = c.byteAt x := by
  induction bs generalizing c a with
  | nil => rfl
  | cons b bs ih =>
    rw [List.length_cons] at hfit
    rw [Chip.putBytes_cons, ih _ (by omega) (by omega), Chip.byteAt_putByte c b hx (by omega), if_neg (by omega)]

/-- Bytes stored in one tile below the system area read back. -/
theorem Chip.bytesAt_putBytes (c : Chip) {a : Nat} {bs : List (BitVec 8)} (hfit : a % 32768 + bs.length ≤ 32768)
    (hend : a + bs.length ≤ 0xBFF0000000) : (c.putBytes a bs).bytesAt a bs.length = bs := by
  induction bs generalizing c a with
  | nil => rfl
  | cons b bs ih =>
    rw [List.length_cons] at hfit hend
    have hhead : ((c.putByte a b).putBytes (a + 1) bs).byteAt a = b := by
      rw [Chip.byteAt_putBytes_of_lt _ (by omega) (by omega) (by omega), Chip.byteAt_putByte c b (by omega) rfl, if_pos rfl]
    rw [Chip.putBytes_cons, List.length_cons, Chip.bytesAt_succ, hhead, ih _ (by omega) (by omega)]

/-- Settles O33: each byte is stored at its own address of its tile's home, and no store moves a tile. -/
theorem tileReadsBack : Obligations.TileReadsBack :=
  fun c a bs hfit hend => ⟨c.bytesAt_putBytes hfit hend, c.putBytes_hom_tiles a bs⟩

end Sys2Proof.Machine

/-!
A clock that stands (R444): no time passes at a rate of 0, and a package's deep sleep (R511) does not come.
-/

namespace Sys2Proof.Machine

/-- With no counter cycle open, no Vitrine and no core in use, the passing of time moves the clock alone. -/
theorem Chip.pass_of_units_unused (c : Chip) (n : Nat) (hctrs : c.fe.ctrs = []) (hvits : c.core.vits = [])
    (hcores : c.core.cores = []) : c.pass n = { c.later n with fz := c.fz } := by
  have hclose : c.ctrsClose = c := by rw [Chip.ctrsClose, hctrs]; rfl
  have hcore : (c.later n).core = c.core := by
    rw [Chip.later]
    split <;> rfl
  have hdrain (k : Nat) : (c.later n).vitsDrain k = c.later n := by
    rw [Chip.vitsDrain, hcore, hvits, List.foldl_nil, ite_self]
  have hstart : (c.later n).coresStart = c.later n := by rw [Chip.coresStart, hcore, hcores]; rfl
  rw [Chip.pass]
  dsimp only
  rw [hclose, hdrain, hstart]

/-- At a rate of 0 the clock and the timebase stand. -/
theorem Chip.later_of_rate_zero (c : Chip) (n : Nat) (haux : c.pwr.aux12 = true) (hfrac : c.time.frac = 0) (hrate : c.rate = 0) :
    c.later n = c := by
  obtain ⟨fz, regs, ⟨⟩⟩ := c
  subst hfrac
  rw [Chip.later, if_neg (not_not_intro haux), hrate]
  simp

/-- Before its 1 s of self-refresh has passed a package does not go to deep sleep (R511). -/
theorem Chip.lpDeepSleep_early (c : Chip) (s : Nat) (hearly : c.time.ns < c.pwr.standbyAt + 1000000000) :
    c.lpDeepSleep s = c := by
  rw [Chip.lpDeepSleep]
  exact if_neg fun ⟨_, _, hdue⟩ => absurd hdue (Nat.not_le_of_gt hearly)

/-- A health that stands is not reported (R447). -/
theorem Chip.healthGo_of_healthNow (c : Chip) (h : c.healthNow = c.cur.health) : c.healthGo = c := if_pos h

/-- The part in STANDBY since time 0 with package 0 in self-refresh, its TBS_RATE at −10⁹ ppb. -/
def clockStands : Chip :=
  (({ Chip.reset with pwr.st := .standby }).setShu 0 { Chip.reset.shuOf 0 with lp := 2 }).setReg pgTBS 0x21C (ofSigned 32 (-1000000000))

theorem clockStands_rate : clockStands.rate = 0 := by decide

/-- However long an event is waited for, nothing changes. -/
theorem clockStands_passTo (t : Nat) : clockStands.passTo t = clockStands := by
  rw [Chip.passTo, Chip.pass_of_units_unused _ _ rfl rfl rfl, Chip.later_of_rate_zero _ _ rfl rfl clockStands_rate]
  exact ite_self _

theorem clockStands_keepFences : keepFences clockStands clockStands = clockStands := rfl

theorem clockStands_healthNow : clockStands.healthNow = clockStands.cur.health := by decide +kernel

/-- LP_DEEP_SLEEP answers the same part: package 0 stays in self-refresh. -/
theorem exec_lpDeepSleep_clockStands : exec (.lpDeepSleep 0) ⟨clockStands, []⟩ = .next ⟨clockStands, []⟩ := by
  have hearly : clockStands.lpDeepSleep 0 = clockStands := Chip.lpDeepSleep_early _ _ (by decide)
  rw [exec_lpDeepSleep, State.power]
  simp only [Fin.val_zero, clockStands_passTo, hearly, clockStands_keepFences, Chip.healthGo_of_healthNow _ clockStands_healthNow,
    Chip.faultsGo_same]

/-- Refutes O32: its last clause asks LP_DEEP_SLEEP of every state in STANDBY, also of one whose clock stands. R445 clamps the rate
of a pulse to ±500,000 ppb; the statement asks nothing of TBS_RATE, and at −10⁹ ppb the 1 s of R511 never passes. -/
theorem not_packageStates : ¬ Obligations.PackageStates := by
  unfold Obligations.PackageStates
  intro h
  obtain ⟨-, -, hsleep⟩ := h 0 0 ⟨clockStands, []⟩
  obtain ⟨t, hrun, -, hshu, -⟩ := hsleep rfl rfl rfl
  rw [exec_lpDeepSleep_clockStands] at hrun
  cases hrun
  have hlp : (2 : Nat) = 3 := congrArg Shu.lp hshu
  exact absurd hlp (by decide)

end Sys2Proof.Machine

/-!
Buffers and mailboxes: the null handle (R332), a mailbox's lock (R344) and TAKE (R344, R345).
-/

namespace Sys2Proof.Machine

/-! ## The null handle (R332) -/

/-- A command of the die whose operation leaves the part changes no more than how its contexts stand. -/
theorem answers_frame_of_die_id {i : Instr} {s : State} {f : Chip → Chip} (hrun : exec i s = s.die f) (hid : f s.chip = s.chip) :
    Answers i s (fun d => d = { s.chip with fe := d.fe } ∧ d.fe = { s.chip.fe with ctxs := d.fe.ctxs }) := by
  cases hon : s.dieOn with
  | true => exact answers_of_die hrun hon (by rw [hid]) (by rw [hid]; exact ⟨rfl, rfl⟩)
  | false =>
    refine ⟨s, ?_, rfl, rfl, rfl⟩
    rw [hrun, State.die, hon, if_neg Bool.false_ne_true]

theorem Chip.bufRetain_null (c : Chip) {hd : Nat} (job : Option Nat) (i0 : Nat) (hnull : hd % 256 = 0) :
    c.bufRetain hd job i0 = (.ok, c) := by
  rw [Chip.bufRetain, if_pos hnull]

theorem Chip.bufRelease_null (c : Chip) {hd : Nat} (job : Option Nat) (i0 : Nat) (hnull : hd % 256 = 0) :
    c.bufRelease hd job i0 = (.ok, c) := by
  rw [Chip.bufRelease, if_pos hnull]

/-- Settles O34: both operations answer the part as it is. -/
theorem nullHandle : Obligations.NullHandle := by
  intro who h s hnull
  exact ⟨answers_frame_of_die_id (exec_bufRetain who h s) (by rw [Chip.bufRetain_null _ _ _ hnull]),
    answers_frame_of_die_id (exec_bufRelease who h s) (by rw [Chip.bufRelease_null _ _ _ hnull])⟩

/-! ## Work on one mailbox -/

/-- d follows from c by work on mailbox b that leaves it as m: the other mailboxes, the memory and the error state stand. -/
structure Chip.MbxWork (b : Nat) (m : Mbx) (c d : Chip) : Prop where
  own : d.mbxOf b = m
  others : ∀ j : Nat, j ≠ b → d.mbxOf j = c.mbxOf j
  hom : d.hom = c.hom
  flt : d.flt = c.flt

/-- A report reaches no mailbox. -/
theorem Chip.Reports.mbxOf {c d : Chip} (h : Chip.Reports c d) (j : Nat) : d.mbxOf j = c.mbxOf j := by
  rw [Chip.mbxOf, h.bm, Chip.mbxOf]

theorem Chip.Reports.mbxWork {c d : Chip} (h : Chip.Reports c d) (b : Nat) : Chip.MbxWork b (c.mbxOf b) c d :=
  ⟨h.mbxOf b, fun j _ => h.mbxOf j, h.hom, h.flt⟩

/-- A store of mailbox b, with what is reported after it. -/
theorem Chip.Reports.mbxWork_setMbx {c d : Chip} {b : Nat} {m : Mbx} (h : Chip.Reports (c.setMbx b m) d) :
    Chip.MbxWork b m c d :=
  ⟨by rw [h.mbxOf, Chip.mbxOf_setMbx], fun j hj => by rw [h.mbxOf, Chip.mbxOf_setMbx_ne _ _ _ _ hj], h.hom, h.flt⟩

/-- A mailbox row of a die that works leaves of the mailboxes what its operation leaves. -/
theorem answers_of_mbxWork {i : Instr} {s : State} {f : Chip → Chip} {b : Nat} {m : Mbx} (hrun : exec i s = s.die f)
    (hon : s.dieOn = true) (hwork : Chip.MbxWork b m s.chip (f s.chip)) :
    Answers i s (fun d => d.mbxOf b = m ∧ (∀ j : Nat, j ≠ b → d.mbxOf j = s.chip.mbxOf j) ∧ d.hom = s.chip.hom) :=
  answers_of_die hrun hon (by rw [hwork.flt]) ⟨hwork.own, hwork.others, hwork.hom⟩

/-- With no fault placed a read of a mailbox meets none. -/
theorem Chip.mbxMeet_nil (c : Chip) (b : Nat) (hplaced : c.flt.placed = []) : c.mbxMeet b = (c, false) :=
  c.injR_nil _ _ _ _ hplaced

/-! ## The lock (R344) and TAKE (R344, R345) of a mailbox that is not fenced -/

/-- What TAKE leaves of a core mailbox: its lock's owner empties it and frees the lock. -/
def Mbx.coreTaken (x : Mbx) (who : Nat) : Mbx :=
  if x.owner = who ∧ who ≠ 0 then { x with full := false, taken := x.seq, owner := 0 } else x

/-- What TAKE leaves of a cluster mailbox: the current SEQ empties it. -/
def Mbx.clusterTaken (x : Mbx) (seq : Nat) : Mbx :=
  if x.seq.toNat = seq then { x with full := false, collision := false, taken := x.seq } else x

section Unfenced

variable {c : Chip} {b : Nat} (hfence : c.clFenced (mbxCluster b) = false)

include hfence

/-- A LOCK read takes a free lock and leaves a held one. -/
theorem Chip.mbxLock_mbxWork (who : Nat) (hcore : b < 2048) (hplaced : c.flt.placed = []) :
    Chip.MbxWork b { c.mbxOf b with owner := if (c.mbxOf b).owner = 0 then who else (c.mbxOf b).owner } c (c.mbxLock who b).2 := by
  simp only [Chip.mbxLock, hfence, Bool.false_eq_true, if_false, if_neg hcore.not_ge, c.mbxMeet_nil b hplaced]
  by_cases hfree : (c.mbxOf b).owner = 0
  · simp only [if_pos hfree]
    exact (Chip.count_reports _ _ _ _).mbxWork_setMbx
  · simp only [if_neg hfree]
    exact (c.count_reports _ _ _).mbxWork b

/-- A release that is refused is counted and reported alone; the number 0 holds no lock, and its release of a free one leaves it. -/
theorem Chip.mbxRelease_mbxWork (who : Nat) (hcore : b < 2048) :
    Chip.MbxWork b { c.mbxOf b with owner := if (c.mbxOf b).owner = who then 0 else (c.mbxOf b).owner } c (c.mbxRelease who b) := by
  simp only [Chip.mbxRelease, hfence, Bool.false_eq_true, if_false, if_neg hcore.not_ge]
  by_cases howns : (c.mbxOf b).owner = who ∧ who ≠ 0
  · rw [if_pos howns, if_pos howns.1]
    exact (Chip.Reports.refl _).mbxWork_setMbx
  · have hsame : (if (c.mbxOf b).owner = who then 0 else (c.mbxOf b).owner) = (c.mbxOf b).owner := by
      split <;> omega
    rw [if_neg howns, hsame]
    exact ((c.count_reports _ _ _).trans (Chip.err_reports _ _ _ _ _)).mbxWork b

theorem Chip.mbxBreak_mbxWork (hcore : b < 2048) :
    Chip.MbxWork b { c.mbxOf b with owner := 0 } c (c.mbxBreak b) := by
  simp only [Chip.mbxBreak, hfence, Bool.false_eq_true, if_false, if_neg hcore.not_ge]
  exact (Chip.count_reports _ _ _ _).mbxWork_setMbx

theorem Chip.mbxTake_core_mbxWork (who seq : Nat) (hcore : b < 2048) (hplaced : c.flt.placed = []) :
    Chip.MbxWork b ((c.mbxOf b).coreTaken who) c (c.mbxTake who b seq) := by
  simp only [Chip.mbxTake, hfence, Bool.false_eq_true, if_false, if_neg hcore.not_ge, c.mbxMeet_nil b hplaced, Mbx.coreTaken]
  split
  · exact (Chip.count_reports _ _ _ _).mbxWork_setMbx
  · exact ((c.count_reports _ _ _).trans (Chip.err_reports _ _ _ _ _)).mbxWork b

theorem Chip.mbxTake_cluster_mbxWork (who seq : Nat) (hcluster : 2048 ≤ b) (hplaced : c.flt.placed = []) :
    Chip.MbxWork b ((c.mbxOf b).clusterTaken seq) c (c.mbxTake who b seq) := by
  simp only [Chip.mbxTake, hfence, Bool.false_eq_true, if_false, if_pos hcluster, c.mbxMeet_nil b hplaced, Mbx.clusterTaken]
  split
  · exact (Chip.count_reports _ _ _ _).mbxWork_setMbx
  · exact (c.count_reports _ _ _).mbxWork b

end Unfenced

/-- Settles O35: each row's operation is work on its own mailbox that changes the lock alone. -/
theorem mailboxLock : Obligations.MailboxLock := by
  intro who b s hon hplaced hcore hfence x others
  exact ⟨answers_of_mbxWork (exec_mbxLock who b s) hon (Chip.mbxLock_mbxWork hfence (lockNo who) hcore hplaced),
    answers_of_mbxWork (exec_mbxRelease who b s) hon (Chip.mbxRelease_mbxWork hfence (lockNo who) hcore),
    answers_of_mbxWork (exec_mbxBreak who b s) hon (Chip.mbxBreak_mbxWork hfence hcore)⟩

/-- Settles O36: TAKE is work on its own mailbox, by the owner of a core mailbox or under the SEQ of a cluster mailbox. -/
theorem mailboxTake : Obligations.MailboxTake := by
  intro who b seq s hon hplaced hfence x
  have hrun := exec_mbxTake who b seq s
  rcases Nat.lt_or_ge b.val 2048 with hcore | hcluster
  · refine (answers_of_mbxWork hrun hon (Chip.mbxTake_core_mbxWork hfence _ _ hcore hplaced)).imp fun d ⟨hown, hrest⟩ =>
      ⟨fun _ howner hheld => ?_, fun hge => absurd hcore hge.not_gt, fun hother => ?_, hrest⟩
    · rw [hown, Mbx.coreTaken, if_pos ⟨howner, howner ▸ hheld⟩]
    · have hnot : ¬ (x.owner = lockNo who ∧ lockNo who ≠ 0) := by omega
      rw [hown, Mbx.coreTaken, if_neg hnot]
  · refine (answers_of_mbxWork hrun hon (Chip.mbxTake_cluster_mbxWork hfence _ _ hcluster hplaced)).imp fun d ⟨hown, hrest⟩ =>
      ⟨fun hlt => absurd hlt hcluster.not_gt, fun _ hseq => ?_, fun hother => ?_, hrest⟩
    · rw [hown, Mbx.clusterTaken, if_pos (congrArg BitVec.toNat hseq)]
    · have hnot : x.seq.toNat ≠ seq.toNat := by
        obtain ⟨hlt, -⟩ | ⟨-, hseq⟩ := hother
        · exact absurd hlt hcluster.not_gt
        · exact mt BitVec.eq_of_toNat_eq hseq
      rw [hown, Mbx.clusterTaken, if_neg hnot]

end Sys2Proof.Machine

/-!
Numbers made of fields, and the fields of packet headers (R365) and completion records (R245).
-/

namespace Sys2Proof.Machine

/-! ## A number made of fields -/

/-- The number whose fields, from bit 0 up, have these widths and values. -/
def ofFields : List (Nat × Nat) → Nat
  | [] => 0
  | (w, x) :: fs => x % 2 ^ w + 2 ^ w * ofFields fs

/-- The lowest field reads back at the bits from 0. -/
theorem bits_ofFields_lowest {w x hi : Nat} (fs : List (Nat × Nat)) (hhi : hi + 1 = w) (hx : x < 2 ^ w) :
    bits (ofFields ((w, x) :: fs)) hi 0 = x := by
  rw [bits_eq_div_mod, ofFields, Nat.pow_zero, Nat.div_one, Nat.sub_zero, hhi, Nat.add_mul_mod_self_left, Nat.mod_mod,
    Nat.mod_eq_of_lt hx]

/-- The bits above the lowest field are those of the other fields. -/
theorem bits_ofFields_above {w lo hi : Nat} (x : Nat) (fs : List (Nat × Nat)) (hlo : w ≤ lo) (hhi : lo ≤ hi) :
    bits (ofFields ((w, x) :: fs)) hi lo = bits (ofFields fs) (hi - w) (lo - w) := by
  have hlow : x % 2 ^ w / 2 ^ w = 0 := Nat.div_eq_of_lt (Nat.mod_lt x (Nat.two_pow_pos w))
  have hdiv : ofFields ((w, x) :: fs) / 2 ^ lo = ofFields fs / 2 ^ (lo - w) := by
    rw [← Nat.add_sub_of_le hlo, Nat.pow_add, ← Nat.div_div_eq_div_mul, ofFields, Nat.add_mul_div_left _ _ (Nat.two_pow_pos w), hlow,
      Nat.zero_add, Nat.add_sub_cancel_left]
  have hwidth : hi + 1 - lo = hi - w + 1 - (lo - w) := by omega
  rw [bits_eq_div_mod, bits_eq_div_mod, hdiv, hwidth]

/-! ## Headers and records as fields -/

theorem vcOf_lt (cls : Nat) : vcOf cls < 8 := by
  unfold vcOf
  split_ifs <;> decide

theorem b2n_lt (b : Bool) : b2n b < 2 := by cases b <;> decide

/-- The fields of a header that its sender gives, from bit 0 up (R365). -/
def hdrFields (cls node addr job len epoch : Nat) (ctr : Option Nat) (ord : Bool) : List (Nat × Nat) :=
  [(34, 0), (8, epoch), (4, cls), (3, vcOf cls), (1, b2n ord), (1, b2n ctr.isSome), (16, ctr.getD 0), (12, len), (15, 0), (16, job),
    (18, 0), (46, addr), (18, node), (64, 0)]

theorem mkHdr_toNat {cls len : Nat} (node addr job epoch : Nat) (ctr : Option Nat) (ord : Bool) (hcls : cls < 16) (hlen : len < 2 ^ 12) :
    (mkHdr cls node addr job len epoch ctr ord).toNat = ofFields (hdrFields cls node addr job len epoch ctr ord) := by
  have hvc := vcOf_lt cls
  have hord := b2n_lt ord
  have hcv := b2n_lt ctr.isSome
  simp only [mkHdr, BitVec.toNat_ofNat, hdrFields, ofFields, Nat.shiftLeft_eq]
  omega

/-- The fields of a completion record, from bit 0 up (R245). -/
def Cmd.recordFields (k : Cmd) : List (Nat × Nat) :=
  [(8, 1), (32, k.info.toNat), (40, k.endAt.toNat % 2 ^ 40), (4, 0), (4, k.type), (8, k.status.code), (32, k.tag.toNat)]

theorem Cmd.record_eq_ofFields (k : Cmd) : k.record = ofFields k.recordFields := by
  have hinfo := k.info.isLt
  have htag := k.tag.isLt
  have hcode := k.status.code_lt
  simp only [Cmd.record, Cmd.recordFields, ofFields, Nat.shiftLeft_eq]
  omega

theorem Cmd.record_lt (k : Cmd) : k.record < 2 ^ 128 := by
  simp only [k.record_eq_ofFields, Cmd.recordFields, ofFields]
  omega

/-- Settles O39: a header and a record are numbers made of their fields, each of which reads back at its bits. -/
theorem headerAndRecordFields : Obligations.HeaderAndRecordFields := by
  refine ⟨fun cls node addr job len epoch ctr ord hcls hnode haddr hjob hlen hepoch hctr => ?_, fun k htype => ?_⟩
  · have hvalue : ctr.getD 0 < 65536 := by
      cases ctr with
      | none => decide
      | some n => exact hctr n rfl
    have hvc := vcOf_lt cls
    have hord := b2n_lt ord
    have hcv := b2n_lt ctr.isSome
    simp only [hf, mkHdr_toNat node addr job epoch ctr ord hcls hlen, hdrFields]
    simp (disch := omega) only [bits_ofFields_above, bits_ofFields_lowest, Nat.reduceSub, and_self]
  · have hinfo := k.info.isLt
    have htag := k.tag.isLt
    have hcode := k.status.code_lt
    refine ⟨k.record_lt, ?_⟩
    simp only [Cmd.record_eq_ofFields, Cmd.recordFields]
    simp (disch := omega) only [bits_ofFields_above, bits_ofFields_lowest, Nat.reduceSub, and_self]

end Sys2Proof.Machine

/-!
The egress arbiter of a port (R381): each rank has one packet at most to offer, and the arbiter goes through the ranks in order.
-/

namespace Sys2Proof.Machine

/-! ## What a port offers -/

/-- Packets that queue together with p: those of its channel, for VC0 and VC3 those of its level. -/
def EPkt.lane (p q : EPkt) : Bool := decide (q.ch = p.ch) && (decide (egressRank p < 3) || q.lc == p.lc)

/-- A packet is the first one of its lane and can be sent. -/
def Port.offers (x : Port) (p : EPkt) : Prop := isHead x p ∧ x.canSend p = true

/-- The first queued packet that f selects, where it can be sent. -/
def Port.firstOf (x : Port) (f : EPkt → Bool) : Option EPkt := (x.queue.find? f).filter (fun p => x.canSend p)

theorem isHead_iff (x : Port) (p : EPkt) : isHead x p ↔ x.queue.find? p.lane = some p := .rfl

theorem Port.mem_of_offers {x : Port} {p : EPkt} (h : x.offers p) : p ∈ x.queue := List.mem_of_find?_eq_some h.1

/-- The first packet that f selects is the one that is offered with P, where f selects the lane of each packet with P. -/
theorem Port.firstOf_eq_some_iff {f : EPkt → Bool} {P : EPkt → Prop} (hlane : ∀ p, P p → p.lane = f) (hf : ∀ p, f p = true → P p)
    (x : Port) (p : EPkt) : x.firstOf f = some p ↔ x.offers p ∧ P p := by
  rw [Port.firstOf, Option.filter_eq_some_iff, Port.offers, isHead_iff]
  constructor
  · rintro ⟨hfind, hsend⟩
    have hP : P p := hf p (List.find?_some hfind)
    exact ⟨⟨hlane p hP ▸ hfind, hsend⟩, hP⟩
  · rintro ⟨⟨hhead, hsend⟩, hP⟩
    exact ⟨hlane p hP ▸ hhead, hsend⟩

/-! ## Ranks -/

theorem egressRank_le (p : EPkt) : egressRank p ≤ 4 := by
  unfold egressRank
  split_ifs <;> decide

theorem egressRank_eq_zero_iff (p : EPkt) : egressRank p = 0 ↔ p.ch = 1 := by
  unfold egressRank
  split_ifs <;> simp_all

theorem egressRank_eq_one_iff (p : EPkt) : egressRank p = 1 ↔ p.ch = 4 := by
  unfold egressRank
  split_ifs <;> simp_all

theorem egressRank_eq_two_iff (p : EPkt) : egressRank p = 2 ↔ p.ch = 2 := by
  unfold egressRank
  split_ifs <;> simp_all

/-- The rank that VC0 and VC3 share at a level. -/
def levelRank (lc : Bool) : Nat := if lc then 3 else 4

theorem three_le_levelRank (lc : Bool) : 3 ≤ levelRank lc := by cases lc <;> decide

theorem levelRank_injective : Function.Injective levelRank := by decide

theorem egressRank_of_shared {p : EPkt} (hch : p.ch = 0 ∨ p.ch = 3) : egressRank p = levelRank p.lc := by
  rcases hch with hch | hch <;> simp [egressRank, levelRank, hch]

theorem egressRank_of_alone {p : EPkt} (hch : p.ch = 1 ∨ p.ch = 4 ∨ p.ch = 2) : egressRank p < 3 := by
  rcases hch with hch | hch | hch <;> simp [egressRank, hch]

theorem egressRank_eq_levelRank_iff {p : EPkt} (hch : p.ch < 5) (lc : Bool) :
    egressRank p = levelRank lc ↔ p.lc = lc ∧ (p.ch = 0 ∨ p.ch = 3) := by
  have hcases : (p.ch = 0 ∨ p.ch = 3) ∨ p.ch = 1 ∨ p.ch = 4 ∨ p.ch = 2 := by omega
  rcases hcases with hshared | halone
  · rw [egressRank_of_shared hshared, levelRank_injective.eq_iff, and_iff_left hshared]
  · have hlt := egressRank_of_alone halone
    have hge := three_le_levelRank lc
    constructor
    · omega
    · omega

/-! ## One rank -/

/-- The channel of VC0 and VC3 whose turn it is at a level. -/
def Port.turnOf (x : Port) (lc : Bool) : Nat := if (if lc then x.turnLc else x.turn) then 3 else 0

/-- A packet of VC0 or VC3 is of the channel whose turn it is, where that channel offers one at its level. -/
def Port.inTurn (x : Port) (p : EPkt) : Prop :=
  3 ≤ egressRank p → (∃ r, x.offers r ∧ egressRank r = egressRank p ∧ r.ch = x.turnOf p.lc) → p.ch = x.turnOf p.lc

/-- o is the arbiter's answer among the packets of rank n. -/
structure Port.Serves (x : Port) (n : Nat) (o : Option EPkt) : Prop where
  none_offered : o = none → ∀ p, x.offers p → egressRank p ≠ n
  served : ∀ p, o = some p → x.offers p ∧ egressRank p = n ∧ x.inTurn p

/-- A channel that has a rank to itself. -/
theorem Port.serves_channel (x : Port) {n ch : Nat} (hn : n < 3) (hrank : ∀ p, egressRank p = n ↔ p.ch = ch) :
    x.Serves n (x.firstOf (fun p => decide (p.ch = ch))) := by
  have hlane (p : EPkt) (hp : p.ch = ch) : p.lane = fun q => decide (q.ch = ch) := by
    have hlt : egressRank p < 3 := (hrank p).mpr hp ▸ hn
    funext q
    simp [EPkt.lane, hp, hlt]
  have hfirst := Port.firstOf_eq_some_iff (P := fun p => p.ch = ch) hlane (fun p => of_decide_eq_true) x
  constructor
  · intro hnone p hoffers hp
    have hsome := (hfirst p).mpr ⟨hoffers, (hrank p).mp hp⟩
    rw [hnone] at hsome
    cases hsome
  · intro p hsome
    obtain ⟨hoffers, hch⟩ := (hfirst p).mp hsome
    have hp := (hrank p).mpr hch
    exact ⟨hoffers, hp, fun hge => absurd hge (by omega)⟩

/-- What VC0 or VC3 offers at a level. -/
def Port.firstAt (x : Port) (ch : Nat) (lc : Bool) : Option EPkt := x.firstOf (fun p => decide (p.ch = ch) && p.lc == lc)

theorem Port.firstAt_eq_some_iff {x : Port} {ch : Nat} (hch : ch = 0 ∨ ch = 3) (lc : Bool) (p : EPkt) :
    x.firstAt ch lc = some p ↔ x.offers p ∧ p.ch = ch ∧ p.lc = lc := by
  refine Port.firstOf_eq_some_iff (P := fun p => p.ch = ch ∧ p.lc = lc) (fun p ⟨hp, hlc⟩ => ?_) (fun p hp => by simpa using hp) x p
  have hge : ¬ egressRank p < 3 := by
    have hlevel := (egressRank_eq_levelRank_iff (p := p) (by omega) lc).mpr ⟨hlc, by omega⟩
    have := three_le_levelRank lc
    omega
  funext q
  simp [EPkt.lane, hp, hlc, hge]

/-- VC0 and VC3 of a level: the one whose turn it is, else the other. -/
theorem Port.serves_pair {x : Port} (hch : ∀ p ∈ x.queue, p.ch < 5) (lc : Bool) :
    x.Serves (levelRank lc) ((x.firstAt (x.turnOf lc) lc).or (x.firstAt (3 - x.turnOf lc) lc)) := by
  have hturn : x.turnOf lc = 0 ∨ x.turnOf lc = 3 := by
    unfold Port.turnOf
    split_ifs <;> simp
  have hother : 3 - x.turnOf lc = 0 ∨ 3 - x.turnOf lc = 3 := by omega
  have hfirst := Port.firstAt_eq_some_iff (x := x) hturn lc
  have hsecond := Port.firstAt_eq_some_iff (x := x) hother lc
  have hrank {p : EPkt} (hp : x.offers p) := egressRank_eq_levelRank_iff (hch p (Port.mem_of_offers hp)) lc
  constructor
  · intro hnone p hoffers hp
    obtain ⟨hnone1, hnone2⟩ := Option.or_eq_none_iff.mp hnone
    obtain ⟨hlc, hpch⟩ := (hrank hoffers).mp hp
    have hcases : p.ch = x.turnOf lc ∨ p.ch = 3 - x.turnOf lc := by omega
    rcases hcases with hp1 | hp2
    · exact absurd ((hfirst p).mpr ⟨hoffers, hp1, hlc⟩) (by simp [hnone1])
    · exact absurd ((hsecond p).mpr ⟨hoffers, hp2, hlc⟩) (by simp [hnone2])
  · intro p hsome
    rcases Option.or_eq_some_iff.mp hsome with hsome1 | ⟨hnone1, hsome2⟩
    · obtain ⟨hoffers, hp, hlc⟩ := (hfirst p).mp hsome1
      exact ⟨hoffers, (hrank hoffers).mpr ⟨hlc, by omega⟩, fun _ _ => by rw [hp, hlc]⟩
    · obtain ⟨hoffers, hp, hlc⟩ := (hsecond p).mp hsome2
      have hprank := (hrank hoffers).mpr ⟨hlc, by omega⟩
      refine ⟨hoffers, hprank, fun _ ⟨r, hr, hrr, hrch⟩ => ?_⟩
      obtain ⟨hrlc, -⟩ := (hrank hr).mp (hrr.trans hprank)
      rw [hlc] at hrch
      exact absurd ((hfirst r).mpr ⟨hr, hrch, hrlc⟩) (by simp [hnone1])

/-! ## The ranks in order -/

/-- o is the arbiter's answer among the packets of rank n or later. -/
structure Port.ServesFrom (x : Port) (n : Nat) (o : Option EPkt) : Prop where
  none_offered : o = none → ∀ p, x.offers p → egressRank p < n
  served : ∀ p, o = some p → x.offers p ∧ x.inTurn p ∧ n ≤ egressRank p ∧
    ∀ r, x.offers r → n ≤ egressRank r → egressRank p ≤ egressRank r

/-- Rank n goes before the later ones. -/
theorem Port.Serves.or_later {x : Port} {n : Nat} {o o' : Option EPkt} (h : x.Serves n o) (h' : x.ServesFrom (n + 1) o') :
    x.ServesFrom n (o.or o') := by
  cases o with
  | none =>
    have hne := h.none_offered rfl
    rw [Option.none_or]
    refine ⟨fun hnone p hp => ?_, fun p hsome => ?_⟩
    · have := h'.none_offered hnone p hp
      have := hne p hp
      omega
    · obtain ⟨hoffers, hturn, hge, hleast⟩ := h'.served p hsome
      refine ⟨hoffers, hturn, by omega, fun r hr hrge => hleast r hr ?_⟩
      have := hne r hr
      omega
  | some p =>
    obtain ⟨hoffers, hrank, hturn⟩ := h.served p rfl
    rw [Option.some_or]
    refine ⟨nofun, ?_⟩
    rintro _ ⟨⟩
    exact ⟨hoffers, hturn, hrank.ge, fun r _ hge => hrank.trans_le hge⟩

/-- No packet has a rank after the last. -/
theorem Port.servesFrom_none (x : Port) : x.ServesFrom 5 none :=
  ⟨fun _ p _ => Nat.lt_succ_of_le (egressRank_le p), nofun⟩

theorem Port.pick_eq (x : Port) : x.pick =
    (x.firstOf (fun p => decide (p.ch = 1))).or ((x.firstOf (fun p => decide (p.ch = 4))).or ((x.firstOf (fun p => decide (p.ch = 2))).or
      (((x.firstAt (x.turnOf true) true).or (x.firstAt (3 - x.turnOf true) true)).or
        ((x.firstAt (x.turnOf false) false).or (x.firstAt (3 - x.turnOf false) false))))) := by
  unfold Port.pick Port.turnOf
  cases x.turnLc <;> cases x.turn <;> rfl

theorem Port.servesFrom_pick {x : Port} (hch : ∀ p ∈ x.queue, p.ch < 5) : x.ServesFrom 0 x.pick := by
  have hlast := (Port.serves_pair hch false).or_later x.servesFrom_none
  rw [Option.or_none] at hlast
  rw [x.pick_eq]
  exact (x.serves_channel (by decide) egressRank_eq_zero_iff).or_later
    ((x.serves_channel (by decide) egressRank_eq_one_iff).or_later
      ((x.serves_channel (by decide) egressRank_eq_two_iff).or_later ((Port.serves_pair hch true).or_later hlast)))

/-! ## The next turn -/

theorem Port.turned_turnLc (x : Port) (p : EPkt) : (x.turned p).turnLc =
    if p.lc = true ∧ p.ch = 0 then true else if p.lc = true ∧ p.ch = 3 then false else x.turnLc := by
  unfold Port.turned
  cases p.lc <;> simp

theorem Port.turned_turn (x : Port) (p : EPkt) : (x.turned p).turn =
    if p.lc = false ∧ p.ch = 0 then true else if p.lc = false ∧ p.ch = 3 then false else x.turn := by
  unfold Port.turned
  cases p.lc <;> simp

/-- Settles O42: the arbiter serves from rank 0 on. That each level keeps its own turn is the model's reading of R381 (log 153). -/
theorem egressOrder : Obligations.EgressOrder := by
  intro x hch
  have hserves := Port.servesFrom_pick hch
  refine ⟨⟨fun hnone p _ hhead => ?_, fun hall => ?_⟩, fun p hpick => ?_, fun p => ⟨x.turned_turnLc p, x.turned_turn p⟩⟩
  · by_contra hsend
    have hlt := hserves.none_offered hnone p ⟨hhead, by simpa using hsend⟩
    omega
  · by_contra hsome
    obtain ⟨p, hp⟩ := Option.ne_none_iff_exists'.mp hsome
    obtain ⟨hoffers, -⟩ := hserves.served p hp
    have hsend := hall p (Port.mem_of_offers hoffers) hoffers.1
    exact absurd hoffers.2 (by simp [hsend])
  · obtain ⟨hoffers, hturn, -, hleast⟩ := hserves.served p hpick
    exact ⟨Port.mem_of_offers hoffers, hoffers.1, hoffers.2, fun r _ hhead hsend => hleast r ⟨hhead, hsend⟩ (Nat.zero_le _),
      fun hge ⟨r, _, hhead, hsend, hr⟩ => hturn hge ⟨r, ⟨hhead, hsend⟩, hr⟩⟩

end Sys2Proof.Machine

/-!
Admission of jobs (R386): what ADMIT and DRAIN leave of a job's entry.
-/

namespace Sys2Proof.Machine

/-- d follows from c by work on the entry of a job that leaves it as a: the other jobs, the tags and the memory stand, and no
uncorrectable error is found. -/
structure Chip.AdmWork (job : Nat) (a : Adm) (c d : Chip) : Prop where
  own : d.admOf job = a
  others : ∀ j : Nat, j ≠ job → d.admOf j = c.admOf j
  tags : d.fab.tags = c.fab.tags
  hom : d.hom = c.hom
  due : d.flt.due = c.flt.due

theorem Chip.admOf_of_fab {c d : Chip} (h : d.fab = c.fab) (j : Nat) : d.admOf j = c.admOf j := by rw [Chip.admOf, h, Chip.admOf]

/-- Work that leaves the fabric leaves every entry. -/
theorem Chip.admWork_of_fab {c d : Chip} (job : Nat) (hfab : d.fab = c.fab) (hhom : d.hom = c.hom) (hdue : d.flt.due = c.flt.due) :
    Chip.AdmWork job (c.admOf job) c d :=
  ⟨Chip.admOf_of_fab hfab job, fun j _ => Chip.admOf_of_fab hfab j, by rw [hfab], hhom, hdue⟩

theorem Chip.setAdm_admWork (c : Chip) (job : Nat) (a : Adm) : Chip.AdmWork job a c (c.setAdm job a) :=
  ⟨c.admOf_setAdm job a, fun j hj => c.admOf_setAdm_ne job a j hj, rfl, rfl, rfl⟩

theorem Chip.AdmWork.trans {job : Nat} {a b : Adm} {c d e : Chip} (h : Chip.AdmWork job a c d) (g : Chip.AdmWork job b d e) :
    Chip.AdmWork job b c e :=
  ⟨g.own, fun j hj => (g.others j hj).trans (h.others j hj), g.tags.trans h.tags, g.hom.trans h.hom, g.due.trans h.due⟩

/-- Of the operation's state the row keeps all that the work on an entry speaks of. -/
theorem answers_of_admWork {i : Instr} {s : State} {f : Chip → Chip} {job : Nat} {a : Adm} (hrun : exec i s = s.page pgCFB f)
    (hlive : s.chip.pageLive pgCFB = true) (hwork : Chip.AdmWork job a s.chip (f s.chip)) :
    Answers i s (Chip.AdmWork job a s.chip) :=
  answers_of_page hrun hlive hwork.due ⟨hwork.own, hwork.others, hwork.tags, hwork.hom, hwork.due⟩

/-- ADMIT takes a FREE job whose generation is at most seven ahead of its next one, and refuses any other. -/
theorem Chip.admitJob_admWork (c : Chip) (job gen : Nat) :
    let a := c.admOf job
    Chip.AdmWork job (if a.st = 0 ∧ (gen + 16 - a.next) % 16 ≤ 7 then { a with st := 1, gen := gen } else a) c (c.admitJob job gen) := by
  have hinj : Chip.AdmWork job (c.admOf job) c (c.injW pgCFB 0) :=
    Chip.admWork_of_fab job (c.injW_fab _ _) (c.injW_hom _ _) (c.injW_due _ _)
  have hsame := hinj.own
  rw [Chip.admitJob, hsame]
  dsimp only
  split
  · exact hinj.trans (Chip.setAdm_admWork _ _ _)
  · have hbad := Chip.badWrite_reports (c.injW pgCFB 0) pgCFB
    exact hsame ▸ hinj.trans (Chip.admWork_of_fab job hbad.fab hbad.hom (by rw [hbad.flt]))

/-- An entry as DRAIN leaves it while a tag of its job is in use. -/
def Adm.draining (a : Adm) : Adm := { a with st := 2 }

/-- An entry as the end of its job leaves it: FREE, with the next generation to come. -/
def Adm.freed (a : Adm) : Adm := { a with st := 0, next := (a.gen + 1) % 16 }

/-- One of the tags in use is a job's. -/
def Chip.jobInUse (c : Chip) (job : Nat) : Prop := ∃ e ∈ c.fab.tags, ∃ t, e.2 = some t ∧ t.job / 16 = job

/-- A DRAINING job without a tag in use becomes FREE. -/
theorem Chip.admSettle_of_unused {c : Chip} {job : Nat} (hst : (c.admOf job).st = 2) (hunused : ¬ c.jobInUse job) :
    c.admSettle job = c.setAdm job (c.admOf job).freed := by
  rw [Chip.admSettle]
  refine if_pos ⟨hst, List.length_eq_zero_iff.mpr (List.filter_eq_nil_iff.mpr fun e he hjob => ?_)⟩
  cases htag : e.2 with
  | none => simp [htag] at hjob
  | some t => exact hunused ⟨e, he, t, htag, by simpa [htag] using hjob⟩

/-- A job with a tag in use stands. -/
theorem Chip.admSettle_of_inUse {c : Chip} {job : Nat} (hused : c.jobInUse job) : c.admSettle job = c := by
  rw [Chip.admSettle]
  obtain ⟨e, he, t, htag, hjob⟩ := hused
  refine if_neg fun ⟨_, hnone⟩ => ?_
  have hnot := List.filter_eq_nil_iff.mp (List.length_eq_zero_iff.mp hnone) e he
  simp [htag, hjob] at hnot

section Drain

variable {c : Chip} {job : Nat} (hst : (c.admOf job).st = 1)

include hst

theorem Chip.drain_of_admitted : c.drain job = (c.setAdm job (c.admOf job).draining).admSettle job := by
  rw [Chip.drain]
  exact if_pos hst

theorem Chip.drain_admWork_of_inUse (hused : c.jobInUse job) : Chip.AdmWork job (c.admOf job).draining c (c.drain job) := by
  have hused' : (c.setAdm job (c.admOf job).draining).jobInUse job := hused
  rw [Chip.drain_of_admitted hst, Chip.admSettle_of_inUse hused']
  exact c.setAdm_admWork job _

theorem Chip.drain_admWork_of_unused (hunused : ¬ c.jobInUse job) : Chip.AdmWork job (c.admOf job).freed c (c.drain job) := by
  have hunused' : ¬ (c.setAdm job (c.admOf job).draining).jobInUse job := hunused
  have hst' : ((c.setAdm job (c.admOf job).draining).admOf job).st = 2 := by
    rw [Chip.admOf_setAdm]
    rfl
  rw [Chip.drain_of_admitted hst, Chip.admSettle_of_unused hst' hunused', Chip.admOf_setAdm]
  exact (c.setAdm_admWork job _).trans (Chip.setAdm_admWork _ _ _)

end Drain

/-- Settles O38: ADMIT and DRAIN are work on the job's own entry. -/
theorem jobAdmission : Obligations.JobAdmission := by
  intro job gen s hlive a
  have hdrain := exec_drain job s
  refine ⟨?_, fun hst => ?_⟩
  · exact (answers_of_admWork (exec_admitJob job gen s) hlive (Chip.admitJob_admWork _ _ _)).imp
      fun d hwork => ⟨hwork.own, hwork.others, hwork.tags, hwork.hom⟩
  · by_cases hused : s.chip.jobInUse job.toNat
    · exact (answers_of_admWork hdrain hlive (Chip.drain_admWork_of_inUse hst hused)).imp fun d hwork =>
        ⟨fun _ => hwork.own, fun hnone => let ⟨e, he, t, htag, hjob⟩ := hused; absurd hjob (hnone e he t htag), hwork.others⟩
    · exact (answers_of_admWork hdrain hlive (Chip.drain_admWork_of_unused hst hused)).imp fun d hwork =>
        ⟨fun hsome => absurd hsome hused, fun _ => hwork.own, hwork.others⟩

end Sys2Proof.Machine

/-!
SUPPORT. The registers that reports reach: a raised interrupt, a Ledger event and a change of health write registers of the pages
IRQ, HLT, CUR and FLT alone, and an error report those of its own page beside them (R448, R461, R525 to R527, R556).
-/

namespace Sys2Proof.Machine

/-! ## Pages that a report leaves -/

/-- Every register of a page reads in d as in c. -/
def Chip.RegsKept (page : Nat) (c d : Chip) : Prop := ∀ off < 4096, d.reg page off = c.reg page off

/-- The pages of interrupts, of the host link, of the Ledger and of fault injection, where every report may write. -/
def reportPages : List Nat := [pgIRQ, pgHLT, pgCUR, pgFLT]

namespace Chip.RegsKept

variable {page : Nat} {c d e : Chip}

theorem refl (page : Nat) (c : Chip) : Chip.RegsKept page c c := fun _ _ => rfl

theorem trans (h : Chip.RegsKept page c d) (g : Chip.RegsKept page d e) : Chip.RegsKept page c e :=
  fun off hoff => (g off hoff).trans (h off hoff)

theorem of_regs (h : d.regs = c.regs) : Chip.RegsKept page c d := fun off _ => by rw [Chip.reg, h, Chip.reg]

theorem ite {p : Prop} [Decidable p] (hd : Chip.RegsKept page c d) (he : Chip.RegsKept page c e) :
    Chip.RegsKept page c (if p then d else e) := by
  split
  · exact hd
  · exact he

theorem setReg (h : Chip.RegsKept page c d) {page' off : Nat} (v : Nat) (hne : page' ≠ page) (hoff : off < 4096) :
    Chip.RegsKept page c (d.setReg page' off v) :=
  h.trans fun o ho => d.reg_setReg_ne page' off v page o (by omega)

theorem count (h : Chip.RegsKept page c d) {page' i : Nat} (n : Nat) (hne : page' ≠ page) (hi : i < 504) :
    Chip.RegsKept page c (d.count page' i n) := by
  unfold Chip.count
  exact h.ite (.ite (h.setReg _ hne (by omega)) h)

end Chip.RegsKept

section ReportPages

variable {page : Nat} (hpage : page ∉ reportPages)

include hpage

theorem reportPages_ne : pgIRQ ≠ page ∧ pgHLT ≠ page ∧ pgCUR ≠ page ∧ pgFLT ≠ page := by
  simpa [reportPages, eq_comm] using hpage

theorem Chip.hltSend_regsKept (c : Chip) (p : HPkt) : Chip.RegsKept page c (c.hltSend p) := by
  obtain ⟨-, hHLT, -, hFLT⟩ := reportPages_ne hpage
  have hlink (c : Chip) (target : Nat) : Chip.RegsKept page c (c.injLink pgHLT target).2 := by
    unfold Chip.injLink
    dsimp only
    split
    · exact ((RegsKept.refl page c).setReg _ hHLT (by decide)).count _ hFLT (by decide)
    · exact .refl page c
  have hframe : Chip.RegsKept page c (c.injFrame pgHLT) := (hlink c 0).trans (hlink _ 1)
  have hout : Chip.RegsKept page c { c.injFrame pgHLT with hlt.out := (c.injFrame pgHLT).hlt.out ++ [p] } :=
    hframe.trans (.of_regs rfl)
  exact (hout.count _ hHLT (by decide)).count _ hHLT (by decide)

theorem Chip.irqHost_regsKept (c : Chip) (v : Nat) : Chip.RegsKept page c (c.irqHost v) := by
  obtain ⟨hIRQ, hHLT, -, -⟩ := reportPages_ne hpage
  unfold Chip.irqHost
  refine .ite ?_ (.ite ?_ ?_)
  · exact ((c.hltSend_regsKept hpage _).count _ hIRQ (by decide)).count _ hHLT (by decide)
  · exact (RegsKept.refl page c).count _ hIRQ (by decide)
  · exact (RegsKept.of_regs rfl).count _ hIRQ (by decide)

theorem Chip.irqCpx_regsKept (c : Chip) (v : Nat) : Chip.RegsKept page c (c.irqCpx v) := by
  obtain ⟨hIRQ, -⟩ := reportPages_ne hpage
  exact (RegsKept.of_regs rfl).count _ hIRQ (by decide)

theorem Chip.attnSet_regsKept (c : Chip) (n : Nat) : Chip.RegsKept page c (c.attnSet n).1 := by
  obtain ⟨-, -, hCUR, -⟩ := reportPages_ne hpage
  have hset := (RegsKept.refl page c).setReg (off := 0x200) (c.reg pgCUR 0x200 ||| 2 ^ n) hCUR (by decide)
  exact .ite (hset.trans (.of_regs rfl)) hset

theorem Chip.raise0_regsKept (c : Chip) {v : Nat} (hv : v < 512) : Chip.RegsKept page c (c.raise0 v).1 := by
  obtain ⟨hIRQ, -⟩ := reportPages_ne hpage
  unfold Chip.raise0
  split
  · exact .refl page c
  · have hlast := ((RegsKept.refl page c).count (i := 0) 1 hIRQ (by decide)).setReg (off := 0x2C0)
      (((c.count pgIRQ 0 1).time.tb.toNat % 2 ^ 48) <<< 16 + v) hIRQ (by decide)
    dsimp only
    split
    · exact hlast.count _ hIRQ (by decide)
    · have hpend (x : Nat) := hlast.setReg (off := 0x200 + 8 * (v / 64)) x hIRQ (by omega)
      have hhost (x : Nat) := (hpend x).trans (Chip.irqHost_regsKept hpage _ v)
      refine .ite (.trans ?_ (Chip.irqCpx_regsKept hpage _ v)) ?_ <;> exact .ite (hhost _) (hpend _)

theorem Chip.attn_regsKept (c : Chip) (n : Nat) : Chip.RegsKept page c (c.attn n) := by
  unfold Chip.attn
  dsimp only
  have hset := c.attnSet_regsKept hpage n
  have hraise := hset.trans (Chip.raise0_regsKept hpage _ (v := 272) (by decide))
  exact .ite (.ite (hraise.trans (Chip.attnSet_regsKept hpage _ 3)) hraise) hset

theorem Chip.raise_regsKept (c : Chip) {v : Nat} (hv : v < 512) : Chip.RegsKept page c (c.raise v) := by
  have hraise := c.raise0_regsKept hpage hv
  exact .ite (hraise.trans (Chip.attn_regsKept hpage _ 3)) hraise

theorem Chip.raiseBlk_regsKept (c : Chip) (p : Nat) : Chip.RegsKept page c (c.raiseBlk p) := by
  obtain ⟨hIRQ, -⟩ := reportPages_ne hpage
  have hsrc {v : Nat} := (RegsKept.refl page c).setReg (off := 0x2C8) v hIRQ (by decide)
  unfold Chip.raiseBlk
  dsimp only
  refine .trans ?_ (Chip.raise_regsKept hpage _ (by decide))
  exact .ite hsrc hsrc

theorem Chip.lossErr_regsKept (c : Chip) : Chip.RegsKept page c c.lossErr := by
  obtain ⟨-, -, hCUR, -⟩ := reportPages_ne hpage
  have hfree : Chip.RegsKept page c (c.freeVal 32).2 := .of_regs rfl
  have hset (v : Nat) := hfree.setReg (off := 0x010) v hCUR (by decide)
  have hinfo (v : Nat) := ((hset v).setReg (off := 0x020) (c.freeVal 32).1 hCUR (by decide)).setReg (off := 0x024) 0 hCUR (by decide)
  have hblk {d : Chip} (h : Chip.RegsKept page c d) : Chip.RegsKept page c (if bit (d.reg pgCUR 0x01C) 20 then d.raiseBlk pgCUR else d) :=
    .ite (h.trans (d.raiseBlk_regsKept hpage pgCUR)) h
  have hlost {d : Chip} (h : Chip.RegsKept page c d) :
      Chip.RegsKept page c (if bit (d.reg pgCUR 0x01C) 4 then ({ d with cur.lost := d.cur.lost + 1 }).count pgCUR 6 1 else d) :=
    .ite (.count (d := { d with cur.lost := d.cur.lost + 1 }) h _ hCUR (by decide)) h
  exact .ite (.refl page c) (hlost (hblk (.ite (hinfo _) (hset _))))

theorem Chip.ledgerEv0_regsKept (c : Chip) (p kind : Nat) (code i0 i1 : Option Nat) :
    Chip.RegsKept page c (c.ledgerEv0 p kind code i0 i1).1 := by
  obtain ⟨-, -, hCUR, -⟩ := reportPages_ne hpage
  have hfree (c : Chip) (w : Nat) (v : Option Nat) : Chip.RegsKept page c (c.orFree w v).2 := by
    cases v <;> exact .of_regs rfl
  unfold Chip.ledgerEv0
  split
  · exact (RegsKept.refl page c).count _ hCUR (by decide)
  · split
    · exact (hfree c 8 code).trans ((hfree _ 32 i0).trans ((hfree _ 32 i1).trans (.of_regs rfl)))
    · exact (RegsKept.of_regs rfl).count _ hCUR (by decide)

theorem Chip.ledgerEv_regsKept (c : Chip) (p kind : Nat) (code i0 i1 : Option Nat) :
    Chip.RegsKept page c (c.ledgerEv p kind code i0 i1) := by
  have hev := c.ledgerEv0_regsKept hpage p kind code i0 i1
  exact .ite (hev.trans ((Chip.lossErr_regsKept hpage _).trans (Chip.attn_regsKept hpage _ 2))) hev

theorem Chip.healthGo_regsKept (c : Chip) : Chip.RegsKept page c c.healthGo := by
  have hfree : Chip.RegsKept page c { (c.freeVal 8).2 with cur.health := c.healthNow } := .of_regs rfl
  exact .ite (.refl page c) ((hfree.trans (Chip.ledgerEv_regsKept hpage _ _ _ _ _ _)).trans (Chip.attn_regsKept hpage _ 0))

/-! ## Errors of the page itself (R525) -/

/-- In d error n of a page stands noted: of the page's registers ERR_STAT, ERR_INFO0 and ERR_INFO1 alone have changed since c. -/
structure Chip.ErrNoted (page n : Nat) (c d : Chip) : Prop where
  stat : bit (d.reg page 0x010) n = true
  others : ∀ off < 4096, off ≠ 0x010 → off ≠ 0x020 → off ≠ 0x024 → d.reg page off = c.reg page off

omit hpage in
theorem Chip.ErrNoted.kept {n : Nat} {c d e : Chip} (h : Chip.ErrNoted page n c d) (hkept : Chip.RegsKept page d e) :
    Chip.ErrNoted page n c e :=
  ⟨by rw [hkept _ (by decide), h.stat], fun off hoff h0 h1 h2 => (hkept off hoff).trans (h.others off hoff h0 h1 h2)⟩

/-- An error that is not masked is noted. -/
theorem Chip.err_noted {c : Chip} {n : Nat} (hn : n < 64) (hmask : bit (c.reg page 0x014) n = false) (i0 i1 : Nat) :
    Chip.ErrNoted page n c (c.err page n i0 i1) := by
  have hbit : bit ((c.setReg page 0x010 (c.reg page 0x010 ||| 2 ^ n)).reg page 0x010) n = true := by
    rw [Chip.reg_setReg, bit, Nat.testBit_mod_two_pow, Nat.testBit_or, Nat.testBit_two_pow_self, Bool.or_true, decide_eq_true hn]
    rfl
  have hstat : Chip.ErrNoted page n c (c.setReg page 0x010 (c.reg page 0x010 ||| 2 ^ n)) :=
    ⟨hbit, fun off _ h0 _ _ => c.reg_setReg_ne page 0x010 _ page off (by omega)⟩
  have hinfo {d : Chip} (h : Chip.ErrNoted page n c d) (v w : Nat) :
      Chip.ErrNoted page n c ((d.setReg page 0x020 v).setReg page 0x024 w) := by
    have hne (off : Nat) (h1 : off ≠ 0x020) (h2 : off ≠ 0x024) :
        ((d.setReg page 0x020 v).setReg page 0x024 w).reg page off = d.reg page off := by
      rw [Chip.reg_setReg_ne _ _ _ _ _ _ (by omega), Chip.reg_setReg_ne _ _ _ _ _ _ (by omega)]
    exact ⟨by rw [hne _ (by decide) (by decide), h.stat], fun off hoff h0 h1 h2 => (hne off h1 h2).trans (h.others off hoff h0 h1 h2)⟩
  have hblk {d : Chip} (h : Chip.ErrNoted page n c d) :
      Chip.ErrNoted page n c (if bit (d.reg page 0x01C) (16 + n) then d.raiseBlk page else d) :=
    h.kept (.ite (d.raiseBlk_regsKept hpage page) (.refl page d))
  have hledger {d : Chip} (h : Chip.ErrNoted page n c d) :
      Chip.ErrNoted page n c (if bit (d.reg page 0x01C) n then d.ledgerEv page 0 (some n) (some i0) (some i1) else d) :=
    h.kept (.ite (d.ledgerEv_regsKept hpage page 0 _ _ _) (.refl page d))
  rw [Chip.err, if_neg (by rw [hmask]; exact Bool.false_ne_true)]
  dsimp only
  refine hledger (hblk ?_)
  split
  · exact hinfo hstat _ _
  · exact hstat

/-- A refused write is noted where BAD_WRITE is not masked (R11). -/
theorem Chip.badWrite_noted {c : Chip} (hmask : bit (c.reg page 0x014) 7 = false) : Chip.ErrNoted page 7 c (c.badWrite page) := by
  have hfree (c : Chip) (v : Option Nat) : (c.orFree 32 v).2.regs = c.regs := by cases v <;> rfl
  have herr {d : Chip} (hd : d.regs = c.regs) (i0 i1 : Nat) : Chip.ErrNoted page 7 c (d.err page 7 i0 i1) := by
    have hsame (off : Nat) : d.reg page off = c.reg page off := by rw [Chip.reg, hd, Chip.reg]
    have hnoted := Chip.err_noted hpage (c := d) (n := 7) (by decide) (by rw [hsame, hmask]) i0 i1
    exact ⟨hnoted.stat, fun off hoff h0 h1 h2 => (hnoted.others off hoff h0 h1 h2).trans (hsame off)⟩
  exact herr ((hfree _ _).trans (hfree _ _)) _ _

end ReportPages

theorem pgCFB_not_mem_reportPages : pgCFB ∉ reportPages := by decide

theorem pgCPT_not_mem_reportPages {p : Nat} (hp : p < 16) : pgCPT p ∉ reportPages := by
  simp only [reportPages, pgCPT, pgIRQ, pgHLT, pgCUR, pgFLT, List.mem_cons, List.not_mem_nil, or_false, not_or]
  omega

end Sys2Proof.Machine

/-!
Fields that are locked while a port is not DISABLED, and the ENABLE of a port without a node (R359).
-/

namespace Sys2Proof.Machine

section Locked

variable {c : Chip}

/-- A lock that does not act: the value is stored. -/
theorem Chip.cfbWrite_ctrl_of_same {v : Nat} (hsame : bits v 0 0 = bits (c.reg pgCFB 0x008) 0 0) :
    c.cfbWrite 0x008 v = c.setReg pgCFB 0x008 (bits v 2 1 * 2 + bits v 0 0) := by
  simp [Chip.cfbWrite, hsame, Nat.shiftLeft_eq]

theorem Chip.cfbWrite_node_of_same {v : Nat} (hsame : bits v 31 31 * 2 ^ 31 + bits v 17 0 = c.reg pgCFB 0x200) :
    c.cfbWrite 0x200 v = c.setReg pgCFB 0x200 (c.reg pgCFB 0x200) := by
  rw [← Nat.shiftLeft_eq] at hsame
  simp [Chip.cfbWrite, hsame]

theorem Chip.cfbWrite_peer_of_same {v : Nat} (hsame : bits v 17 0 = c.reg pgCFB 0x204) :
    c.cfbWrite 0x204 v = c.setReg pgCFB 0x204 (c.reg pgCFB 0x204) := by
  simp [Chip.cfbWrite, hsame]

/-- The lock acts: some port is not DISABLED. -/
def Chip.portsLocked (c : Chip) : Prop := ∃ p, p < 16 ∧ (c.portOf p).st ≠ .disabled

variable (hlocked : c.portsLocked)

include hlocked

theorem Chip.not_all_disabled : (List.range 16).all (fun p => decide ((c.portOf p).st = .disabled)) = false := by
  obtain ⟨p, hp, hst⟩ := hlocked
  exact List.all_eq_false.mpr ⟨p, List.mem_range.mpr hp, by simpa using hst⟩

theorem Chip.cfbWrite_ctrl_of_locked {v : Nat} (hnew : bits v 0 0 ≠ bits (c.reg pgCFB 0x008) 0 0) :
    c.cfbWrite 0x008 v = (c.setReg pgCFB 0x008 (bits v 2 1 * 2 + bits (c.reg pgCFB 0x008) 0 0)).badWrite pgCFB := by
  simp [Chip.cfbWrite, Chip.not_all_disabled hlocked, hnew, Nat.shiftLeft_eq]

theorem Chip.cfbWrite_node_of_locked {v : Nat} (hnew : bits v 31 31 * 2 ^ 31 + bits v 17 0 ≠ c.reg pgCFB 0x200) :
    c.cfbWrite 0x200 v = c.badWrite pgCFB := by
  rw [← Nat.shiftLeft_eq] at hnew
  simp [Chip.cfbWrite, Chip.not_all_disabled hlocked, hnew]

theorem Chip.cfbWrite_peer_of_locked {v : Nat} (hnew : bits v 17 0 ≠ c.reg pgCFB 0x204) :
    c.cfbWrite 0x204 v = c.badWrite pgCFB := by
  simp [Chip.cfbWrite, Chip.not_all_disabled hlocked, hnew]

end Locked

theorem Chip.cptEnable_of_no_node {c : Chip} {v : Nat} (p : Nat) (hset : bit v 0 = true) (hnode : c.fld pgCFB 0x200 31 31 = 0) :
    c.cptEnable p v = c.badWrite (pgCPT p) := by
  simp [Chip.cptEnable, hset, hnode]

/-- The fields of CFB_CTRL read back from their bits. -/
theorem ctrl_fields (x y : Nat) : bits ((bits x 2 1 * 2 + bits y 0 0) % 2 ^ 64) 0 0 = bits y 0 0 ∧
    bits ((bits x 2 1 * 2 + bits y 0 0) % 2 ^ 64) 2 1 = bits x 2 1 := by
  simp only [bits_eq_div_mod]
  omega

/-- Settles O41: a write that would change a locked field is refused, and another one is stored. -/
theorem lockedFields : Obligations.LockedFields := by
  intro c v
  refine ⟨fun hmask hlocked => ?_, fun p hp hset hnode hmask => ?_⟩
  · have hbad {d : Chip} (hd : d.reg pgCFB 0x014 = 0) := Chip.badWrite_noted pgCFB_not_mem_reportPages (c := d) (by rw [hd]; rfl)
    have hnoted := hbad hmask
    refine ⟨fun hnew => ?_, Chip.cfbWrite_ctrl_of_same, fun hnew => ?_, Chip.cfbWrite_node_of_same, fun hnew => ?_,
      Chip.cfbWrite_peer_of_same⟩
    · rw [Chip.cfbWrite_ctrl_of_locked hlocked hnew]
      have hstored := hbad (d := c.setReg pgCFB 0x008 (bits v 2 1 * 2 + bits (c.reg pgCFB 0x008) 0 0))
        (by rw [Chip.reg_setReg_ne _ _ _ _ _ _ (by decide), hmask])
      obtain ⟨hbypass, hother⟩ := ctrl_fields v (c.reg pgCFB 0x008)
      have hreg := hstored.others 0x008 (by decide) (by decide) (by decide) (by decide)
      rw [Chip.fld, Chip.fld, Chip.fld, hreg, Chip.reg_setReg]
      exact ⟨hbypass, hother, hstored.stat⟩
    · rw [Chip.cfbWrite_node_of_locked hlocked hnew]
      exact ⟨hnoted.others _ (by decide) (by decide) (by decide) (by decide), hnoted.stat⟩
    · rw [Chip.cfbWrite_peer_of_locked hlocked hnew]
      exact ⟨hnoted.others _ (by decide) (by decide) (by decide) (by decide), hnoted.stat⟩
  · have hnoted := Chip.badWrite_noted (pgCPT_not_mem_reportPages hp) (c := c) (by rw [hmask]; rfl)
    rw [Chip.cptEnable_of_no_node p hset hnode]
    refine ⟨?_, hnoted.others _ (by decide) (by decide) (by decide) (by decide), hnoted.stat⟩
    rw [Chip.portOf, (c.badWrite_reports _).fab, Chip.portOf]

end Sys2Proof.Machine

/-!
Training attempts of a port that fail (R357, R364).
-/

namespace Sys2Proof.Machine

/-! ## Work on one port -/

/-- d follows from c by work on port p that makes f of it: the other ports stand, and no uncorrectable error is found. -/
structure Chip.PortWork (p : Nat) (f : Port → Port) (c d : Chip) : Prop where
  own : d.portOf p = f (c.portOf p)
  others : ∀ j : Nat, j ≠ p → d.portOf j = c.portOf j
  due : d.flt.due = c.flt.due

theorem Chip.PortWork.trans {p : Nat} {f g : Port → Port} {c d e : Chip} (h : Chip.PortWork p f c d) (k : Chip.PortWork p g d e) :
    Chip.PortWork p (fun x => g (f x)) c e :=
  ⟨by rw [k.own, h.own], fun j hj => (k.others j hj).trans (h.others j hj), k.due.trans h.due⟩

theorem Chip.setPort_portWork (c : Chip) (p : Nat) (f : Port → Port) : Chip.PortWork p f c (c.setPort p (f (c.portOf p))) :=
  ⟨c.portOf_setPort p _, fun j hj => c.portOf_setPort_ne p _ j hj, rfl⟩

/-- A report leaves every port. -/
theorem Chip.Reports.portWork {c d : Chip} (h : Chip.Reports c d) (p : Nat) : Chip.PortWork p (fun x => x) c d :=
  have hport (j : Nat) : d.portOf j = c.portOf j := by rw [Chip.portOf, h.fab, Chip.portOf]
  ⟨hport p, fun j _ => hport j, by rw [h.flt]⟩

theorem Chip.healthGo_reports (c : Chip) : Chip.Reports c c.healthGo := by
  have hhealth : Chip.Reports c { (c.freeVal 8).2 with cur.health := c.healthNow } :=
    ⟨rfl, rfl, rfl, rfl, rfl, rfl, rfl, rfl, rfl, rfl, rfl, rfl, rfl, rfl⟩
  rw [Chip.healthGo]
  split
  · exact .refl c
  · exact (hhealth.trans (Chip.ledgerEv_reports _ _ _ _ _ _)).trans (Chip.attn_reports _ _)

/-- A store of a port leaves every register. -/
theorem Chip.setPort_regsKept (c : Chip) (page p : Nat) (x : Port) : Chip.RegsKept page c (c.setPort p x) :=
  .of_regs (c.setPort_regs p x)

/-! ## States of a port -/

/-- A change of state is FAB_PATH's report beside the port's own state (R364). -/
theorem Chip.portState_portWork (c : Chip) (p : Nat) (st : LinkSt) :
    Chip.PortWork p (fun x => { x with st := st }) c (c.portState p st) := by
  rw [Chip.portState]
  split
  next hsame => exact ⟨by rw [← hsame], fun _ _ => rfl, rfl⟩
  next => exact (c.setPort_portWork p fun x => { x with st := st }).trans ((Chip.raise_reports _ _).portWork p)

theorem Chip.portState_regsKept {page : Nat} (hpage : page ∉ reportPages) (c : Chip) (p : Nat) (st : LinkSt) :
    Chip.RegsKept page c (c.portState p st) :=
  .ite (.refl page c) ((c.setPort_regsKept page p _).trans (Chip.raise_regsKept hpage _ (by decide)))

theorem Chip.portTrains_regsKept {page : Nat} (hpage : page ∉ reportPages) (c : Chip) (p : Nat) :
    Chip.RegsKept page c (c.portTrains p) :=
  .ite (c.portState_regsKept hpage p .training) (.refl page c)

/-- A port that is DOWN or in TRAINING is in TRAINING as its attempt ends; that a DOWN port trains again at this row is the model's
reading of R364 (log 157). -/
theorem Chip.portTrains_portWork {c : Chip} {p : Nat} (hst : (c.portOf p).st = .training ∨ (c.portOf p).st = .down) :
    Chip.PortWork p (fun x => { x with st := .training }) c (c.portTrains p) := by
  rw [Chip.portTrains]
  split
  next => exact c.portState_portWork p .training
  next hdown => exact ⟨by rw [← hst.resolve_right hdown], fun _ _ => rfl, rfl⟩

/-! ## Failures -/

/-- A port after an attempt that failed at a step. -/
def Port.failedAt (step : Nat) (x : Port) : Port :=
  { x with attempts := x.attempts + 1, step := step, st := if 4 ≤ x.attempts + 1 then .failed else .down }

theorem Chip.trainFails_portWork (c : Chip) (p step : Nat) : Chip.PortWork p (Port.failedAt step) c (c.trainFails p step) := by
  have hset := c.setPort_portWork p fun x => { x with attempts := x.attempts + 1, step := step }
  have hstate {d : Chip} (h : Chip.Reports _ d) (st : LinkSt) := (hset.trans (h.portWork p)).trans (d.portState_portWork p st)
  rw [Chip.trainFails]
  split
  next hlast =>
    have hfailed := hstate (Chip.err_reports _ (pgCPT p) 3 0 (c.portOf p).lanes) .failed
    exact ⟨by rw [hfailed.own, Port.failedAt, if_pos hlast], hfailed.others, hfailed.due⟩
  next hlast =>
    have hdown := hstate (Chip.count_reports _ (pgCPT p) 12 1) .down
    exact ⟨by rw [hdown.own, Port.failedAt, if_neg hlast], hdown.others, hdown.due⟩

theorem Chip.checkFails_portWork (c : Chip) (p b : Nat) :
    Chip.PortWork p (fun x => { x with step := 3, st := .failed }) c (c.checkFails p b) :=
  ((c.setPort_portWork p fun x => { x with step := 3 }).trans ((Chip.err_reports _ (pgCPT p) b 0 0).portWork p)).trans
    (Chip.portState_portWork _ p .failed)

/-- The error bit of a failed check is set where it is not masked. -/
theorem Chip.checkFails_stat {c : Chip} {p b : Nat} (hp : p < 16) (hb : b < 64) (hmask : bit (c.reg (pgCPT p) 0x014) b = false) :
    bit ((c.checkFails p b).reg (pgCPT p) 0x010) b = true := by
  have hpage := pgCPT_not_mem_reportPages hp
  have hmask' : bit ((c.setPort p { c.portOf p with step := 3 }).reg (pgCPT p) 0x014) b = false := by
    rw [c.setPort_regsKept _ p _ _ (by decide), hmask]
  exact ((Chip.err_noted hpage hb hmask' 0 0).kept (Chip.portState_regsKept hpage _ p .failed)).stat

/-! ## The end of an attempt -/

/-- A port with the lanes that its attempt has locked. -/
def Port.laned (r : PortPeer) (x : Port) : Port := { x with lanes := r.lanes.toNat }

/-- A port that has learned the parameters of step 2. -/
def Port.met (r : PortPeer) (x : Port) : Port :=
  { x with kind := r.module, plane := if r.module then 0 else r.plane.toNat, node := if r.module then r.node.toNat else 0 }

/-- The part as an attempt of port p finds it once the lanes have locked. -/
def Chip.laned (c : Chip) (p : Nat) (r : PortPeer) : Chip := (c.portTrains p).setPort p (((c.portTrains p).portOf p).laned r)

/-- The part as an attempt of port p finds it once step 2 has passed. -/
def Chip.met (c : Chip) (p : Nat) (r : PortPeer) : Chip := (c.laned p r).setPort p (((c.laned p r).portOf p).met r)

theorem Chip.met_regsKept {page : Nat} (hpage : page ∉ reportPages) (c : Chip) (p : Nat) (r : PortPeer) :
    Chip.RegsKept page c (c.met p r) :=
  ((c.portTrains_regsKept hpage p).trans (Chip.setPort_regsKept _ page p _)).trans (Chip.setPort_regsKept _ page p _)

theorem Chip.isBypass_of_regsKept {c d : Chip} (h : Chip.RegsKept pgCFB c d) (p : Nat) : d.isBypass p = c.isBypass p := by
  rw [Chip.isBypass, Chip.bypass, Chip.fld, h _ (by decide), Chip.isBypass, Chip.bypass, Chip.fld]

/-- Whether another port reaches a plane is not a matter of the port itself. -/
theorem Chip.planeDup_of_portWork {c d : Chip} {p : Nat} {f : Port → Port} (h : Chip.PortWork p f c d)
    (hregs : Chip.RegsKept pgCFB c d) (plane : Nat) : d.planeDup p plane = c.planeDup p plane := by
  refine congrArg (List.any (List.range 16)) (funext fun j => ?_)
  by_cases hj : j = p
  · simp [hj]
  · rw [Chip.portUp, h.others j hj, Chip.isBypass_of_regsKept hregs, Chip.portUp]

section Attempt

variable {c : Chip} {p : Nat} {r : PortPeer} (hst : (c.portOf p).st = .training ∨ (c.portOf p).st = .down)

include hst

theorem Chip.laned_portWork : Chip.PortWork p (fun x => Port.laned r { x with st := .training }) c (c.laned p r) :=
  (Chip.portTrains_portWork hst).trans (Chip.setPort_portWork _ p (Port.laned r))

theorem Chip.met_portWork : Chip.PortWork p (fun x => Port.met r (Port.laned r { x with st := .training })) c (c.met p r) :=
  (Chip.laned_portWork hst).trans (Chip.setPort_portWork _ p (Port.met r))

theorem Chip.portTrains_st : ((c.portTrains p).portOf p).st = .training := by rw [(Chip.portTrains_portWork hst).own]

theorem Chip.portTrained_of_step_failed (hfail : r.fail = 1 ∨ r.fail = 2) :
    c.portTrained p r = (c.laned p r).trainFails p r.fail.toNat := by
  rw [Chip.portTrained]
  exact (if_neg (not_not_intro (Chip.portTrains_st hst))).trans (if_pos hfail)

theorem Chip.portTrained_of_planeDup (hfail : r.fail = 0) (hbypass : c.isBypass p = false)
    (hdup : c.planeDup p (((c.met p r).portOf p).plane) = true) : c.portTrained p r = (c.met p r).checkFails p 4 := by
  have hpassed : ¬ (r.fail = 1 ∨ r.fail = 2) := by rw [hfail]; decide
  have hregs := c.met_regsKept pgCFB_not_mem_reportPages p r
  have hswitch : ¬ (c.met p r).isBypass p = true := by rw [Chip.isBypass_of_regsKept hregs, hbypass]; exact Bool.false_ne_true
  rw [← Chip.planeDup_of_portWork (Chip.met_portWork hst) hregs] at hdup
  rw [Chip.portTrained]
  exact (if_neg (not_not_intro (Chip.portTrains_st hst))).trans ((if_neg hpassed).trans
    ((if_neg fun h => hswitch h.1).trans (if_pos ⟨hswitch, hdup⟩)))

end Attempt

/-- What a row of the die holds back of its operation is no port and no register. -/
theorem Chip.keepDie_portWork (c d : Chip) (p : Nat) : Chip.PortWork p (fun x => x) d (keepDie c d.ctxRefresh) :=
  ⟨rfl, fun _ _ => rfl, rfl⟩

theorem Chip.keepDie_regsKept (c d : Chip) (page : Nat) : Chip.RegsKept page d (keepDie c d.ctxRefresh) := .of_regs rfl

/-- The row of an attempt answers the work of its operation on the port, with the registers that the report of health leaves. -/
theorem answers_of_portTrained {p : Fin 16} {r : PortPeer} {s : State} {f : Port → Port} (hon : s.dieOn = true)
    (hwork : Chip.PortWork p f s.chip (s.chip.portTrained p r)) :
    Answers (.portTrained p r) s (fun d => Chip.PortWork p f s.chip d ∧ Chip.RegsKept (pgCPT p) (s.chip.portTrained p r) d) := by
  have hhealth := hwork.trans ((Chip.healthGo_reports _).portWork p)
  have hregs := Chip.healthGo_regsKept (pgCPT_not_mem_reportPages p.isLt) (s.chip.portTrained p r)
  exact answers_of_die (exec_portTrained p r s) hon hhealth.due
    ⟨hhealth.trans (Chip.keepDie_portWork _ _ p), hregs.trans (Chip.keepDie_regsKept _ _ _)⟩

/-- Settles O40: an attempt that fails is work on its own port; that a DOWN port trains again at this row is log 157. -/
theorem trainingFails : Obligations.TrainingFails := by
  intro p peer s hon hst
  refine ⟨fun hfail => ?_, fun hfail hmodule hbypass hdup hmask => ?_⟩
  · have hwork := (Chip.laned_portWork hst).trans (Chip.trainFails_portWork (s.chip.laned p peer) p peer.fail.toNat)
    rw [← Chip.portTrained_of_step_failed hst hfail] at hwork
    refine (answers_of_portTrained hon hwork).imp fun d ⟨hd, _⟩ => ?_
    rw [hd.own]
    exact ⟨rfl, rfl, rfl, rfl, hd.others⟩
  · have hmet := Chip.met_portWork (r := peer) hst
    have hplane : ((s.chip.met p peer).portOf p).plane = peer.plane.toNat := by
      rw [hmet.own, Port.met, hmodule, if_neg Bool.false_ne_true]
    have htrained := Chip.portTrained_of_planeDup (r := peer) hst hfail hbypass (by rw [hplane, hdup])
    have hwork := hmet.trans (Chip.checkFails_portWork _ p 4)
    rw [← htrained] at hwork
    have hmask' : bit ((s.chip.met p peer).reg (pgCPT p) 0x014) 4 = false := by
      rw [s.chip.met_regsKept (pgCPT_not_mem_reportPages p.isLt) _ _ _ (by decide), hmask]
      rfl
    refine (answers_of_portTrained hon hwork).imp fun d ⟨hd, hregs⟩ => ?_
    rw [hregs _ (by decide), htrained]
    refine ⟨by rw [hd.own], ?_, Chip.checkFails_stat p.isLt (by decide) hmask', hd.others⟩
    rw [hd.own, ← hplane, hmet.own]

end Sys2Proof.Machine

/-!
The cutting of a collective's range into packets (R408).
-/

namespace Sys2Proof.Machine

/-! ## Ceiling division -/

theorem ceilDiv_eq_ceilDiv (a b : Nat) : ceilDiv a b = a ⌈/⌉ b := by
  rw [ceilDiv, Nat.ceilDiv_eq_add_pred_div]
  split
  case isTrue hb => rw [hb, Nat.div_zero]
  case isFalse => rfl

/-- An index is below the count of pieces of b where its piece begins before the end. -/
theorem lt_ceilDiv_iff {a b k : Nat} (hb : 0 < b) : k < ceilDiv a b ↔ b * k < a := by
  rw [ceilDiv_eq_ceilDiv, ← not_le, ceilDiv_le_iff_le_mul hb, not_le]

/-! ## Packets of a range -/

/-- The k-th packet of a range of n bytes: its offset and length. -/
def cutAt (n k : Nat) : Nat × Nat := (2048 * k, min 2048 (n - 2048 * k))

theorem cuts_eq_map_cutAt (n : Nat) : cuts n = (List.range (ceilDiv n 2048)).map (cutAt n) := rfl

theorem lt_cuts_length_iff {n k : Nat} : k < (cuts n).length ↔ 2048 * k < n := by
  rw [cuts_eq_map_cutAt, List.length_map, List.length_range, lt_ceilDiv_iff (by decide)]

theorem cuts_getElem? {n k : Nat} (hk : 2048 * k < n) : (cuts n)[k]? = some (cutAt n k) := by
  have hlt : k < ceilDiv n 2048 := (lt_ceilDiv_iff (by decide)).mpr hk
  rw [cuts_eq_map_cutAt, List.getElem?_map, List.getElem?_range hlt, Option.map_some]

theorem mem_cuts_iff {n : Nat} {x : Nat × Nat} : x ∈ cuts n ↔ ∃ k, 2048 * k < n ∧ cutAt n k = x := by
  simp only [cuts_eq_map_cutAt, List.mem_map, List.mem_range, lt_ceilDiv_iff (show 0 < 2048 by decide)]

/-- A packet ends at the next multiple of 2,048, or at the end of the range where that comes first. -/
theorem cutAt_end {n k : Nat} (hk : 2048 * k < n) : (cutAt n k).1 + (cutAt n k).2 = min (2048 * (k + 1)) n := by
  rw [cutAt, ← Nat.add_min_add_left, Nat.add_sub_cancel' hk.le, Nat.mul_add_one]

/-- The first k packets hold the bytes before the k-th multiple of 2,048. -/
theorem cuts_sum_take {n k : Nat} (hk : k ≤ (cuts n).length) :
    (((cuts n).take k).map (fun x => x.2)).sum = min (2048 * k) n := by
  induction k with
  | zero => rw [List.take_zero, List.map_nil, List.sum_nil, Nat.mul_zero, Nat.zero_min]
  | succ k ih =>
    have hlt : 2048 * k < n := lt_cuts_length_iff.mp hk
    have hbefore : min (2048 * k) n = (cutAt n k).1 := Nat.min_eq_left hlt.le
    rw [List.take_add_one, cuts_getElem? hlt, List.map_append, List.sum_append, ih (Nat.le_of_succ_le hk), hbefore,
      ← cutAt_end hlt]
    simp

theorem cuts_sum (n : Nat) : ((cuts n).map (fun x => x.2)).sum = n := by
  have hall : n ≤ 2048 * (cuts n).length := not_lt.mp fun h => lt_irrefl _ (lt_cuts_length_iff.mpr h)
  have htake := cuts_sum_take (le_refl (cuts n).length)
  rwa [List.take_length, Nat.min_eq_right hall] at htake

/-- Settles O43: each packet ends at the next multiple of 2,048 or at the end of the range, and the next one begins there. -/
theorem packetCuts : Obligations.PacketCuts := by
  intro n
  refine ⟨cuts_sum n, fun x hx => ?_, fun j hj => ?_⟩
  · obtain ⟨k, hk, rfl⟩ := mem_cuts_iff.mp hx
    have hend : (cutAt n k).1 + (cutAt n k).2 ≤ n := (cutAt_end hk).trans_le (Nat.min_le_right _ _)
    exact ⟨Nat.lt_min.mpr ⟨by decide, Nat.sub_pos_of_lt hk⟩, Nat.min_le_left _ _, Nat.mul_mod_right 2048 k, hend⟩
  · have hnext : 2048 * (j + 1) < n := lt_cuts_length_iff.mp hj
    have hk : 2048 * j < n := lt_cuts_length_iff.mp (Nat.lt_of_succ_lt hj)
    rw [cuts_getElem? hk, cuts_getElem? hnext, Option.map_some, Option.map_some, cutAt_end hk, Nat.min_eq_left hnext.le]
    rfl

end Sys2Proof.Machine

/-!
The Curator and the timebase: TBS_SET (R444), Inventory (R454), the I3C target (R451), the Ledger (R448, R449) and sensors (R446).
-/

namespace Sys2Proof.Machine

/-! ## TBS_SET (R444) -/

theorem Chip.tbsFree_iff (c : Chip) : c.tbsFree = true ↔ (∀ e ∈ c.fe.ctxs, e.2 = none) ∨ c.fld pgFE 0x008 0 0 = 0 := by
  simp [Chip.tbsFree]

theorem Chip.tbsSet_of_free {c : Chip} (v : BitVec 64) (hfree : c.tbsFree = true) :
    c.tbsSet v = ({ c with time.tb := v, time.snapAt := none } : Chip).injW pgTBS 0 := if_pos hfree

theorem Chip.tbsSet_reports_of_not_free {c : Chip} (v : BitVec 64) (hfree : ¬ c.tbsFree = true) : Chip.Reports c (c.tbsSet v) := by
  rw [Chip.tbsSet, if_neg hfree]
  exact c.badWrite_reports pgTBS

/-- Settles O45: the load touches the count and the snapshot alone, and a refused write is a report. -/
theorem timebaseSet : Obligations.TimebaseSet := by
  intro v s hlive
  dsimp only
  rw [← Chip.tbsFree_iff]
  by_cases hfree : s.chip.tbsFree = true
  · have hset := Chip.tbsSet_of_free v hfree
    have htime : (s.chip.tbsSet v).time = { s.chip.time with tb := v, snapAt := none } := by rw [hset, Chip.injW_time]
    have hhom : (s.chip.tbsSet v).hom = s.chip.hom := by rw [hset, Chip.injW_hom]
    exact answers_of_page (exec_tbsSet v s) hlive (by rw [hset, Chip.injW_due])
      ⟨fun _ => ⟨congrArg TimeSt.tb htime, congrArg TimeSt.snapAt htime⟩, fun hno => absurd hfree hno,
        (congrArg TimeSt.ns htime :), hhom⟩
  · have hreports := Chip.tbsSet_reports_of_not_free v hfree
    exact answers_of_page (exec_tbsSet v s) hlive (by rw [hreports.flt])
      ⟨fun hyes => absurd hyes hfree, fun _ => hreports.time, congrArg TimeSt.ns hreports.time, hreports.hom⟩

/-! ## Arming and cancelling (R454) -/

theorem Chip.invLate_reports (c : Chip) (t : Nat) : Chip.Reports c (c.invLate t) :=
  (c.count_reports pgTBS 4 1).trans (Chip.err_reports _ _ _ _ _)

theorem Chip.snapClose_iff (c : Chip) :
    c.snapClose = true ↔ ∃ t, c.time.snapAt = some t ∧ t.toNat < c.time.tb.toNat + 2000 := by
  rw [Chip.snapClose]
  cases c.time.snapAt <;> simp

/-- d follows from c by an arm or a cancel: refused, it is a report; else the snapshot becomes x and nothing else changes. -/
def Chip.SnapMoves (refused : Prop) (x : Option (BitVec 64)) (c d : Chip) : Prop :=
  (refused ∧ Chip.Reports c d) ∨ (¬ refused ∧ d = { c with time.snapAt := x })

theorem Chip.invArm_snapMoves (c : Chip) : Chip.SnapMoves (c.reg pgTBS 0x220 < c.time.tb.toNat + 2000 ∨ c.snapClose = true)
    (some (BitVec.ofNat 64 (c.reg pgTBS 0x220))) c c.invArm := by
  have hlate : c.armLate (BitVec.ofNat 64 (c.reg pgTBS 0x220)) = true ↔
      c.reg pgTBS 0x220 < c.time.tb.toNat + 2000 ∨ c.snapClose = true := by
    rw [Chip.armLate, BitVec.toNat_ofNat, Nat.mod_eq_of_lt (c.reg_lt _ _), Bool.or_eq_true, decide_eq_true_iff]
  rw [Chip.SnapMoves, Chip.invArm, Chip.invArmAt, ← hlate]
  split
  next h => exact .inl ⟨h, c.invLate_reports _⟩
  next h => exact .inr ⟨h, rfl⟩

theorem Chip.invCancel_snapMoves (c : Chip) : Chip.SnapMoves (c.snapClose = true) none c c.invCancel := by
  rw [Chip.SnapMoves, Chip.invCancel]
  split
  next hnone =>
    have hfar : ¬ c.snapClose = true := by simp [Chip.snapClose, hnone]
    exact .inr ⟨hfar, by rw [← hnone]⟩
  next t _ =>
    split
    next h => exact .inl ⟨h, c.invLate_reports _⟩
    next h => exact .inr ⟨h, rfl⟩

/-- A row that arms or cancels answers the snapshot that its operation leaves, and the count stands. -/
theorem answers_of_snapMoves {i : Instr} {s : State} {f : Chip → Chip} {refused : Prop} [Decidable refused] {x : Option (BitVec 64)}
    (hrun : exec i s = s.page pgTBS f) (hlive : s.chip.pageLive pgTBS = true) (hf : Chip.SnapMoves refused x s.chip (f s.chip)) :
    Answers i s (fun d => d.time.snapAt = (if refused then s.chip.time.snapAt else x) ∧ d.time.tb = s.chip.time.tb) := by
  obtain ⟨hrefused, hreports⟩ | ⟨htaken, hchip⟩ := hf
  · refine answers_of_page hrun hlive (by rw [hreports.flt]) ⟨?_, congrArg TimeSt.tb hreports.time⟩
    rw [if_pos hrefused]
    exact congrArg TimeSt.snapAt hreports.time
  · refine answers_of_page hrun hlive (by rw [hchip]) ?_
    rw [hchip, if_neg htaken]
    exact ⟨rfl, rfl⟩

/-- Settles O46: both rows move the snapshot, unless they are refused. -/
theorem snapshotArm : Obligations.SnapshotArm := by
  intro s hlive
  have harm := answers_of_snapMoves (exec_invArm s) hlive s.chip.invArm_snapMoves
  have hcancel := answers_of_snapMoves (exec_invCancel s) hlive s.chip.invCancel_snapMoves
  exact ⟨harm.imp fun d ⟨hsnap, htb⟩ => ⟨hsnap, s.chip.snapClose_iff, htb⟩, hcancel⟩

/-! ## Common commands of the I3C target (R451) -/

/-- An event of the always-on domain in which no uncorrectable error is found answers its operation's state (R522). -/
theorem answers_of_aon {i : Instr} {s : State} {f : Chip → Chip} {P : Chip → Prop} (hrun : exec i s = s.aon f)
    (haux : s.chip.pwr.aux12 = true) (hdue : (f s.chip).flt.due = s.chip.flt.due) (hP : P (keepFz s.chip (f s.chip))) :
    Answers i s P := by
  have hsame : s.chip.faultsGo (keepFz s.chip (f s.chip)) = keepFz s.chip (f s.chip) := Chip.faultsGo_same hdue
  refine ⟨{ s with chip := keepFz s.chip (f s.chip) }, ?_, rfl, hP⟩
  rw [hrun, State.aon, if_pos haux, hsame]

/-- An event that changes the Curator's state alone answers exactly that change. -/
theorem answers_of_aon_cur {i : Instr} {s : State} {f : Chip → Chip} {u : CurSt} (hrun : exec i s = s.aon f)
    (haux : s.chip.pwr.aux12 = true) (hf : f s.chip = { s.chip with cur := u }) :
    Answers i s (fun d => d = { s.chip with cur := u }) :=
  answers_of_aon hrun haux (by rw [hf]) (by rw [hf]; rfl)

theorem Chip.i3cAddr_eq (c : Chip) (a : BitVec 7) :
    c.i3cAddr a = { c with cur.dynAddr := if c.cur.dynAddr.isNone then some a else c.cur.dynAddr } := by
  rw [Chip.i3cAddr]
  split <;> rfl

theorem Chip.i3cEvents_true (c : Chip) (ev : BitVec 8) :
    c.i3cEvents true ev = { c with cur.ibiEn := c.cur.ibiEn || ev.getLsbD 0 } := by
  rw [Chip.i3cEvents]
  cases ev.getLsbD 0 <;> simp

theorem Chip.i3cEvents_false (c : Chip) (ev : BitVec 8) :
    c.i3cEvents false ev = { c with cur.ibiEn := c.cur.ibiEn && !(ev.getLsbD 0) } := by
  rw [Chip.i3cEvents]
  cases ev.getLsbD 0 <;> simp

/-- 256 as the two bytes of GETMWL and GETMRL, the high one first. -/
theorem Chip.i3cDrive_256 (c : Chip) : c.i3cDrive (toBytes 2 256).reverse = { c with cur.i3cOut := [1, 0] } := rfl

/-- Settles O47: each command changes one field of the Curator. -/
theorem i3cCommands : Obligations.I3cCommands := by
  intro a ev s haux
  exact ⟨answers_of_aon_cur (exec_entdaa a s) haux (s.chip.i3cAddr_eq a),
    answers_of_aon_cur (exec_setdasa a s) haux (s.chip.i3cAddr_eq a),
    answers_of_aon_cur (exec_rstdaa s) haux rfl,
    answers_of_aon_cur (exec_enec ev s) haux (s.chip.i3cEvents_true ev),
    answers_of_aon_cur (exec_disec ev s) haux (s.chip.i3cEvents_false ev),
    answers_of_aon_cur (exec_getmwl s) haux s.chip.i3cDrive_256,
    answers_of_aon_cur (exec_getmrl s) haux s.chip.i3cDrive_256⟩

/-! ## The Ledger (R448, R449) -/

/-- Floors that hold are what is kept of them (R466). -/
theorem floorsUp_self {z : Fz} (h : z.floorsHold) : floorsUp z.floors z.floors = z.floors := by
  refine List.ext_getElem ((floorsUp_length _ _).trans h.1.symm) fun i hi hi' => ?_
  have hget := floorsUp_getD z.floors z.floors i (floorsUp_length z.floors z.floors ▸ hi)
  rw [max_self, Nat.min_eq_right (Fz.floorsHold_le h i)] at hget
  rwa [← List.getD_eq_getElem _ 0 hi, ← List.getD_eq_getElem _ 0 hi']

/-- A change that leaves fences, fuses and floors is kept whole. -/
theorem keepFences_eq_self {c d : Chip} (hfences : c.fz.sameFences d.fz) (hfloors : d.fz.floors = c.fz.floors)
    (hhold : c.fz.floorsHold) : keepFences c d = d := by
  obtain ⟨hcore, hcl, hcoreA, hcoreB, hclA, hclB⟩ := hfences
  rw [keepFences, ← hcore, ← hcl, ← hcoreA, ← hcoreB, ← hclA, ← hclB, hfloors, floorsUp_self hhold, ← hfloors]

/-- A command that changes what only its condition lets it change, and finds no uncorrectable error, answers its operation's state
(R522). -/
theorem answers_of_store {i : Instr} {s : State} {on : Bool} {f : Chip → Chip} {P : Chip → Prop} (hrun : exec i s = s.store on f)
    (hon : on = true) (hdue : (f s.chip).flt.due = s.chip.flt.due) (hP : P (keepFences s.chip (f s.chip)).ctxRefresh) :
    Answers i s P := by
  have hsame : s.chip.faultsGo (keepFences s.chip (f s.chip)).ctxRefresh = (keepFences s.chip (f s.chip)).ctxRefresh :=
    Chip.faultsGo_same hdue
  refine ⟨{ s with chip := (keepFences s.chip (f s.chip)).ctxRefresh }, ?_, rfl, hP⟩
  rw [hrun, State.store, if_pos hon, hsame]

/-- The Ledger after record r: under the next SEQ, its oldest sector gone where it was full. -/
def Fz.ledgered (z : Fz) (r : LedgerRec) : Fz :=
  { z with ledger := (if 131072 ≤ z.ledger.length then z.ledger.drop 2048 else z.ledger) ++ [{ r with seq := z.ledgerSeq }],
           ledgerSeq := (z.ledgerSeq + 1) % 2 ^ 48 }

theorem Chip.ledgerWrite_of_waiting {c : Chip} {r : LedgerRec} {rs : List LedgerRec} (hup : c.cur.up = true)
    (herase : c.cur.fw.st ≠ 2) (hprogram : c.cur.fw.st ≠ 3) (hbuf : c.cur.buf = r :: rs) (hlost : c.cur.lost = 0) :
    c.ledgerWrite = ({ c with fz := c.fz.ledgered r, cur.buf := rs } : Chip).count pgCUR 5 1 := by
  have hwrites : ¬ (¬ c.cur.up ∨ c.cur.fw.st = 2 ∨ c.cur.fw.st = 3) := by simp [hup, herase, hprogram]
  rw [Chip.ledgerWrite, if_neg hwrites, hbuf]
  dsimp only
  rw [if_pos (by rw [Chip.count_cur, hlost])]
  rfl

/-- Settles O48: the record moves, and what the row keeps of fences, fuses and floors is as before. -/
theorem ledgerWrite : Obligations.LedgerWrite := by
  intro s r rs haux hup herase hprogram hbuf hlost hhold
  have hwrite := Chip.ledgerWrite_of_waiting hup herase hprogram hbuf hlost
  have hfz : s.chip.ledgerWrite.fz = s.chip.fz.ledgered r := by rw [hwrite, Chip.count_fz]
  have hkept : keepFences s.chip s.chip.ledgerWrite = s.chip.ledgerWrite :=
    keepFences_eq_self (by rw [hfz]; exact .refl _) (by rw [hfz]; rfl) hhold
  refine answers_of_store (exec_ledgerWrite s) haux (by rw [hwrite, Chip.count_flt]) ?_
  rw [hkept]
  exact ⟨hfz, by rw [hwrite]; exact Chip.count_cur _ _ _ _⟩

/-! ## Sensors (R446) -/

/-- A threshold stands reached: crossed now, or reached before and not yet left by its hysteresis (R446, log 79). -/
theorem sensorStatus_eq (i old : Nat) (v : Int) : sensorStatus i old v =
    if Config.sensorCrit i ≤ v ∨ (old = 2 ∧ Config.sensorCrit i - sensorHyst i (Config.sensorCrit i) < v) then 2
    else if Config.sensorWarn i ≤ v ∨ ((old = 1 ∨ old = 2) ∧ Config.sensorWarn i - sensorHyst i (Config.sensorWarn i) < v) then 1
    else 0 := by
  simp only [sensorStatus, ge_iff_le, gt_iff_lt, ite_or]

/-- The sensors and the error state stand. -/
structure Chip.SensorsStand (c d : Chip) : Prop where
  sensors : d.cur.sensors = c.cur.sensors
  flt : d.flt = c.flt

theorem Chip.SensorsStand.refl (c : Chip) : Chip.SensorsStand c c := ⟨rfl, rfl⟩

theorem Chip.SensorsStand.trans {c d e : Chip} (h : Chip.SensorsStand c d) (g : Chip.SensorsStand d e) : Chip.SensorsStand c e :=
  ⟨g.sensors.trans h.sensors, g.flt.trans h.flt⟩

theorem Chip.SensorsStand.ite {p : Prop} [Decidable p] {c d e : Chip} (hd : Chip.SensorsStand c d) (he : Chip.SensorsStand c e) :
    Chip.SensorsStand c (if p then d else e) := by
  split
  · exact hd
  · exact he

theorem Chip.Reports.sensorsStand {c d : Chip} (h : Chip.Reports c d) : Chip.SensorsStand c d := ⟨h.sensors, h.flt⟩

/-- In d sensor i holds x, and the other sensors and the error state stand as in c. -/
structure Chip.SensorWork (i : Nat) (x : Sensor) (c d : Chip) : Prop where
  own : d.sensorOf i = x
  others : ∀ j : Nat, j ≠ i → d.sensorOf j = c.sensorOf j
  flt : d.flt = c.flt

theorem Chip.SensorWork.stands {i : Nat} {x : Sensor} {c d e : Chip} (h : Chip.SensorWork i x c d) (g : Chip.SensorsStand d e) :
    Chip.SensorWork i x c e := by
  have hsensor (j : Nat) : e.sensorOf j = d.sensorOf j := by rw [Chip.sensorOf, g.sensors, Chip.sensorOf]
  exact ⟨(hsensor i).trans h.own, fun j hj => (hsensor j).trans (h.others j hj), g.flt.trans h.flt⟩

theorem Chip.setSensor_sensorWork (c : Chip) (i : Nat) (x : Sensor) : Chip.SensorWork i x c (c.setSensor i x) :=
  ⟨c.sensorOf_setSensor i x, fun j hj => c.sensorOf_setSensor_ne i x j hj, rfl⟩

/-- A change of status is reported, and reports leave the sensors. -/
theorem Chip.sensorTakes_sensorWork (c : Chip) (i : Nat) (v : Int) (st : Nat) :
    Chip.SensorWork i ⟨v, st⟩ c (c.sensorTakes i v st) := by
  have hcounts (d : Chip) : Chip.SensorsStand d (if st = 1 then d.count pgCUR 7 1 else if st = 2 then d.count pgCUR 8 1 else d) :=
    .ite (d.count_reports _ _ _).sensorsStand (.ite (d.count_reports _ _ _).sensorsStand (.refl d))
  have hfails (d : Chip) : Chip.SensorsStand d (if st = 3 then d.err pgCUR 8 i 0 else d) :=
    .ite (d.err_reports _ _ _ _).sensorsStand (.refl d)
  have hreported (d : Chip) (i0 i1 : Nat) :
      Chip.SensorsStand d (((d.ledgerEv pgCUR 3 (some st) (some i0) (some i1)).attn 1).healthGo) :=
    (((d.ledgerEv_reports _ _ _ _ _).trans (Chip.attn_reports _ _)).trans (Chip.healthGo_reports _)).sensorsStand
  exact (c.setSensor_sensorWork i ⟨v, st⟩).stands (.ite (.refl _) (((hcounts _).trans (hfails _)).trans (hreported _ _ _)))

/-- A reading of a powered sensor becomes its value. -/
theorem Chip.sensorSample_sensorWork {c : Chip} {i : Nat} (v : BitVec 32) (hup : c.cur.up = true) (hon : c.sensorOn i = true) :
    Chip.SensorWork i ⟨v.toInt, sensorStatus i (c.sensorOf i).status v.toInt⟩ c (c.sensorSample i (some v)) := by
  rw [Chip.sensorSample, if_neg (not_not_intro hup), if_neg (not_not_intro hon)]
  exact c.sensorTakes_sensorWork _ _ _

theorem Chip.setPoint_sensorsStand (c : Chip) (p : Nat) : Chip.SensorsStand c (c.setPoint p) :=
  have hpoint : Chip.SensorsStand c { c with pwr.point := p } := ⟨rfl, rfl⟩
  .ite (.refl c) (hpoint.trans (Chip.count_reports _ _ _ _).sensorsStand)

theorem Chip.siteCrit_sensorsStand (c : Chip) (i : Nat) : Chip.SensorsStand c (c.siteCrit i) :=
  .ite ((c.setPoint_sensorsStand 7).trans ((Chip.err_reports _ _ _ _ _).trans (Chip.raise_reports _ _)).sensorsStand) (.refl c)

theorem Chip.loadSample_sensorsStand (c : Chip) : Chip.SensorsStand c c.loadSample :=
  ⟨by simp [Chip.loadSample], by simp [Chip.loadSample]⟩

/-- What the power controller does on a reading leaves the sensors (R499, R505). -/
theorem Chip.sensorRow_sensorWork {c : Chip} {i : Nat} {x : Sensor} {v : Option (BitVec 32)}
    (h : Chip.SensorWork i x c (c.sensorSample i v)) : Chip.SensorWork i x c (c.sensorRow i v) :=
  have hcrit := Chip.SensorsStand.ite ((c.sensorSample i v).siteCrit_sensorsStand i) (.refl _)
  h.stands (hcrit.trans (.ite (Chip.loadSample_sensorsStand _) (.refl _)))

/-- A change of power in which no uncorrectable error is found answers its operation's state, with the health that follows (R522). -/
theorem answers_of_power {i : Instr} {s : State} {f : Chip → Chip} {P : Chip → Prop} (hrun : exec i s = s.power f)
    (hdue : (f s.chip).flt.due = s.chip.flt.due) (hP : P (keepFences s.chip (f s.chip)).healthGo) : Answers i s P := by
  have hflt : (keepFences s.chip (f s.chip)).healthGo.flt = (f s.chip).flt := (Chip.healthGo_reports _).flt
  refine ⟨{ s with chip := (keepFences s.chip (f s.chip)).healthGo }, ?_, rfl, hP⟩
  rw [hrun, State.power, Chip.faultsGo_same (by rw [hflt, hdue])]

/-- What a change of power keeps and reports is no sensor. -/
theorem keepFences_healthGo_sensorsStand (c d : Chip) : Chip.SensorsStand d (keepFences c d).healthGo :=
  have hkept : Chip.SensorsStand d (keepFences c d) := ⟨rfl, rfl⟩
  hkept.trans (Chip.healthGo_reports _).sensorsStand

/-- Settles O49: the row works on its own sensor alone. -/
theorem sensorReads : Obligations.SensorReads := by
  intro n v s hratings hup hon old w k hyst
  have hrun : exec (.sensorSample n (some v)) s = s.power (fun c => c.sensorRow n (some v)) := by
    rw [exec_sensorSample]
    exact if_neg (ne_true_of_eq_false hratings)
  have hrow := Chip.sensorRow_sensorWork (Chip.sensorSample_sensorWork v hup hon)
  have hwork := hrow.stands (keepFences_healthGo_sensorsStand s.chip _)
  refine answers_of_power hrun (by rw [hrow.flt]) ?_
  rw [hwork.own]
  exact ⟨rfl, sensorStatus_eq n old v.toInt, hwork.others⟩

end Sys2Proof.Machine

/-!
How far each command reaches: every command is one of the lifts, and what each lift keeps of fences, fuses and floors (R466, R467,
R528, R532, R533).
-/

namespace Sys2Proof.Machine

/-! ## Fences of whole clusters (R532) -/

/-- From z to w no fuse has changed, and w's fenced clusters are fenced whole where those of z are. -/
structure Fz.StaysWhole (z w : Fz) : Prop where
  coreFuseA : w.coreFuseA = z.coreFuseA
  coreFuseB : w.coreFuseB = z.coreFuseB
  clFuseA : w.clFuseA = z.clFuseA
  clFuseB : w.clFuseB = z.clFuseB
  whole : z.clustersHold → w.clustersHold

theorem Fz.StaysWhole.refl (z : Fz) : z.StaysWhole z := ⟨rfl, rfl, rfl, rfl, id⟩

theorem Fz.StaysWhole.trans {x y z : Fz} (h : x.StaysWhole y) (k : y.StaysWhole z) : x.StaysWhole z :=
  ⟨k.coreFuseA.trans h.coreFuseA, k.coreFuseB.trans h.coreFuseB, k.clFuseA.trans h.clFuseA, k.clFuseB.trans h.clFuseB,
    k.whole ∘ h.whole⟩

theorem Fz.sameFences.staysWhole {z w : Fz} (h : z.sameFences w) : z.StaysWhole w := by
  obtain ⟨hcore, hcl, hcoreA, hcoreB, hclA, hclB⟩ := h
  refine ⟨hcoreA, hcoreB, hclA, hclB, fun hz => ?_⟩
  rwa [Fz.clustersHold, hcore, hcl]

/-- A blown fuse's unit stays fenced where fences only grow and no fuse changes (R533). -/
theorem Fz.StaysWhole.fusesHold {z w : Fz} (h : z.StaysWhole w) (hfences : z.fencesIn w) (hz : z.fusesHold) : w.fusesHold := by
  rw [Fz.fusesHold, h.coreFuseA, h.coreFuseB, h.clFuseA, h.clFuseB]
  exact ⟨fun n hn hblown => hfences.1 n (hz.1 n hn hblown), fun k hk hblown => hfences.2 k (hz.2 k hk hblown)⟩

/-! ## Growth of fences, step by step -/

/-- From c to d fences grow, whole clusters at a time or core by core; fuses stand, and no floor falls. -/
structure Chip.Grows (c d : Chip) : Prop where
  grown : Reach.grown.keeps c d
  staysWhole : c.fz.StaysWhole d.fz

namespace Chip.Grows

variable {c d e : Chip}

theorem refl (c : Chip) : Chip.Grows c c := ⟨Reach.grown_refl c, .refl _⟩

theorem trans (h : Chip.Grows c d) (k : Chip.Grows d e) : Chip.Grows c e :=
  ⟨Reach.grown_trans h.grown k.grown, h.staysWhole.trans k.staysWhole⟩

theorem of_kept (h : Reach.kept.keeps c d) : Chip.Grows c d := ⟨Reach.kept_grown h, h.1.staysWhole⟩

theorem of_fz (h : d.fz = c.fz) : Chip.Grows c d := of_kept (Reach.unit_kept h)

theorem ite {p : Prop} [Decidable p] (hd : Chip.Grows c d) (he : Chip.Grows c e) : Chip.Grows c (if p then d else e) := by
  split
  · exact hd
  · exact he

theorem healthGo (h : Chip.Grows c d) : Chip.Grows c d.healthGo := h.trans (of_fz d.healthGo_fz)

theorem keepFz (h : Chip.Grows c d) (e : Chip) : Chip.Grows c (keepFz d e) := h.trans (of_fz rfl)

theorem keepFences (h : Chip.Grows c d) (e : Chip) : Chip.Grows c (keepFences d e) := h.trans (of_kept (keepFences_kept d e))

end Chip.Grows

theorem addFences_core_grows (c : Chip) (x : BitVec 512) (d : Chip) : Chip.Grows c (addFences c x 0 d) := by
  refine ⟨addFences_grown c x 0 d, rfl, rfl, rfl, rfl, fun hwhole k hk hfenced j hj => ?_⟩
  have hwas : c.fz.clFence.getLsbD k = true := by simpa [addFences] using hfenced
  simp [addFences, hwhole k hk hwas j hj]

/-- A cluster's fence takes its eight cores with it (R532). -/
theorem addFences_cluster_grows (c : Chip) (cl : Nat) (d : Chip) :
    Chip.Grows c (addFences c (BitVec.ofNat 512 (255 * 2 ^ (8 * cl))) (BitVec.ofNat 64 (2 ^ cl)) d) := by
  refine ⟨addFences_grown c _ _ d, rfl, rfl, rfl, rfl, fun hwhole k hk hfenced j hj => ?_⟩
  have hcases : c.fz.clFence.getLsbD k = true ∨ (BitVec.ofNat 64 (2 ^ cl)).getLsbD k = true := by
    simpa [addFences] using hfenced
  rcases hcases with hwas | hnew
  · simp [addFences, hwhole k hk hwas j hj]
  · have hcl : k = cl := by
      rw [BitVec.getLsbD_ofNat, Nat.testBit_two_pow] at hnew
      simp only [Bool.and_eq_true, decide_eq_true_eq] at hnew
      exact hnew.2.symm
    have hcore : (BitVec.ofNat 512 (255 * 2 ^ (8 * cl))).getLsbD (8 * k + j) = true := by
      rw [getLsbD_cores cl _ (hcl ▸ hk), decide_eq_true_eq]
      omega
    show (c.fz.coreFence ||| _).getLsbD (8 * k + j) = true
    rw [BitVec.getLsbD_or, hcore, Bool.or_true]

theorem Chip.fenceCoreFz_grows (c : Chip) (n page b : Nat) : Chip.Grows c (c.fenceCoreFz n page b) := addFences_core_grows _ _ _

theorem Chip.fenceClusterFz_grows (c : Chip) (cl page b : Nat) : Chip.Grows c (c.fenceClusterFz cl page b) :=
  addFences_cluster_grows _ _ _

theorem Chip.coreFenceFz_grows (c : Chip) (n page b : Nat) : Chip.Grows c (c.coreFenceFz n page b) :=
  .ite (.healthGo (addFences_core_grows _ _ _)) (.refl c)

theorem Chip.clusterFenceFz_grows (c : Chip) (cl page b : Nat) : Chip.Grows c (c.clusterFenceFz cl page b) :=
  .ite (.healthGo (addFences_cluster_grows _ _ _)) (.refl c)

/-! ## Consequences of errors (R522), and actions with what waits behind them -/

theorem Chip.dueAct_grows (c : Chip) (d : Due) : Chip.Grows c (c.dueAct d) := by
  unfold Chip.dueAct
  split
  · exact c.fenceCoreFz_grows _ _ _
  · exact c.fenceClusterFz_grows _ _ _
  · exact (Chip.Grows.refl c).keepFz _

theorem Chip.dueGo_grows (f : Nat) : ∀ c : Chip, Chip.Grows c (c.dueGo f) := by
  induction f with
  | zero => exact fun c => .refl c
  | succ f ih =>
    intro c
    unfold Chip.dueGo
    split
    · exact .refl c
    next d _ =>
      have htaken : Chip.Grows c { c with flt.due := c.flt.due.erase d } := .of_fz rfl
      exact (htaken.trans (Chip.dueAct_grows _ d)).trans (ih _)

theorem Chip.faultsGo_grows (c d : Chip) : Chip.Grows d (c.faultsGo d) := .ite (.refl d) (.healthGo (Chip.dueGo_grows 1024 d))

theorem Chip.act_grows (c : Chip) (a : Act) : Chip.Grows c (c.act a) := by
  have hc := Chip.Grows.refl c
  cases a with
  | none => exact hc
  | reset l cause => exact (hc.keepFences _).healthGo
  | coreReset n => exact hc.keepFz _
  | clusterReset cl => exact hc.keepFz _
  | power n =>
    match n with
    | 1 => exact hc.keepFences _
    | 2 => exact hc.keepFz _
    | 0 | _ + 3 => exact hc.keepFz _
  | fenceCore n => exact .ite (.healthGo (c.fenceCoreFz_grows n 0 0xFF)) hc
  | fenceCluster cl => exact .ite (.healthGo (c.fenceClusterFz_grows cl 0 0xFF)) hc
  | sec a => exact hc.keepFences _

theorem Chip.acts_grows (f : Nat) : ∀ (c : Chip) (a : Act), Chip.Grows c (c.acts a f) := by
  induction f with
  | zero => exact Chip.act_grows
  | succ f ih =>
    intro c a
    unfold Chip.acts
    dsimp only
    have hframes := (c.act_grows a).keepFences ((c.act a).framesGo ((c.act a).cur.frameQ.length + 1)).1
    split
    · have hpackets := hframes.keepFz
        (keepFences (c.act a) ((c.act a).framesGo ((c.act a).cur.frameQ.length + 1)).1).hltPump.1
      split
      · exact hpackets
      · exact hpackets.trans (ih _ _)
    · exact hframes.trans (ih _ _)

theorem Chip.actsGo_grows (c : Chip) (a : Act) : Chip.Grows c (c.actsGo a) := Chip.acts_grows _ c a

/-! ## Fences read from fuses (R533) -/

/-- Bit m of the cores of the fenced clusters among the first n. -/
theorem getLsbD_fold_cores (cl : BitVec 64) (n m : Nat) (hn : n ≤ 64) :
    ((List.range n).foldl (fun (v : BitVec 512) k => if cl.getLsbD k then v ||| BitVec.ofNat 512 (255 * 2 ^ (8 * k)) else v) 0).getLsbD m =
      (decide (m / 8 < n) && cl.getLsbD (m / 8)) := by
  induction n with
  | zero => simp
  | succ n ih =>
    rw [List.range_succ, List.foldl_append, List.foldl_cons, List.foldl_nil]
    have hn' := ih (by omega)
    by_cases hm : m / 8 = n
    · have hlt : ¬ m / 8 < n := by omega
      split
      next hset => rw [BitVec.getLsbD_or, getLsbD_cores n m (by omega), hn', hm]; simp [hset]
      next hclear => rw [hn', hm]; simpa using hclear
    · have hiff : m / 8 < n + 1 ↔ m / 8 < n := by omega
      split
      · rw [BitVec.getLsbD_or, getLsbD_cores n m (by omega), hn']; simp [hm, hiff]
      · rw [hn']; simp [hiff]

theorem Chip.clFenced_fencesLoaded (c : Chip) (k : Nat) : c.fencesLoaded.fz.clFence.getLsbD k =
    (c.fz.clFence.getLsbD k || c.fz.clFuseA.getLsbD k || c.fz.clFuseB.getLsbD k) := by
  simp [Chip.fencesLoaded]

/-- A core is fenced at step 7 of a boot by its own fuses or by its cluster's. -/
theorem Chip.coreFenced_fencesLoaded (c : Chip) (n : Nat) (hn : n < 512) : c.fencesLoaded.fz.coreFence.getLsbD n =
    (c.fz.coreFence.getLsbD n || c.fz.coreFuseA.getLsbD n || c.fz.coreFuseB.getLsbD n || c.fencesLoaded.fz.clFence.getLsbD (n / 8)) := by
  have hcores := getLsbD_fold_cores (c.fz.clFence ||| c.fz.clFuseA ||| c.fz.clFuseB) 64 n (le_refl _)
  rw [decide_eq_true (by omega), Bool.true_and] at hcores
  unfold Chip.fencesLoaded
  dsimp only
  rw [BitVec.getLsbD_or, hcores]
  simp only [BitVec.getLsbD_or]

theorem Chip.fencesLoaded_clustersHold (c : Chip) : c.fencesLoaded.fz.clustersHold := by
  intro k hk hfenced j hj
  rw [c.coreFenced_fencesLoaded _ (by omega), show (8 * k + j) / 8 = k by omega, hfenced, Bool.or_true]

theorem Chip.fencesLoaded_fusesHold (c : Chip) : c.fencesLoaded.fz.fusesHold := by
  refine ⟨fun n hn hblown => ?_, fun k hk hblown => ?_⟩
  · have hown : (c.fz.coreFuseA ||| c.fz.coreFuseB).getLsbD n = true := hblown
    rw [BitVec.getLsbD_or, Bool.or_eq_true] at hown
    rw [c.coreFenced_fencesLoaded n hn]
    rcases hown with ha | hb
    · simp [ha]
    · simp [hb]
  · have hown : (c.fz.clFuseA ||| c.fz.clFuseB).getLsbD k = true := hblown
    rw [BitVec.getLsbD_or, Bool.or_eq_true] at hown
    rw [c.clFenced_fencesLoaded]
    rcases hown with ha | hb
    · simp [ha]
    · simp [hb]

theorem Chip.bootFz_grows (c : Chip) : Chip.Grows c c.bootFz := by
  have hloaded : Chip.Grows c c.fencesLoaded := ⟨c.fencesLoaded_grown, rfl, rfl, rfl, rfl, fun _ => c.fencesLoaded_clustersHold⟩
  exact (Chip.Grows.ite hloaded (.refl c)).keepFz _

/-! ## Every command is a lift -/

/-- How a command of a reach answers in state s: as one of the lifts. -/
inductive State.Runs (s : State) : Reach → Ran → Prop where
  | eng (f : Chip → Chip) : s.Runs .engine (s.eng f)
  | die (f : Chip → Chip) : s.Runs .die (s.die f)
  | timed (due : Chip → Nat) (f : Chip → Chip) : s.Runs .unit (s.timed due f)
  | page (p : Nat) (f : Chip → Chip) : s.Runs .unit (s.page p f)
  | aon (f : Chip → Chip) : s.Runs .unit (s.aon f)
  | power (f : Chip → Chip) : s.Runs .kept (s.power f)
  | store (on : Bool) (f : Chip → Chip) : s.Runs .kept (s.store on f)
  | served (f : Chip → Chip × Act) : s.Runs .grown (s.served f)
  | fence {d : Chip} (h : Chip.Grows s.chip d) : s.Runs .grown (.next { s with chip := d })
  | fuses (cl : Bool) (u : Nat) (okA okB : Bool) : s.Runs .fuses (.next { s with chip := s.chip.fuseFz cl u okA okB })
  | loss : s.Runs .loss (.next { s with chip := s.chip.lossFz })

/-- No reading, or one within the ratings (R571), is a change of power. -/
theorem exec_sensorSample_within {n : Fin 334} {v : Option (BitVec 32)} {s : State}
    (hin : ∀ x, v = some x → outsideRatings n x.toInt = false) :
    exec (.sensorSample n v) s = s.power (fun c => c.sensorRow n v) := by
  rw [exec_sensorSample]
  cases v with
  | none => exact if_neg Bool.false_ne_true
  | some x => exact if_neg (ne_true_of_eq_false (hin x rfl))

/-- Every command but a reading outside the ratings (R571) runs as a lift of its reach. -/
theorem exec_runs (i : Instr) (s : State) (hratings : ∀ n v, i = .sensorSample n (some v) → outsideRatings n v.toInt = false) :
    s.Runs (reachOf i) (exec i s) := by
  cases i with
  | stepOp | veAdd | veSub | veMul | veFma | veMin | veMax | veCmplt | veSelect | veMov | veAct | veRsum | veRmax | veRmin |
  veArgmax | veLsum | veWiden | veNarrow | vePack | spstep | probe | joinOp | maskOp | ldeLinear | ldeStrided | ldeIndexed |
  ldeRuns | steLinear | steStrided | steIndexed | scuNop | scuSet | scuAdd | scuSub | ldp | arm | setk =>
    show s.Runs .engine _
    simp only [exec_stepOp, exec_veAdd, exec_veSub, exec_veMul, exec_veFma, exec_veMin, exec_veMax, exec_veCmplt, exec_veSelect,
    exec_veMov, exec_veAct, exec_veRsum, exec_veRmax, exec_veRmin, exec_veArgmax, exec_veLsum, exec_veWiden, exec_veNarrow,
    exec_vePack, exec_spstep, exec_probe, exec_joinOp, exec_maskOp, exec_ldeLinear, exec_ldeStrided, exec_ldeIndexed,
    exec_ldeRuns, exec_steLinear, exec_steStrided, exec_steIndexed, exec_scuNop, exec_scuSet, exec_scuAdd, exec_scuSub,
    exec_ldp, exec_arm, exec_setk]
    exact .eng _
  | dbTail | descRead | waitMet | issue | heldStart | commandComplete | copy | counterNop | setRange | readRange | cntSet |
  cntAdd | swapCheck | kernel | kernelLoad | kernelPreload | portTransfer | dbgResume | dbgStep | dbgHalt | route | domainLoad |
  routeBias | laneDrain | chargeGrant | dispatch | retrn | cancel | combine | droverIssue | combineToken | arrivalApply | moveIn
  | moveOut | pin | unpin | clearPoison | setEnc | ttBind | ttUnbind | demandBind | demandUnbind | ttEntry | noticeWrite |
  moveClaim | scrub | lpRefresh | lpRetrain | lpPowerDown | poolBuildDone | bufRetain | bufRelease | post | take | alloc |
  retain | release | mbxPost | mbxLock | mbxTake | mbxRelease | mbxBreak | caindWrite | caindReturn | caindPost | caindRead |
  caindReadData | caindAck | caindColl | caindNotice | ackFlush | portTrained | portDown | allReduce | reduceScatter | allGather
  | allToAll | broadcast | mload | collSend | gate | dieError =>
    show s.Runs .die _
    simp only [exec_dbTail, exec_descRead, exec_waitMet, exec_issue, exec_heldStart, exec_commandComplete, exec_copy,
    exec_counterNop, exec_setRange, exec_readRange, exec_cntSet, exec_cntAdd, exec_swapCheck, exec_kernel, exec_kernelLoad,
    exec_kernelPreload, exec_portTransfer, exec_dbgResume, exec_dbgStep, exec_dbgHalt, exec_route, exec_domainLoad,
    exec_routeBias, exec_laneDrain, exec_chargeGrant, exec_dispatch, exec_retrn, exec_cancel, exec_combine, exec_droverIssue,
    exec_combineToken, exec_arrivalApply, exec_moveIn, exec_moveOut, exec_pin, exec_unpin, exec_clearPoison, exec_setEnc,
    exec_ttBind, exec_ttUnbind, exec_demandBind, exec_demandUnbind, exec_ttEntry, exec_noticeWrite, exec_moveClaim, exec_scrub,
    exec_lpRefresh, exec_lpRetrain, exec_lpPowerDown, exec_poolBuildDone, exec_bufRetain, exec_bufRelease, exec_post, exec_take,
    exec_alloc, exec_retain, exec_release, exec_mbxPost, exec_mbxLock, exec_mbxTake, exec_mbxRelease, exec_mbxBreak,
    exec_caindWrite, exec_caindReturn, exec_caindPost, exec_caindRead, exec_caindReadData, exec_caindAck, exec_caindColl,
    exec_caindNotice, exec_ackFlush, exec_portTrained, exec_portDown, exec_allReduce, exec_reduceScatter, exec_allGather,
    exec_allToAll, exec_broadcast, exec_mload, exec_collSend, exec_gate, exec_dieError]
    exact .die _
  | waitExpired | acctWindow | swapDone | cpxRequestDone | kernelEnd | bundle | lqTimeout | retTimeout | txnTimeout |
  collTimeout | wake | wakeReady | wdt =>
    show s.Runs .unit _
    simp only [exec_waitExpired, exec_acctWindow, exec_swapDone, exec_cpxRequestDone, exec_kernelEnd, exec_bundle,
    exec_lqTimeout, exec_retTimeout, exec_txnTimeout, exec_collTimeout, exec_wake, exec_wakeReady, exec_wdt]
    exact .timed _ _
  | cmdqTail | cmdqEnable | cmdqDisable | cmdqResume | abortHead | abortAll | cmdqCfg | feAdmit | feSched | ctxCreate |
  ctxDestroy | ctxSwapOut | ctxSwapIn | ctxQuery | tilePin | tileUnpin | cmdqBase | vitMark | vitClear | vitRdIdx | bpmCtrl |
  bpmPoolCfg | mbxCfg | bpmTable | cptEnable | cptRetrain | admitJob | drain | remove | cfbNode | hltEnable | hltRetrain |
  irqPendClear | irqHost | irqCpx | tbsSet | invArm | invCancel | fltWdtKick | errInj =>
    show s.Runs .unit _
    simp only [exec_cmdqTail, exec_cmdqEnable, exec_cmdqDisable, exec_cmdqResume, exec_abortHead, exec_abortAll, exec_cmdqCfg,
    exec_feAdmit, exec_feSched, exec_ctxCreate, exec_ctxDestroy, exec_ctxSwapOut, exec_ctxSwapIn, exec_ctxQuery, exec_tilePin,
    exec_tileUnpin, exec_cmdqBase, exec_vitMark, exec_vitClear, exec_vitRdIdx, exec_bpmCtrl, exec_bpmPoolCfg, exec_mbxCfg,
    exec_bpmTable, exec_cptEnable, exec_cptRetrain, exec_admitJob, exec_drain, exec_remove, exec_cfbNode, exec_hltEnable,
    exec_hltRetrain, exec_irqPendClear, exec_irqHost, exec_irqCpx, exec_tbsSet, exec_invArm, exec_invCancel, exec_fltWdtKick,
    exec_errInj]
    exact .page _ _
  | halterTrained | halterDown | tbpIn | tbpOut | holdover | inventorySnapshot | i3cRead | entdaa | setdasa | rstdaa | enec |
  disec | getpid | getbcr | getdcr | getstatus | getmwl | getmrl | ibi =>
    show s.Runs .unit _
    simp only [exec_halterTrained, exec_halterDown, exec_tbpIn, exec_tbpOut, exec_holdover, exec_inventorySnapshot,
    exec_i3cRead, exec_entdaa, exec_setdasa, exec_rstdaa, exec_enec, exec_disec, exec_getpid, exec_getbcr, exec_getdcr,
    exec_getstatus, exec_getmwl, exec_getmrl, exec_ibi]
    exact .aon _
  | frame l f => cases l with
    | caind p => exact .die (fun c => (c.portFrame p f).healthGo)
    | halter => exact .aon (fun c => (c.hltFrame f).healthGo)
  | replay l ack => cases l with
    | caind p => exact .die (fun c => (c.portReplay p ack.toNat).healthGo)
    | halter => exact .aon (fun c => (c.hltReplay ack.toNat).healthGo)
  | lpDeepSleep | resetL | aux12On | mainUv | autoRestart | droop | phaseAdd | phaseShed | dvfsStep | thermStep | thermalTrip |
  aclkIdle | active | standby | aux | coldReset | moduleReset | dieWarmReset | clusterReset | coreReset | dieHoldExpiry |
  resetLRelease | tapInstruction | main48Applied | resetDone =>
    show s.Runs .kept _
    simp only [exec_lpDeepSleep, exec_resetL, exec_aux12On, exec_mainUv, exec_autoRestart, exec_droop, exec_phaseAdd,
    exec_phaseShed, exec_dvfsStep, exec_thermStep, exec_thermalTrip, exec_aclkIdle, exec_active, exec_standby, exec_aux,
    exec_coldReset, exec_moduleReset, exec_dieWarmReset, exec_clusterReset, exec_coreReset, exec_dieHoldExpiry,
    exec_resetLRelease, exec_tapInstruction, exec_main48Applied, exec_resetDone]
    exact .power _
  | ledgerWrite | attest | pubkey | keyInstall | setCurrent | retire | rekey | erase | secRequestDone | fwUpdateDone =>
    show s.Runs .kept _
    simp only [exec_ledgerWrite, exec_attest, exec_pubkey, exec_keyInstall, exec_setCurrent, exec_retire, exec_rekey,
    exec_erase, exec_secRequestDone, exec_fwUpdateDone]
    exact .store _ _
  | sensorSample n v =>
    rw [exec_sensorSample_within fun x hx => hratings n x (hx ▸ rfl)]
    exact .power _
  | moveComplete | forward | halterWrite | halterRead | halterMalformed | identify | health | sensor | ledger | regRead |
  regWrite | snapshot | time | fwStage | fwStart | fwStatus | resetFrame | registerWrite =>
    show s.Runs .grown _
    simp only [exec_moveComplete, exec_forward, exec_halterWrite, exec_halterRead, exec_halterMalformed, exec_identify,
    exec_health, exec_sensor, exec_ledger, exec_regRead, exec_regWrite, exec_snapshot, exec_time, exec_fwStage, exec_fwStart,
    exec_fwStatus, exec_resetFrame, exec_registerWrite]
    exact .served _
  | coreFence n page b => exact .fence (.ite (.trans (s.chip.coreFenceFz_grows n page.toNat b) (s.chip.faultsGo_grows _)) (.refl _))
  | clusterFence k page b => exact .fence (.ite (.trans (s.chip.clusterFenceFz_grows k page.toNat b) (s.chip.faultsGo_grows _)) (.refl _))
  | fenceCore n => exact .fence (.ite (.trans (.healthGo (s.chip.fenceCoreFz_grows n 0 0xFF)) (s.chip.faultsGo_grows _)) (.refl _))
  | fenceCluster k => exact .fence (.ite (.trans (.healthGo (s.chip.fenceClusterFz_grows k 0 0xFF)) (s.chip.faultsGo_grows _)) (.refl _))
  | bootComplete => exact .fence (.healthGo s.chip.bootFz_grows)
  | fenceFuse cl u okA okB => exact .fuses cl u okA okB
  | aux12Loss => exact .loss

/-- A command that answers a next state is no reading outside the ratings. -/
theorem exec_runs_of_next {i : Instr} {s t : State} (h : exec i s = .next t) : s.Runs (reachOf i) (exec i s) := by
  refine exec_runs i s fun n v hi => Bool.eq_false_of_not_eq_true fun hout => ?_
  have hstop : exec i s = .fault .outsideRatings := by rw [hi, exec_sensorSample]; exact if_pos hout
  rw [hstop] at h
  cases h

end Sys2Proof.Machine

namespace Sys2Proof.Machine

/-! ## What each reach keeps -/

theorem Reach.keeps_refl (r : Reach) (c : Chip) : r.keeps c c := by
  cases r with
  | engine => exact ⟨rfl, rfl, rfl, rfl, rfl, rfl, rfl, rfl, rfl⟩
  | die => exact ⟨rfl, rfl⟩
  | unit => exact rfl
  | kept => exact Reach.unit_kept rfl
  | grown => exact Reach.grown_refl c
  | fuses => exact ⟨rfl, rfl, rfl, .refl _⟩
  | loss => exact ⟨rfl, .refl _⟩

theorem Reach.leads_refl (r : Reach) (c : Chip) : r.leads c c := ⟨c, r.keeps_refl c, (Chip.faultsGo_same rfl).symm, fun _ => rfl⟩

/-- A command that is taken where its part of the chip works, and is nothing elsewhere. -/
theorem Reach.leads_ite {r : Reach} {c e : Chip} (p : Prop) [Decidable p] (h : r.keeps c e) :
    r.leads c (if p then c.faultsGo e else c) := by
  split
  · exact Reach.leads_of h
  · exact r.leads_refl c

theorem Reach.kept_of_fz {c d e : Chip} (h : Reach.kept.keeps c d) (k : e.fz = d.fz) : Reach.kept.keeps c e := by
  rwa [Reach.keeps, k]

theorem Reach.unit_grows {c d : Chip} (h : Reach.unit.leads c d) : Chip.Grows c d := by
  obtain ⟨e, hfz, rfl, -⟩ := h
  exact (Chip.Grows.of_fz hfz).trans (c.faultsGo_grows e)

theorem Reach.kept_grows {c d : Chip} (h : Reach.kept.leads c d) : Chip.Grows c d := by
  obtain ⟨e, hkept, rfl, -⟩ := h
  exact (Chip.Grows.of_kept hkept).trans (c.faultsGo_grows e)

namespace State.Runs

variable {s : State} {o : Ran}

theorem engine_leads (h : s.Runs .engine o) :
    ∃ d, o = .next { s with chip := d } ∧ Reach.engine.leads s.chip d ∧ (s.dieOn = false → d = s.chip) := by
  cases h with
  | eng f => exact ⟨_, rfl, Reach.leads_ite _ ⟨rfl, rfl, rfl, rfl, rfl, rfl, rfl, rfl, rfl⟩, fun hoff => if_neg (ne_true_of_eq_false hoff)⟩

theorem die_leads (h : s.Runs .die o) :
    ∃ d, o = .next { s with chip := d } ∧ Reach.die.leads s.chip d ∧ (s.dieOn = false → d = s.chip) := by
  cases h with
  | die f => exact ⟨_, rfl, Reach.leads_ite _ ⟨rfl, rfl⟩, fun hoff => if_neg (ne_true_of_eq_false hoff)⟩

theorem unit_leads (h : s.Runs .unit o) : ∃ d, o = .next { s with chip := d } ∧ Reach.unit.leads s.chip d := by
  cases h with
  | timed due f => exact ⟨_, rfl, Reach.leads_ite _ rfl⟩
  | page p f => exact ⟨_, rfl, Reach.leads_ite _ rfl⟩
  | aon f => exact ⟨_, rfl, Reach.leads_ite _ rfl⟩

theorem kept_leads (h : s.Runs .kept o) : ∃ d, o = .next { s with chip := d } ∧ Reach.kept.leads s.chip d := by
  cases h with
  | power f => exact ⟨_, rfl, Reach.leads_of (Reach.kept_of_fz (keepFences_kept s.chip (f s.chip)) (Chip.healthGo_fz _))⟩
  | store on f => exact ⟨_, rfl, Reach.leads_ite _ (Reach.kept_of_fz (keepFences_kept s.chip (f s.chip)) rfl)⟩

theorem grown_grows (h : s.Runs .grown o) : ∃ d, o = .next { s with chip := d } ∧ Chip.Grows s.chip d := by
  cases h with
  | served f =>
    have hserved := ((Chip.Grows.refl s.chip).keepFences (f s.chip).1).trans (Chip.actsGo_grows _ (f s.chip).2)
    exact ⟨_, rfl, (hserved.trans (.of_fz (Chip.ctxRefresh_fz _))).trans (s.chip.faultsGo_grows _)⟩
  | fence hgrows => exact ⟨_, rfl, hgrows⟩

/-- Every command but FENCE_FUSE and AUX12_LOSS lets fences only grow, whole clusters at a time, with no fuse changed. -/
theorem grows {r : Reach} (h : s.Runs r o) (hfuses : r ≠ .fuses) (hloss : r ≠ .loss) :
    ∃ d, o = .next { s with chip := d } ∧ Chip.Grows s.chip d := by
  cases r with
  | engine =>
    obtain ⟨d, ho, ⟨e, ⟨hfz, -⟩, hd, hsame⟩, -⟩ := h.engine_leads
    exact ⟨d, ho, Reach.unit_grows ⟨e, hfz, hd, hsame⟩⟩
  | die =>
    obtain ⟨d, ho, ⟨e, ⟨hfz, -⟩, hd, hsame⟩, -⟩ := h.die_leads
    exact ⟨d, ho, Reach.unit_grows ⟨e, hfz, hd, hsame⟩⟩
  | unit =>
    obtain ⟨d, ho, hleads⟩ := h.unit_leads
    exact ⟨d, ho, Reach.unit_grows hleads⟩
  | kept =>
    obtain ⟨d, ho, hleads⟩ := h.kept_leads
    exact ⟨d, ho, Reach.kept_grows hleads⟩
  | grown => exact h.grown_grows
  | fuses => exact absurd rfl hfuses
  | loss => exact absurd rfl hloss

theorem fuses_eq (h : s.Runs .fuses o) : ∃ cl u okA okB, o = .next { s with chip := s.chip.fuseFz cl u okA okB } := by
  cases h with
  | fuses cl u okA okB => exact ⟨cl, u, okA, okB, rfl⟩

theorem loss_eq (h : s.Runs .loss o) : o = .next { s with chip := s.chip.lossFz } := by
  cases h with
  | loss => rfl

/-- Each lift answers a next state with the same queue. -/
theorem completes {r : Reach} (h : s.Runs r o) : ∃ d, o = .next { s with chip := d } := by
  by_cases hfuses : r = .fuses
  · subst hfuses
    obtain ⟨cl, u, okA, okB, ho⟩ := h.fuses_eq
    exact ⟨_, ho⟩
  · by_cases hloss : r = .loss
    · subst hloss
      exact ⟨_, h.loss_eq⟩
    · obtain ⟨d, ho, -⟩ := h.grows hfuses hloss
      exact ⟨d, ho⟩

end State.Runs

/-- Commands but SENSOR_SAMPLE are no readings. -/
theorem exec_runs_of_reach {i : Instr} {r : Reach} (s : State) (hreach : reachOf i = r) (hr : r ≠ .kept) : s.Runs r (exec i s) := by
  rw [← hreach]
  refine exec_runs i s fun n v hi => ?_
  subst hi
  exact absurd hreach.symm hr

/-- Settles O8: every command runs as a lift, and each lift answers; a reading outside the ratings stops the run. -/
theorem everyCommandCompletes : Obligations.EveryCommandCompletes := by
  refine ⟨fun i s hratings => ?_, fun n v s hout => ?_⟩
  · obtain ⟨d, hnext⟩ := (exec_runs i s hratings).completes
    exact ⟨_, hnext, rfl, trivial⟩
  · rw [exec_sensorSample]
    exact if_pos hout

/-- Settles O15: a die that is not ACTIVE takes no operation (R511, log 102); an ACTIVE one keeps the groups that `keepEngine` keeps. -/
theorem engineOperations : Obligations.EngineOperations := by
  intro i s hreach
  obtain ⟨d, hnext, hd⟩ := (exec_runs_of_reach s hreach (by decide)).engine_leads
  exact ⟨_, hnext, rfl, hd⟩

/-- Settles O16: a die that is not ACTIVE takes no command (R511, log 102). -/
theorem dieCommands : Obligations.DieCommands := by
  intro i s hreach
  obtain ⟨d, hnext, hd⟩ := (exec_runs_of_reach s hreach (by decide)).die_leads
  exact ⟨_, hnext, rfl, hd⟩

/-- Settles O17: each of the three lifts of registers and timed events keeps what no reset clears. -/
theorem registerAndTimedRows : Obligations.RegisterAndTimedRows := by
  intro i s hreach
  obtain ⟨d, hnext, hd⟩ := (exec_runs_of_reach s hreach (by decide)).unit_leads
  exact ⟨_, hnext, rfl, hd⟩

/-- Settles O18: changes of power and of the store keep fences and fuses; served commands and fence rows let fences only grow. -/
theorem powerAndServedRows : Obligations.PowerAndServedRows := by
  refine fun i s => ⟨fun hreach hratings => ?_, fun hreach => ?_⟩
  · have hruns := exec_runs i s hratings
    rw [hreach] at hruns
    obtain ⟨d, hnext, hd⟩ := hruns.kept_leads
    exact ⟨_, hnext, rfl, hd⟩
  · obtain ⟨d, hnext, hd⟩ := (exec_runs_of_reach s hreach (by decide)).grown_grows
    exact ⟨_, hnext, rfl, hd.grown⟩

/-! ## FENCE_FUSE and AUX12_LOSS -/

/-- FENCE_FUSE of a fenced unit takes over the fuses of its operation, and of what no reset clears nothing else. -/
theorem Chip.fuseFz_of_fenced {c : Chip} {cl : Bool} {u : Nat} (okA okB : Bool) (h : (if cl then c.clFenced u else c.coreFenced u) = true) :
    (c.fuseFz cl u okA okB).fz = { c.fz with
      coreFuseA := (c.fenceFuse cl u okA okB).fz.coreFuseA, coreFuseB := (c.fenceFuse cl u okA okB).fz.coreFuseB,
      clFuseA := (c.fenceFuse cl u okA okB).fz.clFuseA, clFuseB := (c.fenceFuse cl u okA okB).fz.clFuseB } := by
  rw [Chip.fuseFz, if_pos h]

/-- FENCE_FUSE blows no fuse, or those of its fenced unit alone. -/
theorem Chip.fuseFz_cases (c : Chip) (cl : Bool) (u : Nat) (okA okB : Bool) : (c.fuseFz cl u okA okB).fz = c.fz ∨
    ∃ a b : BitVec 512, (∀ m, (a ||| b).getLsbD m = true → m = u) ∧
      if cl then c.clFenced u = true ∧ (c.fuseFz cl u okA okB).fz =
        { c.fz with clFuseA := c.fz.clFuseA ||| a.setWidth 64, clFuseB := c.fz.clFuseB ||| b.setWidth 64 }
      else c.coreFenced u = true ∧ (c.fuseFz cl u okA okB).fz =
        { c.fz with coreFuseA := c.fz.coreFuseA ||| a, coreFuseB := c.fz.coreFuseB ||| b } := by
  by_cases hfenced : (if cl then c.clFenced u else c.coreFenced u) = true
  · rw [Chip.fuseFz_of_fenced okA okB hfenced]
    rcases c.fenceFuse_fz cl u okA okB with hsame | ⟨a, b, hown, hblown⟩
    · exact .inl (by rw [hsame])
    · refine .inr ⟨a, b, hown, ?_⟩
      rw [hblown]
      cases cl with
      | false => exact ⟨hfenced, rfl⟩
      | true => exact ⟨hfenced, rfl⟩
  · exact .inl (by rw [Chip.fuseFz, if_neg hfenced])

theorem Chip.fuseFz_keeps (c : Chip) (cl : Bool) (u : Nat) (okA okB : Bool) : Reach.fuses.keeps c (c.fuseFz cl u okA okB) := by
  rcases c.fuseFz_cases cl u okA okB with hsame | ⟨a, b, -, hblown⟩
  · rw [Reach.keeps, hsame]
    exact ⟨rfl, rfl, rfl, .refl _⟩
  · cases cl with
    | false =>
      obtain ⟨-, hfz⟩ := hblown
      rw [Reach.keeps, hfz]
      exact ⟨rfl, rfl, rfl, fun n hn => by simp [hn], fun n hn => by simp [hn], fun _ hk => hk, fun _ hk => hk⟩
    | true =>
      obtain ⟨-, hfz⟩ := hblown
      rw [Reach.keeps, hfz]
      exact ⟨rfl, rfl, rfl, fun _ hn => hn, fun _ hn => hn, fun k hk => by simp [hk], fun k hk => by simp [hk]⟩

/-- Only a fenced unit's fuses are blown (R533). -/
theorem Chip.fuseFz_fusesHold (c : Chip) (cl : Bool) (u : Nat) (okA okB : Bool) (h : c.fz.fusesHold) :
    (c.fuseFz cl u okA okB).fz.fusesHold := by
  rcases c.fuseFz_cases cl u okA okB with hsame | ⟨a, b, hown, hblown⟩
  · rwa [hsame]
  · cases cl with
    | false =>
      obtain ⟨hfenced, hfz⟩ := hblown
      rw [hfz]
      refine ⟨fun n hn hset => ?_, h.2⟩
      have hcases : (c.fz.coreFuseA ||| c.fz.coreFuseB).getLsbD n = true ∨ (a ||| b).getLsbD n = true := by
        simp only [BitVec.getLsbD_or, Bool.or_eq_true] at hset ⊢
        tauto
      rcases hcases with hwas | hnew
      · exact h.1 n hn hwas
      · exact hown n hnew ▸ hfenced
    | true =>
      obtain ⟨hfenced, hfz⟩ := hblown
      rw [hfz]
      refine ⟨h.1, fun k hk hset => ?_⟩
      have hcases : (c.fz.clFuseA ||| c.fz.clFuseB).getLsbD k = true ∨ (a ||| b).getLsbD k = true := by
        simp only [BitVec.getLsbD_or, BitVec.getLsbD_setWidth, Bool.or_eq_true, Bool.and_eq_true] at hset ⊢
        tauto
      rcases hcases with hwas | hnew
      · exact h.2 k hk hwas
      · exact hown k hnew ▸ hfenced

theorem Chip.lossFz_fz (c : Chip) : c.lossFz.fz = (Chip.fencesLoaded { c with fz := { c.fz with coreFence := 0, clFence := 0 } }).fz := rfl

/-! ## What every step keeps -/

/-- A step is the idle nanosecond, or runs the front command, which has a lift. -/
theorem step_runs {s t : State} (h : step s = .next t) : (s.pending = [] ∧ t = s.idle) ∨
    ∃ i rest, s.pending = i :: rest ∧ State.Runs { s with pending := rest } (reachOf i) (.next t) := by
  unfold step at h
  split at h
  next hnone =>
    cases h
    exact .inl ⟨hnone, rfl⟩
  next i rest hfront => exact .inr ⟨i, rest, hfront, h ▸ exec_runs_of_next h⟩

theorem State.idle_grows (s : State) : Chip.Grows s.chip s.idle.chip := by
  have hpass : Chip.Grows s.chip (keepFz s.chip.tick s.chip.tick.linksTrain) := .of_fz (s.chip.pass_fz 1)
  have hacts := hpass.trans (Chip.actsGo_grows _ .none)
  exact (hacts.trans (.of_fz (Chip.ctxRefresh_fz _))).trans (s.chip.faultsGo_grows _)

/-- What a step can do to fences, fuses and floors. -/
theorem step_cases {s t : State} (h : step s = .next t) : Chip.Grows s.chip t.chip ∨
    (∃ cl u okA okB, t.chip = s.chip.fuseFz cl u okA okB) ∨
    ((∃ i rest, s.pending = i :: rest ∧ reachOf i = .loss) ∧ t.chip = s.chip.lossFz) := by
  rcases step_runs h with ⟨-, rfl⟩ | ⟨i, rest, hfront, hruns⟩
  · exact .inl s.idle_grows
  · by_cases hfuses : reachOf i = .fuses
    · rw [hfuses] at hruns
      obtain ⟨cl, u, okA, okB, ht⟩ := hruns.fuses_eq
      cases ht
      exact .inr (.inl ⟨cl, u, okA, okB, rfl⟩)
    · by_cases hloss : reachOf i = .loss
      · rw [hloss] at hruns
        cases hruns.loss_eq
        exact .inr (.inr ⟨⟨i, rest, hfront, hloss⟩, rfl⟩)
      · obtain ⟨d, ht, hgrows⟩ := hruns.grows hfuses hloss
        cases ht
        exact .inl hgrows

theorem reachOf_loss_iff (i : Instr) : reachOf i = .loss ↔ i = .aux12Loss := by
  refine ⟨fun h => ?_, fun h => h ▸ rfl⟩
  cases i with
  | aux12Loss => rfl
  | frame l f => cases l <;> cases h
  | replay l ack => cases l <;> cases h
  | _ => cases h

/-- Settles O5: fences grow by whole clusters with every fuse as before; FENCE_FUSE blows fuses of fenced units alone; after a loss of
AUX12 the fences are those of the blown fuses. -/
theorem stepKeepsFuseInv : Obligations.StepKeepsFuseInv := by
  rintro s t ⟨hclusters, hfuses, hfloors⟩ hstep
  rcases step_cases hstep with hgrows | ⟨cl, u, okA, okB, ht⟩ | ⟨-, ht⟩
  · obtain ⟨⟨hfences, -, hup⟩, hwhole⟩ := hgrows
    exact ⟨hwhole.whole hclusters, hwhole.fusesHold hfences hfuses, (hup hfloors).2⟩
  · obtain ⟨hcore, hcl, hsame, -⟩ := s.chip.fuseFz_keeps cl u okA okB
    rw [State.FuseInv, ht]
    refine ⟨?_, s.chip.fuseFz_fusesHold cl u okA okB hfuses, ?_⟩
    · rwa [Fz.clustersHold, hcore, hcl]
    · rwa [Fz.floorsHold, hsame]
  · rw [State.FuseInv, ht, Chip.lossFz_fz]
    exact ⟨Chip.fencesLoaded_clustersHold _, Chip.fencesLoaded_fusesHold _, hfloors⟩

/-- Settles O6: only AUX12_LOSS has the reach of a loss; FENCE_FUSE changes no fence, and every other step lets them grow. -/
theorem fencesStand : Obligations.FencesStand := by
  intro s t hstep hnoloss
  rcases step_cases hstep with hgrows | ⟨cl, u, okA, okB, ht⟩ | ⟨⟨i, rest, hfront, hloss⟩, -⟩
  · exact hgrows.grown.1
  · obtain ⟨hcore, hcl, -⟩ := s.chip.fuseFz_keeps cl u okA okB
    rw [ht]
    exact ⟨fun n hn => hcore ▸ hn, fun k hk => hcl ▸ hk⟩
  · rw [reachOf_loss_iff] at hloss
    exact absurd (hloss ▸ hfront) (hnoloss rest)

/-- Settles O7: fuses are blown by FENCE_FUSE alone and cleared by nothing; floors rise through `keepFences` alone. -/
theorem fusesAndFloorsStand : Obligations.FusesAndFloorsStand := by
  intro s t hfloors hstep
  rcases step_cases hstep with hgrows | ⟨cl, u, okA, okB, ht⟩ | ⟨-, ht⟩
  · obtain ⟨-, hfuses, hup⟩ := hgrows.grown
    exact ⟨hfuses, (hup hfloors).1⟩
  · obtain ⟨-, -, hsame, hfuses⟩ := s.chip.fuseFz_keeps cl u okA okB
    rw [ht]
    exact ⟨hfuses, fun i _ => by rw [hsame]⟩
  · rw [ht]
    exact ⟨.refl _, .refl _⟩

/-- Settles O4: no fence and no fuse is set after reset, and the five floors are 0. -/
theorem resetFuseInv : Obligations.ResetFuseInv := by
  refine ⟨⟨fun k _ hfenced => ?_, ⟨fun n _ hblown => ?_, fun k _ hblown => ?_⟩, by decide, by decide⟩, rfl, rfl, rfl⟩
  · exact absurd hfenced (by simp [State.reset, Chip.reset, Chip.off, Fz.reset])
  · exact absurd hblown (by simp [State.reset, Chip.reset, Chip.off, Fz.reset])
  · exact absurd hblown (by simp [State.reset, Chip.reset, Chip.off, Fz.reset])

/-- Settles O1: the front command is taken off the queue before it runs. -/
theorem stepRunsFront : Obligations.StepRunsFront := by
  intro s i rest hfront
  rw [step, hfront]

end Sys2Proof.Machine

/-!
The rows of the commands: each answers the next state of its own operation where its part of the chip works.
-/

namespace Sys2Proof.Machine

section Rows

variable {i : Instr} {s : State} {f : Chip → Chip}

/-- A command that is taken where p holds. -/
theorem next_chip_of_pos {p : Prop} [Decidable p] {d e : Chip} (h : p) :
    (Host.Outcome.next { s with chip := if p then d else e } : Ran) = .next { s with chip := d } := by rw [if_pos h]

theorem runsDie_of (hrun : exec i s = s.die f) (hon : s.dieOn = true) : runsDie s i f := hrun.trans (next_chip_of_pos hon)

theorem runsEng_of (hrun : exec i s = s.eng f) (hon : s.dieOn = true) : runsEng s i f := hrun.trans (next_chip_of_pos hon)

theorem runsTimed_of {due : Chip → Nat} (hrun : exec i s = s.timed due f) (hon : s.dieOn = true) : runsTimed s i due f :=
  hrun.trans (next_chip_of_pos hon)

theorem runsPage_of {page : Nat} (hrun : exec i s = s.page page f) (hlive : s.chip.pageLive page = true) : runsPage s i f :=
  hrun.trans (next_chip_of_pos hlive)

theorem runsAon_of (hrun : exec i s = s.aon f) (haux : s.chip.pwr.aux12 = true) : runsAon s i f := hrun.trans (next_chip_of_pos haux)

theorem runsStore_of {on : Bool} (hrun : exec i s = s.store on f) (hon : on = true) : runsStore s i f :=
  hrun.trans (next_chip_of_pos hon)

theorem runsPower_of (hrun : exec i s = s.power f) : runsPower s i f := hrun

theorem runsServed_of {f : Chip → Chip × Act} (hrun : exec i s = s.served f) : runsServed s i f := hrun

end Rows

/-- Settles O9: each row is the lift of its operation where the die is ACTIVE or its page answers. -/
theorem frontRows : Obligations.FrontRows :=
  fun s => ⟨
    fun hon => ⟨
      fun _ _ _ => runsDie_of (exec_dbTail ..) hon,
      fun _ => runsDie_of (exec_descRead ..) hon,
      fun _ _ => runsDie_of (exec_waitMet ..) hon,
      fun _ _ => runsTimed_of (exec_waitExpired ..) hon,
      runsDie_of (exec_issue s) hon,
      fun _ _ => runsDie_of (exec_heldStart ..) hon,
      fun _ _ => runsDie_of (exec_commandComplete ..) hon,
      runsTimed_of (exec_acctWindow s) hon,
      fun _ _ => runsDie_of (exec_copy ..) hon,
      fun _ _ => runsDie_of (exec_counterNop ..) hon,
      fun _ _ => runsDie_of (exec_setRange ..) hon,
      fun _ _ => runsDie_of (exec_readRange ..) hon,
      fun _ _ => runsDie_of (exec_cntSet ..) hon,
      fun _ _ => runsDie_of (exec_cntAdd ..) hon,
      runsDie_of (exec_swapCheck s) hon,
      runsTimed_of (exec_swapDone s) hon,
      runsTimed_of (exec_cpxRequestDone s) hon⟩,
    fun _ _ hlive => runsPage_of (exec_cmdqTail ..) hlive,
    fun _ hlive => runsPage_of (exec_cmdqEnable ..) hlive,
    fun _ hlive => runsPage_of (exec_cmdqDisable ..) hlive,
    fun _ hlive => runsPage_of (exec_cmdqResume ..) hlive,
    fun _ hlive => runsPage_of (exec_abortHead ..) hlive,
    fun _ hlive => runsPage_of (exec_abortAll ..) hlive,
    fun _ _ hlive => runsPage_of (exec_cmdqCfg ..) hlive,
    fun _ hlive => runsPage_of (exec_feAdmit ..) hlive,
    fun _ hlive => runsPage_of (exec_feSched ..) hlive,
    fun _ hlive => runsPage_of (exec_ctxCreate ..) hlive,
    fun _ hlive => runsPage_of (exec_ctxDestroy ..) hlive,
    fun _ hlive => runsPage_of (exec_ctxSwapOut ..) hlive,
    fun _ hlive => runsPage_of (exec_ctxSwapIn ..) hlive,
    fun _ hlive => runsPage_of (exec_ctxQuery ..) hlive,
    fun _ hlive => runsPage_of (exec_tilePin ..) hlive,
    fun _ hlive => runsPage_of (exec_tileUnpin ..) hlive,
    fun _ _ _ hlive => runsPage_of (exec_cmdqBase ..) hlive⟩

/-- Settles O10: each row is the lift of its operation where the die is ACTIVE or the Vitrine's page answers. -/
theorem coreRows : Obligations.CoreRows :=
  fun _ => ⟨
    fun hon => ⟨
      fun _ _ => runsDie_of (exec_kernel ..) hon,
      fun _ _ => runsDie_of (exec_kernelLoad ..) hon,
      fun _ => runsDie_of (exec_kernelPreload ..) hon,
      fun _ => runsTimed_of (exec_kernelEnd ..) hon,
      fun _ => runsTimed_of (exec_bundle ..) hon,
      fun _ _ => runsEng_of (exec_stepOp ..) hon,
      fun _ _ => runsEng_of (exec_veAdd ..) hon,
      fun _ _ => runsEng_of (exec_veSub ..) hon,
      fun _ _ => runsEng_of (exec_veMul ..) hon,
      fun _ _ => runsEng_of (exec_veFma ..) hon,
      fun _ _ => runsEng_of (exec_veMin ..) hon,
      fun _ _ => runsEng_of (exec_veMax ..) hon,
      fun _ _ => runsEng_of (exec_veCmplt ..) hon,
      fun _ _ => runsEng_of (exec_veSelect ..) hon,
      fun _ _ => runsEng_of (exec_veMov ..) hon,
      fun _ _ => runsEng_of (exec_veAct ..) hon,
      fun _ _ => runsEng_of (exec_veRsum ..) hon,
      fun _ _ => runsEng_of (exec_veRmax ..) hon,
      fun _ _ => runsEng_of (exec_veRmin ..) hon,
      fun _ _ => runsEng_of (exec_veArgmax ..) hon,
      fun _ _ => runsEng_of (exec_veLsum ..) hon,
      fun _ _ => runsEng_of (exec_veWiden ..) hon,
      fun _ _ => runsEng_of (exec_veNarrow ..) hon,
      fun _ _ => runsEng_of (exec_vePack ..) hon,
      fun _ _ => runsEng_of (exec_spstep ..) hon,
      fun _ _ => runsEng_of (exec_probe ..) hon,
      fun _ _ => runsEng_of (exec_joinOp ..) hon,
      fun _ _ => runsEng_of (exec_maskOp ..) hon,
      fun _ _ => runsEng_of (exec_ldeLinear ..) hon,
      fun _ _ => runsEng_of (exec_ldeStrided ..) hon,
      fun _ _ => runsEng_of (exec_ldeIndexed ..) hon,
      fun _ _ => runsEng_of (exec_ldeRuns ..) hon,
      fun _ _ => runsEng_of (exec_steLinear ..) hon,
      fun _ _ => runsEng_of (exec_steStrided ..) hon,
      fun _ _ => runsEng_of (exec_steIndexed ..) hon,
      fun _ => runsDie_of (exec_portTransfer ..) hon,
      fun _ _ => runsEng_of (exec_scuNop ..) hon,
      fun _ _ => runsEng_of (exec_scuSet ..) hon,
      fun _ _ => runsEng_of (exec_scuAdd ..) hon,
      fun _ _ => runsEng_of (exec_scuSub ..) hon,
      fun _ _ => runsEng_of (exec_ldp ..) hon,
      fun _ _ => runsEng_of (exec_arm ..) hon,
      fun _ _ => runsEng_of (exec_setk ..) hon,
      fun _ => runsDie_of (exec_dbgResume ..) hon,
      fun _ => runsDie_of (exec_dbgStep ..) hon,
      fun _ => runsDie_of (exec_dbgHalt ..) hon⟩,
    fun _ _ hlive => runsPage_of (exec_vitMark ..) hlive,
    fun _ hlive => runsPage_of (exec_vitClear ..) hlive,
    fun _ _ hlive => runsPage_of (exec_vitRdIdx ..) hlive⟩

/-- Settles O11: each row is the lift of its operation; the end of a move is served, and a deep sleep is a change of power. -/
theorem routeMemoryRows : Obligations.RouteMemoryRows :=
  fun _ => ⟨
    fun hon => ⟨
      fun _ _ => runsDie_of (exec_route ..) hon,
      fun _ _ => runsDie_of (exec_domainLoad ..) hon,
      fun _ _ => runsDie_of (exec_routeBias ..) hon,
      fun _ => runsDie_of (exec_laneDrain ..) hon,
      fun _ => runsTimed_of (exec_lqTimeout ..) hon,
      fun _ => runsDie_of (exec_chargeGrant ..) hon,
      fun _ _ => runsDie_of (exec_dispatch ..) hon,
      fun _ _ => runsDie_of (exec_retrn ..) hon,
      fun _ _ => runsDie_of (exec_cancel ..) hon,
      fun _ _ => runsDie_of (exec_combine ..) hon,
      fun _ => runsDie_of (exec_droverIssue ..) hon,
      fun _ => runsDie_of (exec_combineToken ..) hon,
      fun _ => runsDie_of (exec_arrivalApply ..) hon,
      fun _ => runsTimed_of (exec_retTimeout ..) hon,
      fun _ _ => runsDie_of (exec_moveIn ..) hon,
      fun _ _ => runsDie_of (exec_moveOut ..) hon,
      fun _ _ => runsDie_of (exec_pin ..) hon,
      fun _ _ => runsDie_of (exec_unpin ..) hon,
      fun _ _ => runsDie_of (exec_clearPoison ..) hon,
      fun _ _ => runsDie_of (exec_setEnc ..) hon,
      fun _ _ => runsDie_of (exec_ttBind ..) hon,
      fun _ _ => runsDie_of (exec_ttUnbind ..) hon,
      fun _ _ => runsDie_of (exec_demandBind ..) hon,
      fun _ _ => runsDie_of (exec_demandUnbind ..) hon,
      fun _ _ => runsDie_of (exec_ttEntry ..) hon,
      fun _ _ _ _ => runsDie_of (exec_noticeWrite ..) hon,
      fun _ => runsDie_of (exec_moveClaim ..) hon,
      fun _ => runsDie_of (exec_scrub ..) hon,
      fun _ => runsDie_of (exec_lpRefresh ..) hon,
      fun _ => runsDie_of (exec_lpRetrain ..) hon,
      fun _ => runsDie_of (exec_lpPowerDown ..) hon,
      fun _ _ => runsDie_of (exec_poolBuildDone ..) hon,
      fun _ _ => runsDie_of (exec_bufRetain ..) hon,
      fun _ _ => runsDie_of (exec_bufRelease ..) hon,
      fun _ _ => runsDie_of (exec_post ..) hon,
      fun _ _ => runsDie_of (exec_take ..) hon,
      fun _ _ => runsDie_of (exec_alloc ..) hon,
      fun _ _ => runsDie_of (exec_retain ..) hon,
      fun _ _ => runsDie_of (exec_release ..) hon,
      fun _ _ _ => runsDie_of (exec_mbxPost ..) hon,
      fun _ _ => runsDie_of (exec_mbxLock ..) hon,
      fun _ _ _ => runsDie_of (exec_mbxTake ..) hon,
      fun _ _ => runsDie_of (exec_mbxRelease ..) hon,
      fun _ _ => runsDie_of (exec_mbxBreak ..) hon⟩,
    fun _ _ hlive => runsPage_of (exec_bpmCtrl ..) hlive,
    fun _ _ _ hlive => runsPage_of (exec_bpmPoolCfg ..) hlive,
    fun _ _ _ hlive => runsPage_of (exec_mbxCfg ..) hlive,
    fun _ _ hlive => runsPage_of (exec_bpmTable ..) hlive,
    fun _ _ => runsServed_of (exec_moveComplete ..),
    fun _ => runsPower_of (exec_lpDeepSleep ..)⟩

/-- Settles O12: each row is the lift of its operation; the Halter link's frames are events of the always-on domain. -/
theorem fabricRows : Obligations.FabricRows :=
  fun _ => ⟨
    fun hon => ⟨
      fun _ _ => runsDie_of (exec_caindWrite ..) hon,
      fun _ _ => runsDie_of (exec_caindReturn ..) hon,
      fun _ _ => runsDie_of (exec_caindPost ..) hon,
      fun _ _ => runsDie_of (exec_caindRead ..) hon,
      fun _ _ => runsDie_of (exec_caindReadData ..) hon,
      fun _ _ => runsDie_of (exec_caindAck ..) hon,
      fun _ _ => runsDie_of (exec_caindColl ..) hon,
      fun _ _ => runsDie_of (exec_caindNotice ..) hon,
      fun _ => runsDie_of (exec_ackFlush ..) hon,
      fun _ => runsTimed_of (exec_txnTimeout ..) hon,
      fun _ _ => runsDie_of (exec_frame ..) hon,
      fun _ _ => runsDie_of (exec_replay ..) hon,
      fun _ _ => runsDie_of (exec_portTrained ..) hon,
      fun _ _ => runsDie_of (exec_portDown ..) hon,
      fun _ _ => runsDie_of (exec_allReduce ..) hon,
      fun _ _ => runsDie_of (exec_reduceScatter ..) hon,
      fun _ _ => runsDie_of (exec_allGather ..) hon,
      fun _ _ => runsDie_of (exec_allToAll ..) hon,
      fun _ _ => runsDie_of (exec_broadcast ..) hon,
      fun _ _ => runsDie_of (exec_mload ..) hon,
      fun _ => runsDie_of (exec_collSend ..) hon,
      fun _ => runsTimed_of (exec_collTimeout ..) hon⟩,
    fun _ _ => runsServed_of (exec_forward ..),
    fun haux => ⟨
      fun _ => runsAon_of (exec_frame ..) haux,
      fun _ => runsAon_of (exec_replay ..) haux⟩,
    fun _ _ hlive => runsPage_of (exec_cptEnable ..) hlive,
    fun _ hlive => runsPage_of (exec_cptRetrain ..) hlive,
    fun _ _ hlive => runsPage_of (exec_admitJob ..) hlive,
    fun _ hlive => runsPage_of (exec_drain ..) hlive,
    fun _ hlive => runsPage_of (exec_remove ..) hlive,
    fun _ hlive => runsPage_of (exec_cfbNode ..) hlive⟩

/-- Settles O13: each row is the lift of its operation; a reading within the ratings is a change of power. -/
theorem hostRows : Obligations.HostRows :=
  fun s => ⟨
    fun hon => ⟨
      fun _ => runsStore_of (exec_attest ..) hon,
      fun _ => runsStore_of (exec_pubkey ..) hon,
      fun _ => runsStore_of (exec_keyInstall ..) hon,
      fun _ => runsStore_of (exec_setCurrent ..) hon,
      fun _ => runsStore_of (exec_retire ..) hon,
      fun _ => runsStore_of (exec_rekey ..) hon,
      fun _ => runsStore_of (exec_erase ..) hon,
      runsStore_of (exec_secRequestDone s) hon⟩,
    fun haux => ⟨
      fun _ _ _ _ _ => runsAon_of (exec_halterTrained ..) haux,
      fun _ => runsAon_of (exec_halterDown ..) haux,
      runsAon_of (exec_tbpIn s) haux,
      runsAon_of (exec_tbpOut s) haux,
      runsAon_of (exec_holdover s) haux,
      runsAon_of (exec_inventorySnapshot s) haux,
      runsStore_of (exec_ledgerWrite s) haux,
      runsAon_of (exec_i3cRead s) haux,
      fun _ => runsAon_of (exec_entdaa ..) haux,
      fun _ => runsAon_of (exec_setdasa ..) haux,
      runsAon_of (exec_rstdaa s) haux,
      fun _ => runsAon_of (exec_enec ..) haux,
      fun _ => runsAon_of (exec_disec ..) haux,
      runsAon_of (exec_getpid s) haux,
      runsAon_of (exec_getbcr s) haux,
      runsAon_of (exec_getdcr s) haux,
      runsAon_of (exec_getstatus s) haux,
      runsAon_of (exec_getmwl s) haux,
      runsAon_of (exec_getmrl s) haux,
      runsAon_of (exec_ibi s) haux,
      runsStore_of (exec_fwUpdateDone s) haux⟩,
    fun _ hlive => runsPage_of (exec_hltEnable ..) hlive,
    fun hlive => runsPage_of (exec_hltRetrain s) hlive,
    fun _ _ hlive => runsPage_of (exec_irqPendClear ..) hlive,
    fun _ _ hlive => runsPage_of (exec_irqHost ..) hlive,
    fun _ _ hlive => runsPage_of (exec_irqCpx ..) hlive,
    fun _ hlive => runsPage_of (exec_tbsSet ..) hlive,
    fun hlive => runsPage_of (exec_invArm s) hlive,
    fun hlive => runsPage_of (exec_invCancel s) hlive,
    fun _ => runsServed_of (exec_halterWrite ..),
    fun _ => runsServed_of (exec_halterRead ..),
    fun _ => runsServed_of (exec_halterMalformed ..),
    fun _ _ hin => runsPower_of (exec_sensorSample_within hin),
    fun _ _ _ => runsServed_of (exec_identify ..),
    fun _ _ _ => runsServed_of (exec_health ..),
    fun _ _ _ => runsServed_of (exec_sensor ..),
    fun _ _ _ => runsServed_of (exec_ledger ..),
    fun _ _ _ => runsServed_of (exec_regRead ..),
    fun _ _ _ => runsServed_of (exec_regWrite ..),
    fun _ _ _ => runsServed_of (exec_snapshot ..),
    fun _ _ _ => runsServed_of (exec_time ..),
    fun _ _ _ => runsServed_of (exec_fwStage ..),
    fun _ _ _ => runsServed_of (exec_fwStart ..),
    fun _ _ _ => runsServed_of (exec_fwStatus ..),
    fun _ _ _ => runsServed_of (exec_resetFrame ..),
    fun _ _ _ _ _ => runsServed_of (exec_registerWrite ..)⟩

/-- Settles O14: each row is the lift of its operation; the fence rows, FENCE_FUSE, AUX12_LOSS and BOOT_COMPLETE answer their own states. -/
theorem powerRows : Obligations.PowerRows :=
  fun s => ⟨
    fun hon => ⟨
      fun _ => runsDie_of (exec_gate ..) hon,
      fun _ => runsTimed_of (exec_wake ..) hon,
      fun _ => runsTimed_of (exec_wakeReady ..) hon,
      fun _ _ _ => (exec_coreFence ..).trans (next_chip_of_pos hon),
      fun _ _ _ => (exec_clusterFence ..).trans (next_chip_of_pos hon),
      fun _ _ => runsDie_of (exec_dieError ..) hon,
      fun _ => runsTimed_of (exec_wdt ..) hon⟩,
    fun _ hlive => (exec_fenceCore ..).trans (next_chip_of_pos hlive),
    fun _ hlive => (exec_fenceCluster ..).trans (next_chip_of_pos hlive),
    fun _ hlive => runsPage_of (exec_fltWdtKick ..) hlive,
    fun _ _ hlive => runsPage_of (exec_errInj ..) hlive,
    runsPower_of (exec_resetL s),
    runsPower_of (exec_aux12On s),
    exec_aux12Loss s,
    runsPower_of (exec_mainUv s),
    runsPower_of (exec_autoRestart s),
    fun _ => runsPower_of (exec_droop ..),
    runsPower_of (exec_phaseAdd s),
    runsPower_of (exec_phaseShed s),
    runsPower_of (exec_dvfsStep s),
    runsPower_of (exec_thermStep s),
    fun _ => runsPower_of (exec_thermalTrip ..),
    runsPower_of (exec_aclkIdle s),
    runsPower_of (exec_active s),
    runsPower_of (exec_standby s),
    runsPower_of (exec_aux s),
    runsPower_of (exec_coldReset s),
    runsPower_of (exec_moduleReset s),
    runsPower_of (exec_dieWarmReset s),
    fun _ => runsPower_of (exec_clusterReset ..),
    fun _ => runsPower_of (exec_coreReset ..),
    fun _ _ _ _ => exec_fenceFuse ..,
    runsPower_of (exec_dieHoldExpiry s),
    exec_bootComplete s,
    runsPower_of (exec_resetLRelease s),
    fun _ => runsPower_of (exec_tapInstruction ..),
    runsPower_of (exec_main48Applied s),
    fun _ _ => runsPower_of (exec_resetDone ..)⟩

end Sys2Proof.Machine

/-!
Statuses (R543), the candidate store, the identity key (R470), consequences of errors (R522), fuses (R533), the loss of AUX12 (R497)
and gating (R508).
-/

namespace Sys2Proof.Machine

/-! ## Statuses, candidates, the identity key -/

theorem Cmd.working_of_signalling {k : Cmd} (h : k.phase = .signalling) : k.working = false := by rw [Cmd.working, h]

/-- Settles O22: a command that only signals has no work left to end. -/
theorem statusFixedOnce : Obligations.StatusFixedOnce := by
  intro c q i st info k hcmd hphase
  rw [Chip.endWork, hcmd]
  exact if_neg (ne_true_of_eq_false (Cmd.working_of_signalling hphase))

/-- Only the first n of a list matter for the first n after an insertion. -/
theorem take_insBy_take {α : Type} (before : α → α → Bool) (x : α) (l : List α) (n : Nat) :
    (insBy before x (l.take n)).take n = (insBy before x l).take n := by
  induction l generalizing n with
  | nil => rw [List.take_nil]
  | cons y ys ih =>
    cases n with
    | zero => rfl
    | succ n =>
      have hfirst : (y :: ys.take n).take n = (y :: ys).take n := by
        rw [← List.take_succ_cons, List.take_take, Nat.min_eq_left (Nat.le_succ n)]
      rw [List.take_succ_cons, insBy, insBy]
      split
      · rw [List.take_succ_cons, List.take_succ_cons, hfirst]
      · rw [List.take_succ_cons, List.take_succ_cons, ih]

/-- Choosing while reading, from the first n of what was read before. -/
theorem foldl_take_insBy {α : Type} (before : α → α → Bool) (n : Nat) (xs : List α) : ∀ acc : List α,
    xs.foldl (fun acc x => (insBy before x acc).take n) (acc.take n) = (xs.foldl (fun acc x => insBy before x acc) acc).take n := by
  induction xs with
  | nil => exact fun acc => rfl
  | cons x xs ih =>
    intro acc
    rw [List.foldl_cons, List.foldl_cons, take_insBy_take, ih]

/-- Settles O29: what an insertion pushes out of the first n never comes back. -/
theorem topIsSorted : Obligations.TopIsSorted := by
  intro before n xs
  have hread := foldl_take_insBy before n xs []
  rwa [List.take_nil] at hread

/-- Settles O50: with no index left the request is an error report and its status. -/
theorem identitySpent : Obligations.IdentitySpent := by
  intro c k b hspent
  have hreport := Chip.errFree_reports c pgSEC 8 0
  rw [Chip.attest, if_pos hspent]
  exact ⟨rfl, hreport.fz, hreport.sec, hreport.hom⟩

/-! ## Consequences of one error (R522, R528, R532) -/

/-- Where one error alone is due its consequence comes first. -/
theorem Chip.faultsGo_of_one {c d : Chip} {x : Due} (hnew : d.flt.due ≠ c.flt.due) (hone : d.flt.due = [x]) :
    c.faultsGo d = ((({ d with flt.due := [] }).dueAct x).dueGo 1023).healthGo := by
  have hnext : (d.flt.due.find? (fun y => decide (y.kind = 1))).or d.flt.due.head? = some x := by
    rw [hone, List.find?_singleton]
    split <;> rfl
  have herase : d.flt.due.erase x = [] := by rw [hone, List.erase_cons_head]
  rw [Chip.faultsGo, if_neg hnew, Chip.dueGo, hnext]
  dsimp only
  rw [herase]

theorem addFences_coreFence (c : Chip) (x : BitVec 512) (y : BitVec 64) (d : Chip) (n : Nat) :
    (addFences c x y d).fz.coreFence.getLsbD n = (c.fz.coreFence.getLsbD n || x.getLsbD n) := BitVec.getLsbD_or

theorem addFences_clFence (c : Chip) (x : BitVec 512) (y : BitVec 64) (d : Chip) (k : Nat) :
    (addFences c x y d).fz.clFence.getLsbD k = (c.fz.clFence.getLsbD k || y.getLsbD k) := BitVec.getLsbD_or

theorem Chip.dueAct_core {c : Chip} {x : Due} (hkind : x.kind = 0) (ht : x.target < 512) :
    (c.dueAct x).fz.coreFence.getLsbD x.target = true := by
  rw [Chip.dueAct, hkind]
  show (addFences c _ _ _).fz.coreFence.getLsbD x.target = true
  rw [addFences_coreFence, getLsbD_unit _ _ _ ht, decide_eq_true rfl, Bool.or_true]

theorem Chip.dueAct_cluster {c : Chip} {x : Due} (hkind : x.kind = 1) (ht : x.target < 64) :
    (c.dueAct x).fz.clFence.getLsbD x.target = true ∧
      ∀ j, j < 8 → (c.dueAct x).fz.coreFence.getLsbD (8 * x.target + j) = true := by
  rw [Chip.dueAct, hkind]
  refine ⟨?_, fun j hj => ?_⟩
  · show (addFences c _ _ _).fz.clFence.getLsbD x.target = true
    rw [addFences_clFence, getLsbD_unit _ _ _ ht, decide_eq_true rfl, Bool.or_true]
  · show (addFences c _ _ _).fz.coreFence.getLsbD (8 * x.target + j) = true
    rw [addFences_coreFence, getLsbD_cores _ _ ht, decide_eq_true (by omega), Bool.or_true]

/-- Settles O19: the error's consequence fences its unit, and nothing that follows ends a fence. -/
theorem errorsFenceAtOnce : Obligations.ErrorsFenceAtOnce := by
  intro c d x hnew hone hfences
  have hlater : (({ d with flt.due := [] } : Chip).dueAct x).fz.fencesIn (c.faultsGo d).fz := by
    rw [Chip.faultsGo_of_one hnew hone, Chip.healthGo_fz]
    exact (Chip.dueGo_grown _ _).1
  refine ⟨fun hkind ht => hlater.1 _ (Chip.dueAct_core hkind ht), fun hkind ht => ?_, hfences.trans (c.faultsGo_grown d).1⟩
  obtain ⟨hcl, hcores⟩ := Chip.dueAct_cluster (c := { d with flt.due := [] }) hkind ht
  exact ⟨hlater.2 _ hcl, fun j hj => hlater.1 _ (hcores j hj)⟩

/-! ## Fuses and the loss of AUX12 (R497, R533) -/

/-- The fuses of a core that waits for them. -/
theorem Chip.fenceFuse_core_fz {c : Chip} {u : Nat} (okA okB : Bool) (hwaits : c.flt.fuseQ.contains (false, u) = true) :
    (c.fenceFuse false u okA okB).fz = { c.fz with
      coreFuseA := c.fz.coreFuseA ||| BitVec.ofNat 512 (if okA then 2 ^ u else 0)
      coreFuseB := c.fz.coreFuseB ||| BitVec.ofNat 512 (if !okA && okB then 2 ^ u else 0) } := by
  rw [Chip.fenceFuse, if_neg (not_not_intro hwaits)]
  dsimp only
  split
  · exact Chip.count_fz _ _ _ _
  · rw [(Chip.errFree_reports _ _ _ _).fz]
    exact Chip.count_fz _ _ _ _

theorem getLsbD_unit_if (p : Bool) (u m : Nat) (hu : u < 512) :
    (BitVec.ofNat 512 (if p then 2 ^ u else 0)).getLsbD m = (p && decide (m = u)) := by
  cases p with
  | false => simp
  | true => exact getLsbD_unit 512 u m hu

/-- Settles O57: the fenced core's own fuses are blown, the second where the first does not read back. -/
theorem fenceFuse : Obligations.FenceFuse := by
  intro n okA okB s hfenced hwaits z
  have hfz := Chip.fuseFz_of_fenced (cl := false) okA okB hfenced
  rw [Chip.fenceFuse_core_fz okA okB hwaits] at hfz
  refine ⟨_, exec_fenceFuse .., rfl, ?_⟩
  show _ ∧ _
  rw [hfz]
  refine ⟨fun m _ => ?_, fun m _ => ?_, rfl, rfl, rfl, rfl, rfl⟩
  · rw [BitVec.getLsbD_or, getLsbD_unit_if _ _ _ n.isLt]
  · rw [BitVec.getLsbD_or, getLsbD_unit_if _ _ _ n.isLt]

theorem Chip.clFenced_lossFz (c : Chip) (k : Nat) : c.lossFz.fz.clFence.getLsbD k = (c.fz.clFuseA.getLsbD k || c.fz.clFuseB.getLsbD k) := by
  rw [Chip.lossFz_fz, Chip.clFenced_fencesLoaded]
  simp

theorem Chip.coreFenced_lossFz (c : Chip) (n : Nat) (hn : n < 512) : c.lossFz.fz.coreFence.getLsbD n =
    (c.fz.coreFuseA.getLsbD n || c.fz.coreFuseB.getLsbD n || c.fz.clFuseA.getLsbD (n / 8) || c.fz.clFuseB.getLsbD (n / 8)) := by
  rw [Chip.lossFz_fz, Chip.coreFenced_fencesLoaded _ n hn, ← Chip.lossFz_fz, Chip.clFenced_lossFz]
  simp [Bool.or_assoc]

/-- Settles O55: the fences after a loss are those that the fuses give (log 25). -/
theorem auxLoss : Obligations.AuxLoss := fun s =>
  ⟨_, exec_aux12Loss s, rfl, rfl, rfl, rfl, rfl, fun k _ => s.chip.clFenced_lossFz k, fun n hn => s.chip.coreFenced_lossFz n hn, rfl⟩

/-! ## Gating (R508) -/

/-- Core m loses its preloaded list. -/
def Chip.unload (c : Chip) (m : Nat) : Chip := c.setCore m { c.coreOf m with preload := none }

/-- Core n through the loss of the lists of k cores from b on. -/
theorem Chip.coreOf_unload_range (c : Chip) (b k n : Nat) : ((List.range k).foldl (fun (c : Chip) j => c.unload (b + j)) c).coreOf n =
    if b ≤ n ∧ n < b + k then { c.coreOf n with preload := none } else c.coreOf n := by
  induction k with
  | zero => rw [if_neg (by omega)]; rfl
  | succ k ih =>
    rw [List.range_succ, List.foldl_append, List.foldl_cons, List.foldl_nil]
    by_cases hn : n = b + k
    · subst hn
      rw [Chip.unload, Chip.coreOf_setCore, ih, if_neg (by omega), if_pos (by omega)]
    · have hiff : (b ≤ n ∧ n < b + (k + 1)) ↔ (b ≤ n ∧ n < b + k) := by omega
      rw [Chip.unload, Chip.coreOf_setCore_ne _ _ _ _ hn, ih, if_congr hiff rfl rfl]

/-- Beside the cores nothing changes. -/
theorem Chip.unload_range_frame (c : Chip) (b k : Nat) :
    (List.range k).foldl (fun (c : Chip) j => c.unload (b + j)) c =
      { c with core := ((List.range k).foldl (fun (c : Chip) j => c.unload (b + j)) c).core } := by
  induction k with
  | zero => rfl
  | succ k ih =>
    rw [List.range_succ, List.foldl_append, List.foldl_cons, List.foldl_nil, ih]
    rfl

/-- A cluster that may gate. -/
def Chip.mayGate (c : Chip) (cl : Nat) : Prop :=
  bit (c.reg pgPWR 0x218) cl = true ∧ c.clGated cl = false ∧ c.clIdle cl = true ∧ c.wakeAsked cl = false

/-- A cluster that may gate is gated, with the lists of its eight cores lost. -/
theorem Chip.gate_of_mayGate {c : Chip} {cl : Nat} (h : c.mayGate cl) (hactive : c.pwr.st = .active) : c.gate cl =
    (Chip.count { ((List.range 8).foldl (fun (c : Chip) j => c.unload (8 * cl + j)) c) with
      pwr.gated := c.pwr.gated ||| BitVec.ofNat 64 (2 ^ cl) } pgPWR 6 1).gatedSince := by
  obtain ⟨hreq, hgated, hidle, hasked⟩ := h
  rw [Chip.gate, if_pos ⟨hreq, ne_true_of_eq_false hgated, hidle, ne_true_of_eq_false hasked, hactive⟩]
  dsimp only
  rw [show ((List.range 8).foldl (fun (c : Chip) j => c.setCore (8 * cl + j) { c.coreOf (8 * cl + j) with preload := none }) c) =
    (List.range 8).foldl (fun (c : Chip) j => c.unload (8 * cl + j)) c from rfl, c.unload_range_frame]

theorem Chip.gate_of_not_mayGate {c : Chip} {cl : Nat} (h : ¬ c.mayGate cl) : c.gate cl = c := by
  rw [Chip.gate]
  refine if_neg fun ⟨hreq, hgated, hidle, hasked, _⟩ => h ⟨hreq, ?_, hidle, ?_⟩
  · exact Bool.eq_false_of_not_eq_true hgated
  · exact Bool.eq_false_of_not_eq_true hasked

@[simp] theorem Chip.gatedSince_gated (c : Chip) : c.gatedSince.pwr.gated = c.pwr.gated := rfl
@[simp] theorem Chip.gatedSince_core (c : Chip) : c.gatedSince.core = c.core := rfl
@[simp] theorem Chip.gatedSince_hom (c : Chip) : c.gatedSince.hom = c.hom := rfl
@[simp] theorem Chip.gatedSince_flt (c : Chip) : c.gatedSince.flt = c.flt := rfl

/-- What a gate changes: the cluster's own gate, and the cores of the cluster. -/
theorem Chip.gate_effect {c : Chip} {cl : Nat} (h : c.mayGate cl) (hactive : c.pwr.st = .active) :
    (c.gate cl).pwr.gated = c.pwr.gated ||| BitVec.ofNat 64 (2 ^ cl) ∧
    (∀ n, (c.gate cl).coreOf n = if 8 * cl ≤ n ∧ n < 8 * cl + 8 then { c.coreOf n with preload := none } else c.coreOf n) ∧
    (c.gate cl).hom = c.hom ∧ (c.gate cl).flt = c.flt := by
  rw [Chip.gate_of_mayGate h hactive]
  have hframe := c.unload_range_frame (8 * cl) 8
  generalize hcores : (List.range 8).foldl (fun (c : Chip) j => c.unload (8 * cl + j)) c = d at hframe
  have hcoreOf (n : Nat) := c.coreOf_unload_range (8 * cl) 8 n
  simp only [hcores] at hcoreOf
  refine ⟨by rw [Chip.gatedSince_gated, Chip.count_pwr], fun n => ?_, ?_, ?_⟩
  · rw [← hcoreOf, Chip.coreOf, Chip.gatedSince_core, Chip.count_core, Chip.coreOf]
  · rw [Chip.gatedSince_hom, Chip.count_hom, hframe]
  · rw [Chip.gatedSince_flt, Chip.count_flt, hframe]

/-- Settles O53: a gate takes the lists of its own cluster's cores alone. -/
theorem gating : Obligations.Gating := by
  intro cl s hon may
  by_cases hmay : s.chip.mayGate cl
  · obtain ⟨hgated, hcoreOf, hhom, hflt⟩ := Chip.gate_effect hmay (of_decide_eq_true hon)
    refine answers_of_die (exec_gate cl s) hon (by rw [hflt])
      ⟨fun _ => ⟨hgated, fun j hj => ?_, fun n hn => ?_⟩, fun hnot => absurd hmay hnot, hhom⟩
    · exact (congrArg Core.preload (hcoreOf _)).trans (by rw [if_pos (by omega)])
    · exact (hcoreOf n).trans (if_neg (by omega))
  · have hgate := Chip.gate_of_not_mayGate hmay
    have hpwr : (s.chip.gate cl).pwr = s.chip.pwr := by rw [hgate]
    have hcore : (s.chip.gate cl).core = s.chip.core := by rw [hgate]
    have hhom : (s.chip.gate cl).hom = s.chip.hom := by rw [hgate]
    exact answers_of_die (exec_gate cl s) hon (by rw [hgate]) ⟨fun hm => absurd hm hmay, fun _ => ⟨hpwr, hcore⟩, hhom⟩

end Sys2Proof.Machine

/-!
Events whose time never comes: at a rate of 0 the clock stands (R444), and what a time brings (R498, R502, R509) does not happen.
-/

namespace Sys2Proof.Machine

/-! ## A clock that stands -/

/-- A part in which no time passes: no counter cycle is open, no Vitrine and no core is in use, and the rate is 0. -/
structure Chip.TimeStands (c : Chip) : Prop where
  ctrs : c.fe.ctrs = []
  vits : c.core.vits = []
  cores : c.core.cores = []
  aux12 : c.pwr.aux12 = true
  frac : c.time.frac = 0
  rate : c.rate = 0

theorem Chip.TimeStands.passTo {c : Chip} (h : c.TimeStands) (t : Nat) : c.passTo t = c := by
  rw [Chip.passTo, Chip.pass_of_units_unused _ _ h.ctrs h.vits h.cores, Chip.later_of_rate_zero _ _ h.aux12 h.frac h.rate]
  exact ite_self _

/-- The part with TBS_RATE at −10⁹ ppb. -/
def Chip.stopClock (c : Chip) : Chip := c.setReg pgTBS 0x21C (ofSigned 32 (-1000000000))

theorem Chip.stopClock_rate (c : Chip) : c.stopClock.rate = 0 := by
  rw [Chip.rate, Chip.stopClock, Chip.reg_setReg]
  decide

/-- After reset time stands where TBS_RATE is −10⁹ ppb, whatever the power controller and the sensors hold. -/
theorem Chip.timeStands_stopClock {c : Chip} (hfe : c.fe = Chip.reset.fe) (hcore : c.core = Chip.reset.core) (haux : c.pwr.aux12 = true)
    (htime : c.time = Chip.reset.time) : c.stopClock.TimeStands :=
  ⟨congrArg FeSt.ctrs hfe, congrArg CoreSt.vits hcore, congrArg CoreSt.cores hcore, haux, congrArg TimeSt.frac htime, c.stopClock_rate⟩

/-- A change of power that leaves the part leaves its power state, but for a report of its health. -/
theorem pwr_of_answers_power {i : Instr} {s : State} {f : Chip → Chip} {P : Chip → Prop} (hrun : exec i s = s.power f)
    (hid : f s.chip = s.chip) (h : Answers i s P) : ∃ d, P d ∧ d.pwr = s.chip.pwr := by
  obtain ⟨t, hnext, -, hP⟩ := h
  have hreport := Chip.healthGo_reports (keepFences s.chip s.chip)
  rw [hrun, State.power, hid, Chip.faultsGo_same (by rw [hreport.flt]; rfl)] at hnext
  cases hnext
  exact ⟨_, hP, hreport.pwr⟩

/-- A timed event of the die that leaves the part leaves its power state. -/
theorem pwr_of_answers_timed {i : Instr} {s : State} {due : Chip → Nat} {f : Chip → Chip} {P : Chip → Prop}
    (hrun : exec i s = s.timed due f) (hid : f (s.chip.passTo (due s.chip)) = s.chip) (h : Answers i s P) :
    ∃ d, P d ∧ d.pwr = s.chip.pwr := by
  obtain ⟨t, hnext, -, hP⟩ := h
  have hsame : s.chip.faultsGo (keepFz s.chip s.chip.ctxRefresh) = keepFz s.chip s.chip.ctxRefresh := Chip.faultsGo_same rfl
  rw [hrun, State.timed, hid, hsame] at hnext
  cases hnext
  refine ⟨_, hP, ?_⟩
  split <;> rfl

/-! ## The regulator (R498) -/

/-- Two phase groups; the current has been low since time 0. -/
def lowCurrent : Chip := Chip.stopClock { Chip.reset with pwr := { Chip.reset.pwr with groups := 2, shedSince := some 0 } }

theorem lowCurrent_timeStands : lowCurrent.TimeStands := Chip.timeStands_stopClock rfl rfl rfl rfl

theorem lowCurrent_phaseShed : lowCurrent.phaseShed = lowCurrent := by
  have hsince : lowCurrent.pwr.shedSince = some 0 := rfl
  rw [Chip.phaseShed, hsince]
  exact if_neg fun ⟨_, _, hpast⟩ => absurd hpast (by decide)

/-- Refutes O51: its PHASE_SHED clause asks a shed group of every state with two groups and a low current. R445 clamps the rate of a pulse
to ±500,000 ppb; the statement asks nothing of TBS_RATE, and at −10⁹ ppb the 100 µs of R498 never pass. -/
theorem not_regulatorEvents : ¬ Obligations.RegulatorEvents := by
  unfold Obligations.RegulatorEvents
  intro h
  obtain ⟨-, hshed, -⟩ := h ⟨lowCurrent, []⟩ rfl
  have hid : (lowCurrent.passTo lowCurrent.shedDue).phaseShed = lowCurrent := by
    rw [lowCurrent_timeStands.passTo, lowCurrent_phaseShed]
  obtain ⟨d, ⟨hgroups, -⟩, hpwr⟩ := pwr_of_answers_power (exec_phaseShed ⟨lowCurrent, []⟩) hid (hshed 0 rfl (by decide) rfl)
  rw [hpwr] at hgroups
  exact absurd hgroups (by decide)

/-! ## Control steps (R502, R505) -/

/-- Site 0 is at CRIT, and the point is 0. -/
def critSite : Chip :=
  Chip.stopClock (Chip.setSensor { Chip.reset with pwr := { Chip.reset.pwr with point := 0 } } 0 { (default : Sensor) with status := 2 })

theorem critSite_timeStands : critSite.TimeStands := Chip.timeStands_stopClock rfl rfl rfl rfl

theorem critSite_dvfsStep : critSite.dvfsStep = critSite := by
  rw [Chip.dvfsStep]
  exact if_pos (.inr (by decide))

theorem critSite_injOff : critSite.fld pgFLT 0x008 0 0 = 0 := by
  rw [Chip.fld, critSite, Chip.stopClock, Chip.reg_setReg_ne _ _ _ _ _ _ (by decide)]
  decide

/-- Refutes O52: its first clause asks P7 of every state with a site at CRIT, also of one whose clock stands. R445 clamps the rate of a
pulse to ±500,000 ppb; the statement asks nothing of TBS_RATE, and at −10⁹ ppb the 25 µs between the steps of R502 never pass. -/
theorem not_controlSteps : ¬ Obligations.ControlSteps := by
  unfold Obligations.ControlSteps
  intro h
  obtain ⟨hstep, -⟩ := h ⟨critSite, []⟩ rfl rfl critSite_injOff
  have hid : (critSite.passTo (critSite.pwr.lastDvfs + 25000)).dvfsStep = critSite := by
    rw [critSite_timeStands.passTo, critSite_dvfsStep]
  obtain ⟨d, ⟨hcrit, -⟩, hpwr⟩ := pwr_of_answers_power (exec_dvfsStep ⟨critSite, []⟩) hid hstep
  have hpoint : d.pwr.point = 7 := hcrit (by decide)
  rw [hpwr] at hpoint
  exact absurd hpoint (by decide)

/-! ## Wakes (R509) -/

/-- Cluster 0 is gated and wakes at 1 ns. -/
def wakingCluster : Chip := Chip.stopClock { Chip.reset with pwr := { Chip.reset.pwr with waking := [(0, 1, 0)] } }

theorem wakingCluster_timeStands : wakingCluster.TimeStands := Chip.timeStands_stopClock rfl rfl rfl rfl

theorem wakingCluster_wakeReady : wakingCluster.wakeReady 0 = wakingCluster := by
  have hwakes : wakingCluster.pwr.waking.find? (fun w => decide (w.1 = 0)) = some (0, 1, 0) := by decide
  rw [Chip.wakeReady, hwakes]
  exact if_pos (.inl (by decide))

/-- Refutes O54: it asks a cluster that is no longer gated of every state in which the cluster wakes, also of one whose clock stands. R445
clamps the rate of a pulse to ±500,000 ppb; the statement asks nothing of TBS_RATE, and at −10⁹ ppb the 2 µs of R509 never pass. -/
theorem not_wakeEnds : ¬ Obligations.WakeEnds := by
  unfold Obligations.WakeEnds
  intro h
  have hready := h 0 ⟨wakingCluster, []⟩ rfl (by decide) ⟨(0, 1, 0), by decide, rfl⟩ rfl
  have hid : (wakingCluster.passTo (wakingCluster.wakeDue (0 : Fin 64))).wakeReady (0 : Fin 64) = wakingCluster := by
    rw [wakingCluster_timeStands.passTo]
    exact wakingCluster_wakeReady
  obtain ⟨d, ⟨hawake, -⟩, hpwr⟩ := pwr_of_answers_timed (exec_wakeReady 0 ⟨wakingCluster, []⟩) hid hready
  rw [Chip.clGated, hpwr] at hawake
  exact absurd hawake (by decide)

end Sys2Proof.Machine

/-!
Error registers (R525 to R527): an error's capture, its sticky bits and its record in the Ledger's buffer; and the refused write of
ERR_INJ (R538).
-/

namespace Sys2Proof.Machine

/-! ## What an interrupt leaves of every page's head -/

/-- From c to d interrupts alone have been raised: the first registers of each page stand, ERR_INJ while no injection is enabled, and
so does the Ledger's buffer. -/
structure Chip.Raised (c d : Chip) : Prop where
  head : ∀ page off, off < 0x40 → (off = 0x018 → c.fld pgFLT 0x008 0 0 = 0) → d.reg page off = c.reg page off
  buf : d.cur.buf = c.cur.buf

namespace Chip.Raised

variable {c d e : Chip}

theorem refl (c : Chip) : Chip.Raised c c := ⟨fun _ _ _ _ => rfl, rfl⟩

theorem injEn (h : Chip.Raised c d) : d.fld pgFLT 0x008 0 0 = c.fld pgFLT 0x008 0 0 := by
  rw [Chip.fld, h.head pgFLT 0x008 (by decide) nofun, Chip.fld]

theorem trans (h : Chip.Raised c d) (g : Chip.Raised d e) : Chip.Raised c e :=
  ⟨fun page off hoff hinj => (g.head page off hoff fun h18 => h.injEn.trans (hinj h18)).trans (h.head page off hoff hinj),
    g.buf.trans h.buf⟩

theorem of_regs (hregs : d.regs = c.regs) (hbuf : d.cur.buf = c.cur.buf) : Chip.Raised c d :=
  ⟨fun page off _ _ => by rw [Chip.reg, hregs, Chip.reg], hbuf⟩

theorem ite {p : Prop} [Decidable p] (hd : Chip.Raised c d) (he : Chip.Raised c e) : Chip.Raised c (if p then d else e) := by
  split
  · exact hd
  · exact he

theorem setReg (h : Chip.Raised c d) {page off : Nat} (v : Nat) (hlo : 0x40 ≤ off) (hhi : off < 4096) :
    Chip.Raised c (d.setReg page off v) :=
  h.trans ⟨fun p o ho _ => d.reg_setReg_ne page off v p o (by omega), rfl⟩

theorem count (h : Chip.Raised c d) (page i n : Nat) (hi : i < 504) : Chip.Raised c (d.count page i n) := by
  unfold Chip.count
  exact h.ite (.ite (h.setReg _ (by omega) (by omega)) h)

end Chip.Raised

/-- An armed injection is disarmed only while injection is enabled (R538). -/
theorem Chip.injLink_raised (c : Chip) (page target : Nat) : Chip.Raised c (c.injLink page target).2 := by
  unfold Chip.injLink
  dsimp only
  split
  next hon =>
    have harm : Chip.Raised c (c.setReg page 0x018 (setBits (c.reg page 0x018) 31 31 0)) := by
      refine ⟨fun p o ho hinj => c.reg_setReg_ne page 0x018 _ p o fun hkey => ?_, rfl⟩
      have hoff : o = 0x018 := by omega
      exact absurd (hon.1.symm.trans (hinj hoff)) (by decide)
    exact harm.count pgFLT 7 1 (by decide)
  · exact .refl c

theorem Chip.hltSend_raised (c : Chip) (p : HPkt) : Chip.Raised c (c.hltSend p) := by
  have hframe : Chip.Raised c (c.injFrame pgHLT) := (c.injLink_raised pgHLT 0).trans (Chip.injLink_raised _ pgHLT 1)
  have hout : Chip.Raised c { c.injFrame pgHLT with hlt.out := (c.injFrame pgHLT).hlt.out ++ [p] } := hframe.trans (.of_regs rfl rfl)
  exact (hout.count pgHLT 2 1 (by decide)).count pgHLT 3 _ (by decide)

theorem Chip.irqHost_raised (c : Chip) (v : Nat) : Chip.Raised c (c.irqHost v) := by
  unfold Chip.irqHost
  have hheld : Chip.Raised c { c with hlt.held := c.hlt.held ++ [(v, c.time.tb.toNat % 2 ^ 48)] } := .of_regs rfl rfl
  refine .ite ?_ (.ite ?_ ?_)
  · exact ((c.hltSend_raised _).count pgIRQ 1 1 (by decide)).count pgHLT 6 1 (by decide)
  · exact (Raised.refl c).count pgIRQ 4 1 (by decide)
  · exact hheld.count pgIRQ 4 1 (by decide)

theorem Chip.irqCpx_raised (c : Chip) (v : Nat) : Chip.Raised c (c.irqCpx v) := by
  have hout : Chip.Raised c { c with fe.cpxIrqs := c.fe.cpxIrqs ++ [v] } := .of_regs rfl rfl
  exact hout.count pgIRQ 2 1 (by decide)

theorem Chip.attnSet_raised (c : Chip) (n : Nat) : Chip.Raised c (c.attnSet n).1 := by
  have hset := (Raised.refl c).setReg (page := pgCUR) (off := 0x200) (c.reg pgCUR 0x200 ||| 2 ^ n) (by decide) (by decide)
  exact .ite (hset.trans (.of_regs rfl rfl)) hset

theorem Chip.raise0_raised (c : Chip) {v : Nat} (hv : v < 512) : Chip.Raised c (c.raise0 v).1 := by
  unfold Chip.raise0
  split
  · exact .refl c
  · have hlast := ((Raised.refl c).count pgIRQ 0 1 (by decide)).setReg (page := pgIRQ) (off := 0x2C0)
      (((c.count pgIRQ 0 1).time.tb.toNat % 2 ^ 48) <<< 16 + v) (by decide) (by decide)
    dsimp only
    split
    · exact hlast.count pgIRQ 3 1 (by decide)
    · have hpend (x : Nat) := hlast.setReg (page := pgIRQ) (off := 0x200 + 8 * (v / 64)) x (by omega) (by omega)
      have hhost (x : Nat) := (hpend x).trans (Chip.irqHost_raised _ v)
      refine .ite (.trans ?_ (Chip.irqCpx_raised _ v)) ?_ <;> exact .ite (hhost _) (hpend _)

theorem Chip.attn_raised (c : Chip) (n : Nat) : Chip.Raised c (c.attn n) := by
  have hset := c.attnSet_raised n
  have hraise := hset.trans (Chip.raise0_raised _ (v := 272) (by decide))
  exact .ite (.ite (hraise.trans (Chip.attnSet_raised _ 3)) hraise) hset

theorem Chip.raise_raised (c : Chip) {v : Nat} (hv : v < 512) : Chip.Raised c (c.raise v) := by
  have hraise := c.raise0_raised hv
  exact .ite (hraise.trans (Chip.attn_raised _ 3)) hraise

theorem Chip.raiseBlk_raised (c : Chip) (page : Nat) : Chip.Raised c (c.raiseBlk page) := by
  have hsrc {v : Nat} := (Raised.refl c).setReg (page := pgIRQ) (off := 0x2C8) v (by decide) (by decide)
  exact (Raised.ite hsrc hsrc).trans (Chip.raise_raised _ (by decide))

/-! ## A page's error registers -/

/-- ERR_STAT of a page gains bits at most; where one was set ERR_INFO stands; ERR_INJ stands while no injection is enabled. -/
structure Chip.ErrStands (page : Nat) (c d : Chip) : Prop where
  stat : ∀ j, bit (c.reg page 0x010) j = true → bit (d.reg page 0x010) j = true
  info : c.reg page 0x010 ≠ 0 → d.reg page 0x020 = c.reg page 0x020 ∧ d.reg page 0x024 = c.reg page 0x024
  inj : c.fld pgFLT 0x008 0 0 = 0 → d.fld pgFLT 0x008 0 0 = 0 ∧ d.reg page 0x018 = c.reg page 0x018

namespace Chip.ErrStands

variable {page : Nat} {c d e : Chip}

theorem set (h : Chip.ErrStands page c d) (hset : c.reg page 0x010 ≠ 0) : d.reg page 0x010 ≠ 0 := by
  obtain ⟨j, hj⟩ := Nat.exists_testBit_of_ne_zero hset
  intro hzero
  have hbit := h.stat j hj
  rw [hzero, bit, Nat.zero_testBit] at hbit
  cases hbit

theorem trans (h : Chip.ErrStands page c d) (g : Chip.ErrStands page d e) : Chip.ErrStands page c e where
  stat j hj := g.stat j (h.stat j hj)
  info hset := ⟨(g.info (h.set hset)).1.trans (h.info hset).1, (g.info (h.set hset)).2.trans (h.info hset).2⟩
  inj hoff := ⟨(g.inj (h.inj hoff).1).1, (g.inj (h.inj hoff).1).2.trans (h.inj hoff).2⟩

theorem of_regs (h : d.regs = c.regs) : Chip.ErrStands page c d := by
  have hsame (p off : Nat) : d.reg p off = c.reg p off := by rw [Chip.reg, h, Chip.reg]
  exact ⟨fun j hj => by rwa [hsame], fun _ => ⟨hsame _ _, hsame _ _⟩, fun hoff => ⟨by rwa [Chip.fld, hsame], hsame _ _⟩⟩

theorem ite {p : Prop} [Decidable p] (hd : Chip.ErrStands page c d) (he : Chip.ErrStands page c e) :
    Chip.ErrStands page c (if p then d else e) := by
  split
  · exact hd
  · exact he

end Chip.ErrStands

theorem Chip.Raised.errStands {c d : Chip} (h : Chip.Raised c d) (page : Nat) : Chip.ErrStands page c d where
  stat j hj := by rwa [h.head page 0x010 (by decide) nofun]
  info _ := ⟨h.head page 0x020 (by decide) nofun, h.head page 0x024 (by decide) nofun⟩
  inj hoff := ⟨h.injEn.trans hoff, h.head page 0x018 (by decide) fun _ => hoff⟩

/-- In d bit n of a page's ERR_STAT has been set, and ERR_INFO holds i0 and i1 where it was clear. -/
structure Chip.Captured (page n i0 i1 : Nat) (c d : Chip) : Prop where
  stat : ∀ j, bit (d.reg page 0x010) j = (bit (c.reg page 0x010) j || decide (j = n))
  clear : c.reg page 0x010 = 0 → d.reg page 0x020 = i0 % 2 ^ 32 ∧ d.reg page 0x024 = i1 % 2 ^ 32
  info : c.reg page 0x010 ≠ 0 → d.reg page 0x020 = c.reg page 0x020 ∧ d.reg page 0x024 = c.reg page 0x024
  others : ∀ p off, off < 0x40 → (p = page → off ≠ 0x010 ∧ off ≠ 0x020 ∧ off ≠ 0x024) → d.reg p off = c.reg p off
  cur : d.cur = c.cur

/-- An error's bit is set and its information captured where the page showed none (R525). -/
theorem Chip.captured (c : Chip) (page : Nat) {n : Nat} (i0 i1 : Nat) (hn : n < 64) :
    let d := c.setReg page 0x010 (c.reg page 0x010 ||| 2 ^ n)
    Chip.Captured page n i0 i1 c
      (if c.reg page 0x010 = 0 then (d.setReg page 0x020 (i0 % 2 ^ 32)).setReg page 0x024 (i1 % 2 ^ 32) else d) := by
  intro d
  have hlt : c.reg page 0x010 ||| 2 ^ n < 2 ^ 64 := Nat.or_lt_two_pow (c.reg_lt _ _) (Nat.pow_lt_pow_right (by decide) hn)
  have hstat (j : Nat) : bit (d.reg page 0x010) j = (bit (c.reg page 0x010) j || decide (j = n)) := by
    rw [Chip.reg_setReg, Nat.mod_eq_of_lt hlt, bit, Nat.testBit_or, Nat.testBit_two_pow, bit]
    simp [eq_comm]
  have hd (p off : Nat) (h : off < 0x40) (hne : p = page → off ≠ 0x010) : d.reg p off = c.reg p off :=
    c.reg_setReg_ne page 0x010 _ p off (by omega)
  split
  next hclear =>
    have he (p off : Nat) (h : off < 0x40) (hne : p = page → off ≠ 0x020 ∧ off ≠ 0x024) (v w : Nat) :
        ((d.setReg page 0x020 v).setReg page 0x024 w).reg p off = d.reg p off := by
      rw [Chip.reg_setReg_ne _ _ _ _ _ _ (by omega), Chip.reg_setReg_ne _ _ _ _ _ _ (by omega)]
    refine ⟨fun j => ?_, fun _ => ⟨?_, ?_⟩, fun hset => absurd hclear hset, fun p off h hne => ?_, rfl⟩
    · rw [he _ _ (by decide) fun _ => by decide, hstat]
    · rw [Chip.reg_setReg_ne _ _ _ _ _ _ (by omega), Chip.reg_setReg, Nat.mod_eq_of_lt (by omega)]
    · rw [Chip.reg_setReg, Nat.mod_eq_of_lt (by omega)]
    · rw [he _ _ h fun hp => (hne hp).2, hd _ _ h fun hp => (hne hp).1]
  next hset =>
    exact ⟨hstat, fun hclear => absurd hclear hset, fun _ => ⟨hd _ _ (by decide) fun _ => by decide, hd _ _ (by decide) fun _ => by decide⟩,
      fun p off h hne => hd _ _ h fun hp => (hne hp).1, rfl⟩

theorem Chip.Captured.set {page n i0 i1 : Nat} {c d : Chip} (h : Chip.Captured page n i0 i1 c d) : d.reg page 0x010 ≠ 0 := by
  intro hzero
  have hbit := h.stat n
  rw [hzero, bit, Nat.zero_testBit, decide_eq_true rfl, Bool.or_true] at hbit
  cases hbit

theorem Chip.Captured.errStands {page n i0 i1 : Nat} {c d : Chip} (h : Chip.Captured page n i0 i1 c d) (p : Nat) : Chip.ErrStands p c d := by
  have hinj (hoff : c.fld pgFLT 0x008 0 0 = 0) : d.fld pgFLT 0x008 0 0 = 0 ∧ d.reg p 0x018 = c.reg p 0x018 :=
    ⟨by rwa [Chip.fld, h.others _ _ (by decide) fun _ => by decide], h.others _ _ (by decide) fun _ => by decide⟩
  by_cases hp : p = page
  · subst hp
    exact ⟨fun j hj => by rw [h.stat, hj, Bool.true_or], h.info, hinj⟩
  · have hkept (off : Nat) (hoff : off < 0x40) : d.reg p off = c.reg p off := h.others p off hoff fun hp' => absurd hp' hp
    exact ⟨fun j hj => by rwa [hkept _ (by decide)], fun _ => ⟨hkept _ (by decide), hkept _ (by decide)⟩, hinj⟩

/-! ## The Ledger's own loss (R449), and the report of an error -/

theorem Chip.ErrStands.raiseBlk {page : Nat} {c d : Chip} (h : Chip.ErrStands page c d) (p : Prop) [Decidable p] (blk : Nat) :
    Chip.ErrStands page c (if p then d.raiseBlk blk else d) := .ite (h.trans ((d.raiseBlk_raised blk).errStands page)) h

theorem Chip.lossErr_errStands (c : Chip) (page : Nat) : Chip.ErrStands page c c.lossErr := by
  have hrefl := (Raised.refl c).errStands page
  have hfree : Chip.ErrStands page c (c.freeVal 32).2 := (Raised.of_regs rfl rfl : Chip.Raised c (c.freeVal 32).2).errStands page
  have hloss := hfree.trans ((Chip.captured (c.freeVal 32).2 pgCUR (n := 4) (c.freeVal 32).1 0 (by decide)).errStands page)
  have hlost {d : Chip} (h : Chip.ErrStands page c d) :
      Chip.ErrStands page c (if bit (d.reg pgCUR 0x01C) 4 then ({ d with cur.lost := d.cur.lost + 1 }).count pgCUR 6 1 else d) :=
    .ite (h.trans (((Raised.of_regs rfl rfl : Chip.Raised d { d with cur.lost := d.cur.lost + 1 }).count pgCUR 6 1 (by decide)).errStands page)) h
  have hsmall : (c.freeVal 32).1 % 2 ^ 32 = (c.freeVal 32).1 := Nat.mod_mod _ _
  rw [hsmall] at hloss
  exact .ite hrefl (hlost (hloss.raiseBlk _ _))

theorem Chip.orFree_regs (c : Chip) (w : Nat) (v : Option Nat) : (c.orFree w v).2.regs = c.regs := by cases v <;> rfl

theorem Chip.ledgerEv0_errStands (c : Chip) (page p kind : Nat) (code i0 i1 : Option Nat) :
    Chip.ErrStands page c (c.ledgerEv0 p kind code i0 i1).1 := by
  unfold Chip.ledgerEv0
  split
  · exact ((Raised.refl c).count pgCUR 5 1 (by decide)).errStands page
  · split
    · exact .of_regs ((Chip.orFree_regs _ 32 i1).trans ((Chip.orFree_regs _ 32 i0).trans (c.orFree_regs 8 code)))
    · have hlost : Chip.Raised c { c with cur.lost := c.cur.lost + 1 } := .of_regs rfl rfl
      exact (hlost.count pgCUR 6 1 (by decide)).errStands page

theorem Chip.ledgerEv_errStands (c : Chip) (page p kind : Nat) (code i0 i1 : Option Nat) :
    Chip.ErrStands page c (c.ledgerEv p kind code i0 i1) := by
  have hev := c.ledgerEv0_errStands page p kind code i0 i1
  exact .ite (hev.trans ((Chip.lossErr_errStands _ page).trans ((Chip.attn_raised _ 2).errStands page))) hev

/-- With the Ledger enabled and room in its buffer a record waits there (R449). -/
theorem Chip.ledgerEv_of_room {c : Chip} (page kind code i0 i1 : Nat) (hon : c.fld pgCUR 0x008 0 0 = 1) (hroom : c.cur.buf.length < 4096) :
    (c.ledgerEv page kind (some code) (some i0) (some i1)).cur.buf = c.cur.buf ++ [ledgerRec c page kind code i0 i1] := by
  have hoff : ¬ c.fld pgCUR 0x008 0 0 = 0 := by rw [hon]; decide
  rw [Chip.ledgerEv, Chip.ledgerEv0, if_neg hoff, if_pos hroom]
  rfl

/-- An unmasked error is captured, raises interrupts at most, and then goes to the Curator under ERR_ROUTE (R525 to R527). -/
theorem Chip.err_steps {c : Chip} {page n : Nat} (i0 i1 : Nat) (hn : n < 64) (hmask : bit (c.reg page 0x014) n = false) :
    ∃ e f, Chip.Captured page n i0 i1 c e ∧ Chip.Raised e f ∧ c.err page n i0 i1 =
      if bit (f.reg page 0x01C) n then f.ledgerEv page 0 (some n) (some i0) (some i1) else f := by
  rw [Chip.err, if_neg (ne_true_of_eq_false hmask)]
  exact ⟨_, _, c.captured page i0 i1 hn, .ite (Chip.raiseBlk_raised _ page) (.refl _), rfl⟩

/-- What follows the capture of an error leaves what it captured. -/
theorem Chip.err_captured {c : Chip} {page n : Nat} (i0 i1 : Nat) (hn : n < 64) (hmask : bit (c.reg page 0x014) n = false) :
    ∃ e, Chip.Captured page n i0 i1 c e ∧ Chip.ErrStands page e (c.err page n i0 i1) := by
  obtain ⟨e, f, hcaptured, hraised, herr⟩ := Chip.err_steps i0 i1 hn hmask
  rw [herr]
  exact ⟨e, hcaptured, (hraised.errStands page).trans (.ite (f.ledgerEv_errStands page page 0 _ _ _) ((Raised.refl f).errStands page))⟩

/-- A routed error's record waits in the Ledger's buffer with the error's own information (R527). -/
theorem Chip.err_record {c : Chip} {page n : Nat} (i0 i1 : Nat) (hn : n < 64) (hmask : bit (c.reg page 0x014) n = false)
    (hroute : bit (c.reg page 0x01C) n = true) (hon : c.fld pgCUR 0x008 0 0 = 1) (hroom : c.cur.buf.length < 4096) :
    ∃ f, ledgerRec f page 0 n i0 i1 ∈ (c.err page n i0 i1).cur.buf := by
  obtain ⟨e, f, hcaptured, hraised, herr⟩ := Chip.err_steps i0 i1 hn hmask
  have hreg (p off : Nat) (hoff : off < 0x40) (hnot : off ≠ 0x010 ∧ off ≠ 0x018 ∧ off ≠ 0x020 ∧ off ≠ 0x024) : f.reg p off = c.reg p off :=
    (hraised.head p off hoff fun h18 => absurd h18 hnot.2.1).trans
      (hcaptured.others p off hoff fun _ => ⟨hnot.1, hnot.2.2⟩)
  have hroute' : bit (f.reg page 0x01C) n = true := by rwa [hreg _ _ (by decide) (by decide)]
  have hon' : f.fld pgCUR 0x008 0 0 = 1 := by rwa [Chip.fld, hreg _ _ (by decide) (by decide)]
  have hbuf : f.cur.buf = c.cur.buf := by rw [hraised.buf, hcaptured.cur]
  refine ⟨f, ?_⟩
  rw [herr, if_pos hroute', Chip.ledgerEv_of_room _ _ _ _ _ hon' (by rwa [hbuf])]
  exact List.mem_append_right _ (List.mem_singleton_self _)

/-- Settles O58: the capture comes first, and what follows it leaves the page's error registers but for bits that it sets. -/
theorem errorCapture : Obligations.ErrorCapture := by
  intro c page n i0 i1 hn hmask d
  have hn64 : n < 64 := by omega
  obtain ⟨e, hcaptured, hstands⟩ := Chip.err_captured i0 i1 hn64 hmask
  obtain ⟨hinfo0, hinfo1⟩ := hstands.info hcaptured.set
  refine ⟨fun hclear => ?_, fun hset => ?_, ?_, fun j hj => ?_, fun hroute hon hroom => ?_⟩
  · rw [hinfo0, hinfo1]
    exact hcaptured.clear hclear
  · rw [hinfo0, hinfo1]
    exact hcaptured.info hset
  · exact hstands.stat n (by rw [hcaptured.stat, decide_eq_true rfl, Bool.or_true])
  · exact hstands.stat j (by rw [hcaptured.stat, hj, Bool.true_or])
  · obtain ⟨f, hmem⟩ := Chip.err_record i0 i1 hn64 hmask hroute hon hroom
    exact ⟨_, hmem, rfl, rfl, rfl, rfl, rfl⟩

/-! ## ERR_INJ while injection is disabled (R538) -/

/-- A refused write sets BAD_WRITE where it is not masked, and leaves ERR_INJ while no injection is enabled. -/
theorem Chip.badWrite_effect {c : Chip} {page : Nat} (hmask : bit (c.reg page 0x014) 7 = false) (hoff : c.fld pgFLT 0x008 0 0 = 0) :
    bit ((c.badWrite page).reg page 0x010) 7 = true ∧ (c.badWrite page).reg page 0x018 = c.reg page 0x018 := by
  have herr {d : Chip} (hd : d.regs = c.regs) (i0 i1 : Nat) :
      bit ((d.err page 7 i0 i1).reg page 0x010) 7 = true ∧ (d.err page 7 i0 i1).reg page 0x018 = c.reg page 0x018 := by
    have hsame (p off : Nat) : d.reg p off = c.reg p off := by rw [Chip.reg, hd, Chip.reg]
    obtain ⟨e, hcaptured, hstands⟩ := Chip.err_captured (c := d) i0 i1 (n := 7) (by decide) (by rw [hsame, hmask])
    obtain ⟨hon, hinj⟩ := (hcaptured.errStands page).inj (by rwa [Chip.fld, hsame])
    refine ⟨hstands.stat 7 (by rw [hcaptured.stat, decide_eq_true rfl, Bool.or_true]), ?_⟩
    rw [(hstands.inj hon).2, hinj, hsame]
  exact herr ((Chip.orFree_regs _ _ _).trans (Chip.orFree_regs _ _ _)) _ _

/-- Settles O59: a write of ERR_INJ while INJ_EN is 0 is a refused write. -/
theorem injectionOff : Obligations.InjectionOff := by
  intro page v s hpage hlive hoff hmask
  have hrefused : s.chip.errInj page.toNat v.toNat = s.chip.badWrite page.toNat := by
    have hknown : ¬ (blockOf page.toNat).isNone = true := by simpa [Option.isSome_iff_ne_none] using hpage
    rw [Chip.errInj, if_neg hknown, if_pos hoff]
  have hreport := Chip.badWrite_reports s.chip page.toNat
  obtain ⟨hbad, hinj⟩ := Chip.badWrite_effect (by rw [hmask]; rfl) hoff
  refine answers_of_page (exec_errInj page v s) hlive (by rw [hrefused, hreport.flt]) ?_
  rw [hrefused]
  exact ⟨hinj, hbad, hreport.flt, hreport.hom⟩

end Sys2Proof.Machine

/-!
Fences asked for by software (R528, R532, R534): where no fault is placed and none injected, the work of a fence finds no error, so
that nothing beyond the fence itself is fenced.
-/

namespace Sys2Proof.Machine

/-- No fault is placed and none is injected; the errors whose consequences are still to come are ds (R522, R538). -/
def Chip.Quiet (ds : List Due) (c : Chip) : Prop := c.flt.placed = [] ∧ c.fld pgFLT 0x008 0 0 = 0 ∧ c.flt.due = ds

/-- Where a check of a handle fails, the chip that it leaves. -/
def Chip.FailsQuiet (ds : List Due) : Nat ⊕ (Status × Nat × Chip) → Prop
  | .inl _ => True
  | .inr r => r.2.2.Quiet ds

theorem Chip.FailsQuiet.branch {ds : List Due} {p : Prop} [Decidable p] {x y : Nat ⊕ (Status × Nat × Chip)} (hx : Chip.FailsQuiet ds x)
    (hy : Chip.FailsQuiet ds y) : Chip.FailsQuiet ds (if p then x else y) := by
  split
  · exact hx
  · exact hy

namespace Chip.Quiet

variable {ds : List Due} {c d e : Chip}

theorem branch {p : Prop} [Decidable p] (hd : Chip.Quiet ds d) (he : Chip.Quiet ds e) : Chip.Quiet ds (if p then d else e) := by
  split
  · exact hd
  · exact he

theorem branchSnd {α : Type} {p : Prop} [Decidable p] {x y : α × Chip} (hx : Chip.Quiet ds x.2) (hy : Chip.Quiet ds y.2) :
    Chip.Quiet ds (if p then x else y).2 := by
  split
  · exact hx
  · exact hy

theorem foldl {α : Type} {f : Chip → α → Chip} {l : List α} (h : Chip.Quiet ds c) (hf : ∀ c x, Chip.Quiet ds c → Chip.Quiet ds (f c x)) :
    Chip.Quiet ds (l.foldl f c) := by
  induction l generalizing c with
  | nil => exact h
  | cons x xs ih => exact ih (hf c x h)

/-! ## Counters, errors and interrupts -/

theorem reported (h : Chip.Quiet ds c) (hstands : Chip.ErrStands pgFLT c d) (hflt : d.flt = c.flt) : Chip.Quiet ds d := by
  obtain ⟨hplaced, hinj, hdue⟩ := h
  exact ⟨hflt ▸ hplaced, (hstands.inj hinj).1, hflt ▸ hdue⟩

theorem setReg {page off v : Nat} (h : Chip.Quiet ds c) (hlo : 0x40 ≤ off) (hhi : off < 4096) : Chip.Quiet ds (c.setReg page off v) :=
  h.reported (((Raised.refl c).setReg v hlo hhi).errStands _) rfl

theorem count {page i n : Nat} (h : Chip.Quiet ds c) (hi : i < 504) : Chip.Quiet ds (c.count page i n) :=
  h.reported (((Raised.refl c).count page i n hi).errStands _) (c.count_flt page i n)

theorem raise {v : Nat} (h : Chip.Quiet ds c) (hv : v < 512) : Chip.Quiet ds (c.raise v) :=
  h.reported ((c.raise_raised hv).errStands _) (c.raise_reports v).flt

theorem ledgerEv {page kind : Nat} {code i0 i1 : Option Nat} (h : Chip.Quiet ds c) : Chip.Quiet ds (c.ledgerEv page kind code i0 i1) :=
  h.reported (c.ledgerEv_errStands _ _ _ _ _ _) (c.ledgerEv_reports page kind code i0 i1).flt

theorem err {page n i0 i1 : Nat} (h : Chip.Quiet ds c) (hn : n < 64) : Chip.Quiet ds (c.err page n i0 i1) := by
  cases hmask : bit (c.reg page 0x014) n with
  | true => rwa [Chip.err, if_pos hmask]
  | false =>
    obtain ⟨e, f, hcaptured, hraised, herr⟩ := Chip.err_steps i0 i1 hn hmask
    refine h.reported ?_ (c.err_reports page n i0 i1).flt
    rw [herr]
    have hf := (hcaptured.errStands pgFLT).trans (hraised.errStands pgFLT)
    exact .ite (hf.trans (f.ledgerEv_errStands _ _ _ _ _ _)) hf

/-! ## Storage: no fault is met by a read, and none is placed by a write -/

theorem injLink_eq {page target : Nat} (h : Chip.Quiet ds c) : c.injLink page target = (false, c) :=
  if_neg fun hon => absurd (h.2.1.symm.trans hon.1) (by decide)

theorem injWA {page target at_ : Nat} (h : Chip.Quiet ds c) : Chip.Quiet ds (c.injWA page target at_) :=
  (congrArg (Chip.Quiet ds) (if_neg fun hon => absurd (h.2.1.symm.trans hon.1) (by decide))).mpr h

theorem injW {page target : Nat} (h : Chip.Quiet ds c) : Chip.Quiet ds (c.injW page target) := h.injWA

theorem lpLink {s tag : Nat} (h : Chip.Quiet ds c) : Chip.Quiet ds (c.lpLink s tag) := by
  rwa [Chip.lpLink, h.injLink_eq]

theorem rewritten {page target lo n : Nat} (h : Chip.Quiet ds c) : Chip.Quiet ds (c.rewritten page target lo n) := by
  rwa [Chip.rewritten_nil _ _ _ _ _ h.1]

theorem ctrFound {k target : Nat} (h : Chip.Quiet ds c) : Chip.Quiet ds (c.ctrFound k target) := by
  rwa [Chip.ctrFound, Chip.faultsIn_nil _ _ _ _ _ h.1]

theorem ctrStored {k target : Nat} (h : Chip.Quiet ds c) : Chip.Quiet ds (c.ctrStored k target) := h.rewritten.injWA

theorem lpWake {s o n : Nat} (h : Chip.Quiet ds c) : Chip.Quiet ds (c.lpWake s o n) := h.branch h

theorem lpData {ctr tag a n : Nat} (h : Chip.Quiet ds c) (hctr : ctr < 504) : Chip.Quiet ds (c.lpData ctr tag a n) :=
  ((h.lpWake.lpLink.count hctr).count (by decide)).count (by decide)

theorem lpRead {tag a n : Nat} (h : Chip.Quiet ds c) : Chip.Quiet ds (c.lpRead tag a n) := by
  have hdata : Chip.Quiet ds (c.lpData 4 tag a n) := h.lpData (by decide)
  rw [Chip.lpRead, Chip.faultsIn_nil _ _ _ _ _ hdata.1]
  exact hdata

theorem lpWrite {tag a n : Nat} (h : Chip.Quiet ds c) : Chip.Quiet ds (c.lpWrite tag a n) := by
  have hdata : Chip.Quiet ds (c.lpData 5 tag a n) := h.lpData (by decide)
  rw [Chip.lpWrite, hdata.1]
  exact hdata.rewritten.injWA

theorem entryTraffic {n : Nat} {coalesced : Bool} (h : Chip.Quiet ds c) : Chip.Quiet ds (c.entryTraffic n coalesced) := by
  have hcache : Chip.Quiet ds { c with hom.cache := c.hom.cache.erase n } := h
  have hlink {s tag o n : Nat} := (hcache.lpWake (s := s) (o := o) (n := n)).lpLink (s := s) (tag := tag)
  exact (rewritten (.branch (hlink.count (by decide)) (hcache.lpData (by decide)))).injWA

theorem sramRead {tag a n : Nat} (h : Chip.Quiet ds c) : Chip.Quiet ds (c.sramRead tag a n).1 := by
  rwa [Chip.sramRead, Chip.faultsIn_nil _ _ _ _ _ h.1]

theorem sramWrite {a n : Nat} (h : Chip.Quiet ds c) : Chip.Quiet ds (c.sramWrite a n) := h.rewritten.injWA

theorem homeLookup {tag n : Nat} (h : Chip.Quiet ds c) : Chip.Quiet ds (c.homeLookup tag n) := by
  have hread : Chip.Quiet ds ((c.count pgHOM 5 1).lpRead tag (entryAddr n) 8) := (h.count (by decide)).lpRead
  unfold Chip.homeLookup
  refine h.branch ?_
  dsimp only
  split <;> exact hread

theorem homeRead {tag a n : Nat} (h : Chip.Quiet ds c) : Chip.Quiet ds (c.homeRead tag a n).1 := by
  unfold Chip.homeRead
  refine List.foldlRecOn (motive := fun r : Chip × Bool => Chip.Quiet ds r.1) _ _ h fun r hr t _ => ?_
  dsimp only
  split
  · exact hr.homeLookup.sramRead
  · exact hr.lpRead

theorem homeWrite {tag a n : Nat} (h : Chip.Quiet ds c) : Chip.Quiet ds (c.homeWrite tag a n) :=
  h.foldl fun _ t hc => .branch (sramWrite (hc.homeLookup (tag := tag) (n := t))) hc.lpWrite

theorem putBytes {a : Nat} {bs : List (BitVec 8)} (h : Chip.Quiet ds c) : Chip.Quiet ds (c.putBytes a bs) := by
  induction bs generalizing a c with
  | nil => exact h
  | cons b bs ih =>
    have hbyte (p : Prop) [Decidable p] (x y : Mem) :
        Chip.Quiet ds (if p then { c with hom.sram := x } else { c with hom.lp := y }) := .branch h h
    exact ih (hbyte _ _ _)

/-! ## Commands, queues and counters -/

theorem modCmd {q : Nat} {i : BitVec 32} {f : Cmd → Cmd} (h : Chip.Quiet ds c) : Chip.Quiet ds (c.modCmd q i f) := by
  unfold Chip.modCmd
  split <;> exact h

theorem setCmd {k : Cmd} (h : Chip.Quiet ds c) : Chip.Quiet ds (c.setCmd k) := h

theorem fixStatus {k : Cmd} {st : Status} {info : Nat} (h : Chip.Quiet ds c) : Chip.Quiet ds (c.fixStatus k st info) := by
  unfold Chip.fixStatus Chip.queueFail
  exact .branch h h

theorem endWork {q : Nat} {i : BitVec 32} {st : Status} {info : Nat} (h : Chip.Quiet ds c) : Chip.Quiet ds (c.endWork q i st info) := by
  unfold Chip.endWork
  split
  · exact .branch h.fixStatus h
  · exact h

theorem ctrClose {k : Nat} (h : Chip.Quiet ds c) : Chip.Quiet ds (c.ctrClose k) := by
  have hwraps {p : Prop} [Decidable p] {x : Ctr} {page n : Nat} :
      Chip.Quiet ds (if p then ((c.setCtr k x).count page 4 n).err page 3 k 0 else c.setCtr k x) :=
    .branch (err (count h (by decide)) (by decide)) h
  unfold Chip.ctrClose
  exact h.branch (.branch hwraps.ctrFound hwraps)

theorem headJudge {q : Nat} (h : Chip.Quiet ds c) : Chip.Quiet ds (c.headJudge q) := by
  unfold Chip.headJudge
  dsimp only
  split
  · exact h
  · refine .branch h (setCmd (foldl (foldl h fun _ _ hc => ?_) fun _ _ hc => ?_))
    · exact hc.ctrClose.ctrFound
    · exact .branch hc hc.ctrStored

theorem headGo {q n : Nat} (h : Chip.Quiet ds c) : Chip.Quiet ds (c.headGo q n) := by
  induction n generalizing c with
  | zero => exact h
  | succ n ih =>
    rw [Chip.headGo]
    split
    · exact h.headJudge
    · exact .branch (ih (fixStatus h.headJudge)) h.headJudge

theorem failWaits (h : Chip.Quiet ds c) : Chip.Quiet ds c.failWaits := h.foldl fun _ _ hc => hc.headGo

/-! ## Kernels and launches -/

theorem laneDiscard {n : Nat} (h : Chip.Quiet ds c) : Chip.Quiet ds (c.laneDiscard n) :=
  h.foldl fun _ _ hc => .branch (count hc (by decide)) hc

theorem coreStop {n : Nat} (h : Chip.Quiet ds c) : Chip.Quiet ds (c.coreStop n) := laneDiscard h

theorem kernelEnds {n : Nat} {st : Status} {info : Nat} (h : Chip.Quiet ds c) : Chip.Quiet ds (c.kernelEnds n st info) := by
  have hstop {l : List Nat} : Chip.Quiet ds (l.foldl (fun c m => c.coreStop m) c) := h.foldl fun _ _ hc => hc.coreStop
  unfold Chip.kernelEnds
  dsimp only
  split
  · exact hstop.endWork
  · exact hstop

theorem dropBy {p : MoveBy → Bool} (h : Chip.Quiet ds c) : Chip.Quiet ds (c.dropBy p) := h.foldl fun _ _ hc => hc

theorem lockTile {t : Nat} (h : Chip.Quiet ds c) : Chip.Quiet ds (c.lockTile t) := .branch h h

theorem dropLocks {q : Nat} {i : BitVec 32} (h : Chip.Quiet ds c) : Chip.Quiet ds (c.dropLocks q i) := by
  unfold Chip.dropLocks
  split
  · exact modCmd (foldl h fun _ _ hc => .branch hc hc)
  · exact h

theorem launchFails {q : Nat} {i : BitVec 32} {st : Status} {info : Nat} (h : Chip.Quiet ds c) : Chip.Quiet ds (c.launchFails q i st info) :=
  h.dropBy.dropLocks.endWork

theorem poisonRefuse {tag a n : Nat} (h : Chip.Quiet ds c) : Chip.Quiet ds (c.poisonRefuse tag a n) := (h.count (by decide)).err (by decide)

theorem resolveTiles {k : Cmd} {ts : List (Nat × Option Nat)} {all : Bool} (h : Chip.Quiet ds c) :
    Chip.Quiet ds (c.resolveTiles k ts all).2 := by
  induction ts generalizing c all with
  | nil => exact h
  | cons t ts ih =>
    obtain ⟨t, core⟩ := t
    unfold Chip.resolveTiles
    split
    · exact h
    next m _ =>
      split
      · exact h
      · split
        · exact ih h
        · dsimp only
          have hlock {p : Prop} [Decidable p] {s : Nat} {x : Slot} {f : Cmd → Cmd} :
              Chip.Quiet ds (((if p then c.nextOrder.2.setSlot s x else c.nextOrder.2).lockTile t).modCmd k.queue k.index f) :=
            modCmd (lockTile (.branch h h))
          split
          · exact h.poisonRefuse.launchFails
          · exact ih h
          · exact ih hlock
          · split
            · exact ih (hlock.count (by decide))
            · split
              · exact (h.err (by decide)).launchFails
              · split
                · exact ih h
                · exact ih (modCmd (count h (by decide)))

theorem resolve {q : Nat} {i : BitVec 32} (h : Chip.Quiet ds c) : Chip.Quiet ds (c.resolve q i) := by
  unfold Chip.resolve
  split
  · exact h
  · exact h.branch (.branch h.launchFails (.branch h.resolveTiles.modCmd h.resolveTiles))

theorem launchesGo (h : Chip.Quiet ds c) : Chip.Quiet ds c.launchesGo := h.foldl fun _ _ hc => hc.resolve

/-! ## Moves (R304, R305, R529, R530) -/

theorem reqMove {tile cls : Nat} {to_ : MoveTo} {lc pin : Bool} {by_ : MoveBy} (h : Chip.Quiet ds c) :
    Chip.Quiet ds (c.reqMove tile to_ cls lc pin by_) := h

theorem moveEnds0 {by_ : MoveBy} {tile cls : Nat} {st : Status} (h : Chip.Quiet ds c) : Chip.Quiet ds (c.moveEnds0 by_ tile cls st) := by
  have hkey : Chip.Quiet ds (if st = .key then
      (c.err (pgSHU (tile % 16)) 2 (c.tagBy by_) tile).count (pgSHU (tile % 16)) 19 (if cls ≥ 3 then 1 else 0) else c) :=
    .branch ((h.err (by decide)).count (by decide)) h
  unfold Chip.moveEnds0
  dsimp only
  generalize (if st = .key then _ else c) = d at hkey ⊢
  split
  · split
    · exact hkey
    · refine .branch hkey (.branch (.branch hkey.modCmd.endWork hkey.modCmd) (.branch (modCmd (dropBy ?_)) (endWork (dropBy ?_)))) <;>
      · split
        · exact (hkey.count (by decide)).err (by decide)
        · exact .branch (hkey.err (by decide)) hkey
        · exact hkey
  · exact .branch hkey (hkey.count (by decide))
  · exact .branch (hkey.count (by decide)) hkey
  · exact hkey
  · exact hkey

theorem moveEnds {by_ : MoveBy} {tile cls : Nat} {st : Status} (h : Chip.Quiet ds c) : Chip.Quiet ds (c.moveEnds by_ tile cls st) := by
  unfold Chip.moveEnds
  split
  · refine .branch h ?_
    split
    · exact moveEnds0 h
    · exact h
  · exact h.moveEnds0

theorem undoMove {m : Move} (h : Chip.Quiet ds c) : Chip.Quiet ds (c.undoMove m) := by
  unfold Chip.undoMove
  refine moveEnds (entryTraffic (count ?_ (by decide)))
  dsimp only
  split <;> split <;> exact h

theorem undoCore {n : Nat} (h : Chip.Quiet ds c) : Chip.Quiet ds (c.undoCore n) := h.foldl fun _ _ hc => hc.undoMove

/-- The lists of fences that are still to end are not part of it. -/
theorem fencesOpen {cores : List Nat} {fuses : List (Bool × Nat)} (h : Chip.Quiet ds c) :
    Chip.Quiet ds { c with flt.evac := cores, flt.fuseQ := fuses } := h

theorem evacGo (h : Chip.Quiet ds c) : Chip.Quiet ds c.evacGo := by
  unfold Chip.evacGo
  exact h.foldl fun _ _ hc => fencesOpen hc.ledgerEv

theorem evacuate {n : Nat} (h : Chip.Quiet ds c) : Chip.Quiet ds (c.evacuate n) := by
  unfold Chip.evacuate
  generalize List.range 128 = slots
  exact evacGo (fencesOpen (foldl h fun _ _ hc => .branch hc.reqMove hc))

/-! ## Buffers (R331, R334) -/

theorem setCell {k cell v : Nat} (h : Chip.Quiet ds c) : Chip.Quiet ds (c.setCell k cell v) := h.homeWrite.putBytes.injW

theorem readCells {k p : Nat} {xs : List Nat} (h : Chip.Quiet ds c) : Chip.Quiet ds (c.readCells k p xs).1 := by
  induction xs generalizing c with
  | nil => exact h
  | cons x xs ih =>
    rw [Chip.readCells]
    dsimp only
    split
    · exact h.homeRead
    · exact ih h.homeRead

theorem poolBreak {k p i0 i1 : Nat} (h : Chip.Quiet ds c) : Chip.Quiet ds (c.poolBreak k p i0 i1) := err h (by decide)

theorem setPool {k : Nat} {x : Pool} (h : Chip.Quiet ds c) : Chip.Quiet ds (c.setPool k x) := h

theorem bpmFail {k ctr n i0 i1 : Nat} (h : Chip.Quiet ds c) (hctr : ctr < 504) (hn : n < 64) :
    Chip.Quiet ds (c.bpmFail k ctr n i0 i1).2.2 := (h.count hctr).err hn

theorem handleCheck {hd i0 : Nat} {job : Option Nat} (h : Chip.Quiet ds c) : Chip.FailsQuiet ds (c.handleCheck hd job i0) := by
  have hbad {k ctr n i1 : Nat} (hctr : ctr < 504) (hn : n < 64) : Chip.FailsQuiet ds (.inr (c.bpmFail k ctr n i0 i1)) := h.bpmFail hctr hn
  have herr {st : Status} {x page n i1 : Nat} (hn : n < 64) : Chip.FailsQuiet ds (.inr (st, x, c.err page n i0 i1)) := h.err hn
  have hbreak {st : Status} {x k p : Nat} {xs : List Nat} :
      Chip.FailsQuiet ds (.inr (st, x, (c.readCells k p xs).1.poolBreak k p i0 hd)) := h.readCells.poolBreak
  unfold Chip.handleCheck
  dsimp only
  split
  · exact hbad (by decide) (by decide)
  · exact .branch (herr (by decide)) (.branch (herr (by decide)) (.branch hbreak
      (.branch (hbad (by decide) (by decide)) (.branch (hbad (by decide) (by decide)) trivial))))

/-- An entry is read where a condition asks for it. -/
theorem readIf {q : Prop} [Decidable q] {k p : Nat} {xs : List Nat} (h : Chip.Quiet ds c) :
    Chip.Quiet ds (if q then c.readCells k p xs else (c, false)).1 := by
  split
  · exact h.readCells
  · exact h

theorem bufRelease {hd i0 : Nat} {job : Option Nat} (h : Chip.Quiet ds c) : Chip.Quiet ds (c.bufRelease hd job i0).2 := by
  unfold Chip.bufRelease
  refine branchSnd h (branchSnd h ?_)
  rw [Chip.injR_nil _ _ _ _ _ h.1]
  refine branchSnd h ?_
  split
  next hfail =>
    have hcheck := h.handleCheck (hd := hd) (job := job) (i0 := i0)
    rwa [hfail] at hcheck
  next p _ =>
    refine branchSnd (readIf h.readCells).poolBreak (branchSnd (count (setCell (readIf h.readCells)) (by decide)) ?_)
    exact count (count (setPool (setCell (setCell (count (readIf h.readCells) (by decide))))) (by decide)) (by decide)

/-! ## Routing and combining (R73, R97, R110) -/

theorem drunsEnd (h : Chip.Quiet ds c) : Chip.Quiet ds c.drunsEnd := h

theorem overDrun {r : DRun} {st : Status} {info : Nat} (h : Chip.Quiet ds c) : Chip.Quiet ds (c.overDrun r st info) := by
  have hover {x : DRun} {q : Nat} {i : BitVec 32} {f : Cmd → Cmd} : Chip.Quiet ds ((c.setDrun x).modCmd q i f) := modCmd h
  unfold Chip.overDrun
  dsimp only
  split
  · exact .branch (drunsEnd hover.endWork) hover
  · exact hover

theorem stopDrun {r : DRun} {st : Status} {info : Nat} (h : Chip.Quiet ds c) : Chip.Quiet ds (c.stopDrun r st info) :=
  overDrun (modCmd h)

theorem abortFollowers {q : Nat} {i : BitVec 32} (h : Chip.Quiet ds c) : Chip.Quiet ds (c.abortFollowers q i) :=
  h.foldl fun _ _ hc => hc.stopDrun

theorem routeGone {r : RouteRun} {ok : Bool} (h : Chip.Quiet ds c) : Chip.Quiet ds (c.routeGone r ok) :=
  foldl h fun _ _ hc => hc.foldl fun _ _ hd => .branch hd.laneDiscard hd

theorem routeFail {r : RouteRun} {st : Status} {info : Nat} (h : Chip.Quiet ds c) : Chip.Quiet ds (c.routeFail r st info) := by
  refine launchesGo (endWork (abortFollowers (routeGone (count ?_ (by decide)))))
  exact bufRelease (foldl h fun _ _ hc => hc.bufRelease.bufRelease)

theorem combFail {w : Nat} {st : Status} {info : Nat} (h : Chip.Quiet ds c) : Chip.Quiet ds (c.combFail w st info) := by
  unfold Chip.combFail
  dsimp only
  split
  · exact h
  · exact endWork h

theorem failCluster {cl : Nat} {st : Status} (h : Chip.Quiet ds c) : Chip.Quiet ds (c.failCluster cl st) :=
  foldl (foldl (foldl h fun _ _ hc => hc.routeFail) fun _ _ hc => hc.stopDrun) fun _ _ hc => .branch hc.combFail hc

/-! ## The work of a fence (R528 to R532) -/

theorem failKernel {n : Nat} {st : Status} (h : Chip.Quiet ds c) : Chip.Quiet ds (c.failKernel n st) := .branch h.kernelEnds h

theorem failLaunches {n : Nat} (h : Chip.Quiet ds c) : Chip.Quiet ds (c.failLaunches n) := h.foldl fun _ _ hc => hc.launchFails

theorem laneFault {n : Nat} (h : Chip.Quiet ds c) : Chip.Quiet ds (c.laneFault n) :=
  h.foldl fun _ _ hc => (hc.err (by decide)).routeFail

theorem fenceWork {n : Nat} (h : Chip.Quiet ds c) : Chip.Quiet ds (c.fenceWork n) := by
  have hfailed : Chip.Quiet ds (((c.failKernel n .fenced).failLaunches n).laneFault n) := h.failKernel.failLaunches.laneFault
  exact evacuate hfailed

theorem fenceSeen {kind target page b : Nat} (h : Chip.Quiet ds c) : Chip.Quiet ds (c.fenceSeen kind target page b) :=
  ((h.setReg (by decide) (by decide)).err (by decide)).raise (by decide)

theorem ctxRefresh (h : Chip.Quiet ds c) : Chip.Quiet ds c.ctxRefresh := h

theorem fenceCore {n page b : Nat} (h : Chip.Quiet ds c) : Chip.Quiet ds (c.fenceCore n page b) := by
  have hundone : Chip.Quiet ds ((c.setCoreFence n).undoCore n) := undoCore h
  exact h.branch (ctxRefresh (hundone.count (by decide)).fenceSeen.fenceWork.launchesGo)

theorem fenceCluster {cl page b : Nat} (h : Chip.Quiet ds c) : Chip.Quiet ds (c.fenceCluster cl page b) := by
  have hundone {l : List Nat} : Chip.Quiet ds (l.foldl (fun c n => c.undoCore n) (c.setClFence cl)) := foldl h fun _ _ hc => hc.undoCore
  have hfailed {l l' : List Nat} := foldl (l := l') (hundone (l := l) |>.count (page := pgFLT) (i := 1) (n := 1) (by decide)
    |>.fenceSeen (kind := 2) (target := cl) (page := page) (b := b) |>.failCluster (cl := cl) (st := .fenced)) fun _ n hc => hc.fenceWork (n := n)
  refine h.branch (ctxRefresh (launchesGo (failWaits (ledgerEv ?_))))
  exact hfailed

end Chip.Quiet

/-- A fence row in whose work no error is found answers the chip with its fence. -/
theorem answers_of_fence {i : Instr} {s : State} {d : Chip} {P : Chip → Prop}
    (hrun : exec i s = .next { s with chip := if s.chip.pageLive pgFLT then s.chip.faultsGo d.healthGo else s.chip })
    (hlive : s.chip.pageLive pgFLT = true) (hdue : d.flt.due = s.chip.flt.due) (hP : P d.healthGo) : Answers i s P := by
  refine ⟨{ s with chip := d.healthGo }, ?_, rfl, hP⟩
  rw [hrun, if_pos hlive, Chip.faultsGo_same (by rw [(Chip.healthGo_reports d).flt, hdue])]

/-- Settles O56: the work of a fence finds no error, so that its own bits are all that is added. -/
theorem softwareFences : Obligations.SoftwareFences := by
  intro n k s hlive hplaced hinj z
  have hquiet : Chip.Quiet s.chip.flt.due s.chip := ⟨hplaced, hinj, rfl⟩
  refine ⟨answers_of_fence (exec_fenceCore n s) hlive (hquiet.fenceCore).2.2 ?_,
    answers_of_fence (exec_fenceCluster k s) hlive (hquiet.fenceCluster).2.2 ?_⟩
  · rw [Chip.healthGo_fz]
    refine ⟨fun m _ => ?_, ?_⟩
    · rw [Chip.fenceCoreFz, addFences_coreFence, getLsbD_unit _ _ _ n.isLt]
    · have hcl : z.clFence ||| 0 = z.clFence := BitVec.or_zero
      show { z with coreFence := _, clFence := z.clFence ||| 0 } = _
      rw [hcl]
      rfl
  · rw [Chip.healthGo_fz]
    refine ⟨fun m _ => ?_, fun m _ => ?_, rfl⟩
    · rw [Chip.fenceClusterFz, addFences_coreFence, getLsbD_cores _ _ k.isLt]
    · rw [Chip.fenceClusterFz, addFences_clFence, getLsbD_unit _ _ _ k.isLt]

end Sys2Proof.Machine
